-- ==== Sys2Proof/Word.lean ====
section
/-! DEFINITION. The word types of the FZ416: the 32-bit register word (R162) and the byte of a field
frame (R69). -/

namespace Sys2Proof

/-- A word of the register window, of a request or response record, of a mirror record (R162, R164). -/
abbrev Word := BitVec 32

/-- The data byte of one character of a field link (R69). -/
abbrev Byte := BitVec 8

/-- The four clients, 0-3 (00_scope.md, Terms). -/
abbrev ClientId := Fin 4

/-- The four field links, 0-3 (R1). -/
abbrev LinkId := Fin 4

end Sys2Proof
end

