-- ==== Sys2Proof/Syntax.lean ====
section
/-! DEFINITION. The commands of the FZ416: one constructor of `Instr` for each row of
spec/opcode_table.json, with the row's operands, and the names of the registers that a write can
address (Table 11-1). -/

namespace Sys2Proof

/-- The four end statuses a target signals (Table 7-3, R166). TIMEOUT is not among them: the part forms
it itself (R132). -/
inductive EndStatus
  | ok
  | protection
  | invalidAddress
  | dataCheck
  deriving DecidableEq, Repr

/-- The registers of one link (Table 11-1). -/
inductive LinkReg
  | control
  | rate
  | timing
  | poll
  | status
  | mask
  deriving DecidableEq, Repr

/-- The registers of one client window (Table 11-1). -/
inductive ClientReg
  | stage (i : Fin 3)
  | submit
  | resp (i : Fin 4)
  | pop
  | fifoState
  | cause
  | causeMask
  | linkWatch
  | irqMode
  | msgAddr
  | msgData
  | msgKey
  | control
  deriving DecidableEq, Repr

/-- What an offset of the register window names (Table 11-1, R162). -/
inductive RegName
  | devControl
  | timeNow
  | busConfig
  | occupancy (i : Fin 5)
  | link (l : LinkId) (r : LinkReg)
  | client (c : ClientId) (r : ClientReg)
  | undefined
  deriving DecidableEq, Repr

/-- The commands, in the order of spec/opcode_table.json.

A request row is the TAKING of the request at the head of client `c`'s request FIFO (R140); the fields
of the request stand in its record (R164). -/
inductive Instr
  | addStation (c : ClientId)
  | removeStation (c : ClientId)
  | queryStation (c : ClientId)
  | createPoint (c : ClientId)
  | lookupPoint (c : ClientId)
  | findPoint (c : ClientId)
  | nextPoint (c : ClientId)
  | modifyPoint (c : ClientId)
  | retirePoint (c : ClientId)
  | forcePoint (c : ClientId)
  | releasePoint (c : ClientId)
  | bind (c : ClientId)
  | unbind (c : ClientId)
  | resume (c : ClientId)
  | queryBinding (c : ClientId)
  | sendCommand (c : ClientId)
  | abortCommand (c : ClientId)
  | collect (c : ClientId)
  | badRequest (c : ClientId)
  /-- Write of `value` to SUBMIT. -/
  | submit (c : ClientId) (value : Word)
  /-- Read of RESP0-RESP3, the word `i`. -/
  | respRead (c : ClientId) (i : Fin 4)
  /-- Write of any value to POP. -/
  | pop (c : ClientId) (value : Word)
  /-- Read of CAUSE. -/
  | causeRead (c : ClientId)
  | causeWrite (c : ClientId) (value : Word)
  | causeMaskWrite (c : ClientId) (value : Word)
  | linkWatchWrite (c : ClientId) (value : Word)
  | irqModeWrite (c : ClientId) (value : Word)
  | msgAddrWrite (c : ClientId) (value : Word)
  | msgDataWrite (c : ClientId) (value : Word)
  | msgKeyWrite (c : ClientId) (value : Word)
  /-- Write to a client CONTROL register with the reset field set. -/
  | clientReset (c : ClientId)
  /-- Write to DEV_CONTROL with the reset field set. -/
  | softReset
  /-- Write of on to a link's enable. -/
  | linkEnable (l : LinkId)
  /-- Write of off to a link's enable. -/
  | linkDisable (l : LinkId)
  | rateWrite (l : LinkId) (value : Word)
  | statusWrite (l : LinkId) (value : Word)
  | maskWrite (l : LinkId) (value : Word)
  /-- Write of `value` at `offset` of the register window, to a register without a row of its own. -/
  | registerWrite (offset : BitVec 10) (value : Word)
  | hardwareReset
  | resetNRelease
  | timeBaseTick
  | freshnessExpiry (p : Fin 1024)
  | completionDeadlineExpiry (h : Fin 32)
  | visitStart (l : LinkId)
  | commandExchangeStart (l : LinkId)
  | frameSent (l : LinkId)
  | responseDeadlineExpiry (l : LinkId)
  /-- A character completes on RXD with its data byte, mark bit and stop bit. -/
  | characterReceived (l : LinkId) (data : Byte) (mark stop : Bool)
  | gapDeadlineExpiry (l : LinkId)
  | quietDeadlineExpiry (l : LinkId)
  | pollGapDeadlineExpiry (l : LinkId)
  | mirrorWriteStart
  | messageWriteStart
  | busGrant
  | busAccept
  /-- The target signals an end status, together with its accept or not. -/
  | busEndStatus (withAccept : Bool) (status : EndStatus)
  | busTimeout
  /-- A fall of RXD reaches the middle sample of its start bit. `recognized`: RXD is 0 there.
  `deadlinePassed`: for a false start, the expiry time of a running response deadline has passed by
  that sample. -/
  | startBitDetected (l : LinkId) (recognized deadlinePassed : Bool)
  | bgntNDeasserted
  deriving DecidableEq, Repr

end Sys2Proof
end

