-- ==== Sys2Proof/Decode.lean ====
section
/-! DEFINITION. Decoding: which register an offset of the register window names (Table 11-1, R162), and
the host's `decodeTableWord`. No row of spec/opcode_table.json gives bits, so no word spells a
command (log 20). -/

namespace Sys2Proof

/-- The register of a link block at word offset `w` of the block (Table 11-1: +0x00 to +0x14). -/
def decodeLinkReg (l : LinkId) (w : Nat) : RegName :=
  match w with
  | 0 => .link l .control
  | 1 => .link l .rate
  | 2 => .link l .timing
  | 3 => .link l .poll
  | 4 => .link l .status
  | 5 => .link l .mask
  | _ => .undefined

/-- The register of a client window at word offset `w` of the window (Table 11-1: +0x00 to +0x44). -/
def decodeClientReg (c : ClientId) (w : Nat) : RegName :=
  match w with
  | 0 => .client c (.stage 0)
  | 1 => .client c (.stage 1)
  | 2 => .client c (.stage 2)
  | 3 => .client c .submit
  | 4 => .client c (.resp 0)
  | 5 => .client c (.resp 1)
  | 6 => .client c (.resp 2)
  | 7 => .client c (.resp 3)
  | 8 => .client c .pop
  | 9 => .client c .fifoState
  | 10 => .client c .cause
  | 11 => .client c .causeMask
  | 12 => .client c .linkWatch
  | 13 => .client c .irqMode
  | 14 => .client c .msgAddr
  | 15 => .client c .msgData
  | 16 => .client c .msgKey
  | 17 => .client c .control
  | _ => .undefined

/-- The register of the common block at word offset `w` (Table 11-1: 0x000 to 0x01C). -/
def decodeCommonReg (w : Nat) : RegName :=
  match w with
  | 0 => .devControl
  | 1 => .timeNow
  | 2 => .busConfig
  | 3 => .occupancy 0
  | 4 => .occupancy 1
  | 5 => .occupancy 2
  | 6 => .occupancy 3
  | 7 => .occupancy 4
  | _ => .undefined

/-- R162: the register that an offset 0x000-0x3FF names. Address bits 1 and 0 are ignored. -/
def decodeOffset (offset : BitVec 10) : RegName :=
  let a := offset.toNat
  if a < 0x40 then decodeCommonReg (a / 4)
  else if a < 0xC0 then decodeLinkReg (Fin.ofNat 4 ((a - 0x40) / 0x20)) ((a - 0x40) % 0x20 / 4)
  else if a < 0x200 then .undefined
  else decodeClientReg (Fin.ofNat 4 ((a - 0x200) / 0x80)) ((a - 0x200) % 0x80 / 4)

/-- The command that a word spells by the bits of spec/opcode_table.json: no row gives bits, so none
(log 20). -/
def decodeTableWord (_nbits _w : Nat) : Option Instr := none

end Sys2Proof
end

