-- ==== Sys2Proof/Config.lean ====
section
/-! DEFINITION. What the FZ416 fixes for every part: the sizes of its tables, FIFOs and lists, and the
lengths of the deadlines that count REFCLK periods. The spec leaves no result value open, so there is
no free value here (log 18). -/

namespace Sys2Proof.Config

/-- R1: 256 station records. -/
def stationCount : Nat := 256

/-- R10: 1024 point records. -/
def pointCount : Nat := 1024

/-- R49: 2048 binding records. -/
def bindingCount : Nat := 2048

/-- R107: 32 command slots. -/
def slotCount : Nat := 32

/-- R109: at most 16 slots of one client are not FREE. -/
def slotsPerClient : Nat := 16

/-- R51: no binding chain is longer than 8. -/
def bindingsPerPoint : Nat := 8

/-- R111: sixteen tags, 0-15, at each station. -/
def tagCount : Nat := 16

/-- R136: request and response FIFOs hold 8 records each. -/
def fifoDepth : Nat := 8

/-- R72: the longest frame has 64 characters. -/
def maxFrame : Nat := 64

/-- R79: the unit of the response timeout, 100 microseconds, in periods of the 24 MHz REFCLK. -/
def responseUnit : Nat := 2400

/-- R128: the bus write timeout, 500 microseconds, in REFCLK periods. -/
def busTimeoutPeriods : Nat := 12000

/-- R70: one character time, 11 bits of 16 times the divisor, in REFCLK periods. -/
def characterPeriods (divisor : BitVec 10) : Nat := 176 * divisor.toNat

/-- R82: the gap limit of 4 character times, in REFCLK periods from the end of a stop bit. -/
def gapPeriods (divisor : BitVec 10) : Nat := 4 * characterPeriods divisor

/-- R89: QUIET lasts 2 character times, in REFCLK periods. -/
def quietPeriods (divisor : BitVec 10) : Nat := 2 * characterPeriods divisor

/-- R116: the unit of the completion timeout, 100 ms. -/
def completionUnit : Nat := 100

end Sys2Proof.Config
end

