-- ==== Sys2Proof/Machine/State.lean ====
section
/-! DEFINITION. The state of the FZ416 as plain data: the three tables of the Directory, the Command
Tracker, the Mirror Unit, the Memory Write Master, four Link Controllers, four Client Windows, the Time
Base, the pins that hold a level, and the queue of waiting commands; the reasons a step can stop; and
the machine right after reset. -/

namespace Sys2Proof.Machine

/-- Records by handle. A FREE record is not listed (R1, R10, R49, R107: its fields carry no meaning);
the canonical form lists handles strictly rising (log 7). -/
structure Table (α : Type) where
  rows : List (Nat × α)
  deriving DecidableEq, Repr

/-- One thing for each of four clients or four links. -/
structure Quad (α : Type) where
  q0 : α
  q1 : α
  q2 : α
  q3 : α
  deriving DecidableEq, Repr

/-- The same thing four times over. -/
def Quad.all {α : Type} (a : α) : Quad α := ⟨a, a, a, a⟩

/-- A running deadline on the time base: its start and its length in milliseconds (R158). -/
structure Deadline where
  start : BitVec 32
  length : Nat
  deriving DecidableEq, Repr

/-! ## The Directory: stations (Table 1-1) -/

/-- R1. FREE is the unlisted handle. -/
inductive StationState
  | joining
  | present
  | silent
  | leaving
  deriving DecidableEq, Repr

/-- Table 2-5: why a point is STALE, or a station SILENT. -/
inductive StaleCause
  | expired
  | silent
  | linkOff
  deriving DecidableEq, Repr

/-- R1, Table 1-1. `chain` holds the station's point chain in order: its head, each member's next point
and the point count are read from it (log 7). -/
structure Station where
  state : StationState
  link : LinkId
  address : Byte
  limit : Nat
  capacity : Nat
  miss : Nat
  typeCode : Option (BitVec 16)
  chain : List Nat
  staleCause : Option StaleCause
  deriving DecidableEq, Repr

/-! ## The Directory: points (Table 1-3) -/

/-- R10. FREE is the unlisted handle. -/
inductive PointState
  | awaiting
  | live
  | stale
  | forced
  | retiring
  deriving DecidableEq, Repr

/-- The states that reporting moves a point between: its own when it is not FORCED, the underlying
state when it is (R44). -/
inductive ReportedState
  | awaiting
  | live
  | stale
  deriving DecidableEq, Repr

/-- R10. -/
inductive Quality
  | good
  | bad
  deriving DecidableEq, Repr

/-- The four fields an entry acts on: the point's own, or the underlying ones of a FORCED point
(Table 2-8). -/
structure Reported where
  state : ReportedState
  value : Option Word
  quality : Quality
  stale : Option StaleCause
  deriving DecidableEq, Repr

/-- R10, R42: the forced part, present in FORCED only. -/
structure ForcedPart where
  value : Word
  under : Reported
  deriving DecidableEq, Repr

/-- R10, Table 1-3. `bindings` holds the point's binding chain, oldest first: its head, each member's
next binding and the binding count are read from it (log 7). -/
structure Point where
  state : PointState
  station : Nat
  number : Byte
  key : BitVec 4
  confirm : Nat
  deadband : BitVec 16
  period : BitVec 16
  value : Option Word
  quality : Quality
  stale : Option StaleCause
  candidate : Word
  run : Nat
  notified : Word
  reportCount : BitVec 16
  lastReport : Option (BitVec 32)
  forced : Option ForcedPart
  pendingCmd : Option Nat
  bindings : List Nat
  deadline : Option Deadline
  deriving DecidableEq, Repr

/-! ## The Directory: bindings (Table 3-1) -/

/-- R49. FREE is the unlisted handle. -/
inductive BindingState
  | active
  | suspended
  | closing
  | detaching
  deriving DecidableEq, Repr

/-- R49, Table 2-3. -/
inductive Trigger
  | change
  | report
  | quality
  deriving DecidableEq, Repr

/-- The error ends of a bus write (R131, R132), which are the faults of a binding (R49). -/
inductive WriteError
  | protection
  | invalidAddress
  | dataCheck
  | timeout
  deriving DecidableEq, Repr

/-- R49, Table 3-1. The queued flag is membership in the Mirror Update Queue (R53, log 7). -/
structure Binding where
  state : BindingState
  point : Nat
  client : ClientId
  key : BitVec 4
  address : Word
  trigger : Trigger
  inFlight : Bool
  sequence : BitVec 16
  fault : Option WriteError
  deriving DecidableEq, Repr

/-! ## The Command Tracker (Table 6-1) -/

/-- R107. FREE is the unlisted handle. -/
inductive SlotState
  | queued
  | sent
  | accepted
  | done
  deriving DecidableEq, Repr

/-- R107: the abort-pending result of a SENT slot. -/
inductive AbortPending
  | aborted
  | retired
  deriving DecidableEq, Repr

/-- R107, Table 6-7. -/
inductive CommandResult
  | completedOk
  | completedFail
  | refused
  | noResponse
  | timedOut
  | aborted
  | retired
  | stationLost
  | stationRestarted
  | linkDown
  deriving DecidableEq, Repr

/-- R107, Table 6-1. `timeout` is absent until the COMMAND exchange fixes it (R114, log 10). -/
structure Slot where
  state : SlotState
  client : ClientId
  hostTag : BitVec 16
  point : Nat
  station : Nat
  value : Word
  tag : Option Nat
  abort : Option AbortPending
  timeout : Option (BitVec 8)
  deadline : Option Deadline
  result : Option CommandResult
  code : Byte
  deriving DecidableEq, Repr

/-- R111: a tag in use is held by a slot or abandoned; a free tag is not listed in the tag set. -/
inductive TagUse
  | held (slot : Nat)
  | abandoned
  deriving DecidableEq, Repr

/-! ## Link Controllers (Table 5-1, R78) -/

/-- The eleven status flags of a link, in the order of their bits (Table 11-2). -/
inductive LinkFlag
  | frameError
  | crcError
  | lengthError
  | addressMismatch
  | kindMismatch
  | noResponse
  | unexpectedCompletion
  | discardedCompletion
  | stationSilent
  | stationPresent
  | configError
  deriving DecidableEq, Repr

/-- The faults that end an exchange DAMAGED (Table 4-6). -/
inductive RxFault
  | frame
  | crc
  | length
  | address
  | kind
  deriving DecidableEq, Repr

/-- R87: the kind of an exchange; a COMMAND names its slot and the tag sent. -/
inductive ExchangeKind
  | poll
  | identReq
  | command (slot : Nat) (tag : Nat)
  deriving DecidableEq, Repr

/-- R87: the exchange in flight, with the frame fixed when sending begins (R77) and the settings fixed
at its start (R70, R93). -/
structure Exchange where
  kind : ExchangeKind
  station : Nat
  address : Byte
  frame : List Byte
  divisor : BitVec 10
  responseTimeout : BitVec 8
  missLimit : BitVec 4
  deriving DecidableEq, Repr

/-- R78: the receiver's state in RECEIVING. `bytes` are the data bytes received while no fault was
pending, in order; `gap` is the gap deadline's length in REFCLK periods from the end of the last stop
bit, none while it is stopped (log 4). -/
structure Receiver where
  count : Nat
  expected : Option Nat
  bytes : List Byte
  crc : BitVec 16
  fault : Option RxFault
  gap : Option Nat
  deriving DecidableEq, Repr

/-- The link state and the exchange state of a link (R87, R88), with what each state holds. `deciding`
is an open decision point: the arbiter's choice is an exchange whose start is the next command of this
link (log 2). Deadlines of `awaiting` and `quiet` are in REFCLK periods (log 4). -/
inductive Activity
  | disabled
  | idle
  | gap
  | deciding
  | sending (x : Exchange)
  | awaiting (x : Exchange) (deadline : Nat)
  | receiving (x : Exchange) (rx : Receiver)
  | quiet (deadline : Nat)
  deriving DecidableEq, Repr

/-- R87, R91: the poll gap deadline. `expired`: it expired during an exchange or QUIET and is acted on
at the next decision point (R89). -/
inductive PollGap
  | stopped
  | running (d : Deadline)
  | expired
  deriving DecidableEq, Repr

/-- R103, Table 5-4, but for the enable, which is the link state. -/
structure LinkConfig where
  divisor : BitVec 10
  responseTimeout : BitVec 8
  completionTimeout : BitVec 8
  pollGap : BitVec 8
  missLimit : BitVec 4
  burstLimit : BitVec 4
  deriving DecidableEq, Repr

/-- R87, Table 5-1. `roundPos` none is end of round. `inCharacter`: the receiver is within a recognized
character (R71). -/
structure Link where
  activity : Activity
  roundPos : Option Nat
  roundCounter : BitVec 3
  burst : Nat
  pollGap : PollGap
  config : LinkConfig
  status : BitVec 11
  mask : BitVec 11
  inCharacter : Bool
  deriving DecidableEq, Repr

/-! ## Memory Write Master (Table 7-1) -/

/-- R129: the bus line size in bytes. -/
inductive LineSize
  | l16
  | l32
  | l64
  deriving DecidableEq, Repr

/-- R129, R166. -/
inductive WriteKind
  | write
  | writeLine
  deriving DecidableEq, Repr

/-- R125: who a transaction belongs to; a mirror write keeps its final or ordinary mark (R56). -/
inductive Owner
  | mirror (binding : Nat) (final : Bool)
  | message (client : ClientId)
  deriving DecidableEq, Repr

/-- R125, R128: the transaction in flight, its content fixed from its start. `timeout` counts REFCLK
periods from the assertion of BREQ_N (log 4). -/
structure Transaction where
  owner : Owner
  address : Word
  key : BitVec 4
  kind : WriteKind
  data : List Word
  timeout : Nat
  ignored : Bool
  deriving DecidableEq, Repr

/-- R125: the phases, each but IDLE with its transaction. -/
inductive Phase
  | idle
  | request (t : Transaction)
  | drive (t : Transaction)
  | accepted (t : Transaction)
  deriving DecidableEq, Repr

/-- R125, Table 7-1. -/
structure Mwm where
  phase : Phase
  lastClient : ClientId
  lineSize : LineSize
  deriving DecidableEq, Repr

/-! ## Client Windows (Tables 8-1 and 9-1) -/

/-- R136: a request record, the SUBMIT word and the three staging words. -/
structure Request where
  w0 : Word
  w1 : Word
  w2 : Word
  w3 : Word
  deriving DecidableEq, Repr

/-- R136, R142: a response record. -/
structure Response where
  w0 : Word
  w1 : Word
  w2 : Word
  w3 : Word
  deriving DecidableEq, Repr

/-- R148, Table 9-2: the five sticky causes. -/
structure Sticky where
  commandDone : Bool
  mirrorFault : Bool
  messageFault : Bool
  requestOverrun : Bool
  responseUnderread : Bool
  deriving DecidableEq, Repr

/-- R148. -/
inductive IrqMode
  | line
  | message
  deriving DecidableEq, Repr

/-- R148. -/
inductive MsgState
  | armed
  | pending
  | sent
  | failed
  deriving DecidableEq, Repr

/-- R136, R148: one Client Window. RESPONSE_READY and LINK_EVENT are not stored (R148). `passed`: the
clients that have had a request taken since this window's head request became ready, bit `c` for client
`c` (R140's bound, log 5). -/
structure Client where
  stage1 : Word
  stage2 : Word
  stage3 : Word
  requests : List Request
  responses : List Response
  passed : BitVec 4
  sticky : Sticky
  mask : BitVec 7
  watch : BitVec 4
  mode : IrqMode
  msgAddr : Word
  msgData : Word
  msgKey : BitVec 4
  msgState : MsgState
  msgInFlight : Bool
  msgIgnored : Bool
  deriving DecidableEq, Repr

/-! ## The whole machine -/

/-- The FZ416. `pending` is the queue of waiting commands, front first (log 1); `readData` the word the
last RESP_READ or CAUSE_READ drove onto the data lines (log 8); `resetN` the level of RESET_N; `bgnt`
says BGNT_N is asserted. -/
structure State where
  pending : List Instr
  resetN : Bool
  now : BitVec 32
  readData : Word
  bgnt : Bool
  stations : Table Station
  pollLists : Quad (List Nat)
  points : Table Point
  bindings : Table Binding
  mirrorQueue : List Nat
  slots : Table Slot
  cmdQueues : Quad (List Nat)
  tagSets : Table (Table TagUse)
  doneLists : Quad (List Nat)
  links : Quad Link
  mwm : Mwm
  clients : Quad Client
  deriving DecidableEq, Repr

/-- Why the machine stops with a fault: no command of the FZ416 does. Every error the spec names is a
status code, a flag, a cause or a fault field, and the part goes on (INVENTORY.md, Faults). The one
constructor is there so that the type has a name for what never happens. -/
inductive Fault
  /-- Raised by no meaning; safe, because nothing ever answers it. -/
  | never
  deriving DecidableEq, Repr

/-- Why a command is refused. -/
inductive Refusal
  /-- Raised by `exec` only, for a row that has no meaning yet; safe: the machine stops. -/
  | notModelled (mnemonic : String)
  deriving DecidableEq, Repr

/-! ## Reset values -/

/-- Table 5-4: the settings after hardware reset. -/
def LinkConfig.reset : LinkConfig where
  divisor := 0
  responseTimeout := 20
  completionTimeout := 50
  pollGap := 10
  missLimit := 3
  burstLimit := 4

/-- Table 5-1: a link after hardware reset. -/
def Link.reset : Link where
  activity := .disabled
  roundPos := none
  roundCounter := 0
  burst := 0
  pollGap := .stopped
  config := LinkConfig.reset
  status := 0
  mask := 0
  inCharacter := false

/-- Table 7-1. -/
def Mwm.reset : Mwm where
  phase := .idle
  lastClient := 3
  lineSize := .l32

/-- Table 9-1: all five clear. -/
def Sticky.reset : Sticky where
  commandDone := false
  mirrorFault := false
  messageFault := false
  requestOverrun := false
  responseUnderread := false

/-- Tables 8-1 and 9-1: a window after hardware reset. -/
def Client.reset : Client where
  stage1 := 0
  stage2 := 0
  stage3 := 0
  requests := []
  responses := []
  passed := 0
  sticky := Sticky.reset
  mask := 0
  watch := 0
  mode := .line
  msgAddr := 0
  msgData := 0
  msgKey := 0
  msgState := .armed
  msgInFlight := false
  msgIgnored := false

/-- The FZ416 right after reset (R159, Table 10-1): RESET_N has returned high and the time base stands
at 0 (log 9). BGNT_N is deasserted and `readData` is 0 by DESIGN CHOICE (log 6, log 8). -/
def State.reset : State where
  pending := []
  resetN := true
  now := 0
  readData := 0
  bgnt := false
  stations := ⟨[]⟩
  pollLists := Quad.all []
  points := ⟨[]⟩
  bindings := ⟨[]⟩
  mirrorQueue := []
  slots := ⟨[]⟩
  cmdQueues := Quad.all []
  tagSets := ⟨[]⟩
  doneLists := Quad.all []
  links := Quad.all Link.reset
  mwm := Mwm.reset
  clients := Quad.all Client.reset

end Sys2Proof.Machine
end

