-- ==== Sys2Proof/Machine/Tables.lean ====
section
/-! DEFINITION. The operations on a table of records and on a quad: find, put, drop, modify, the lowest
FREE handle, and the canonical form that each of them keeps. -/

namespace Sys2Proof.Machine

variable {α : Type}

/-- The record at handle `h` in a list of rows. -/
def findRow : List (Nat × α) → Nat → Option α
  | [], _ => none
  | (k, v) :: r, h => if k = h then some v else findRow r h

/-- The rows with the record at `h` put in its place by handle, replacing one that stands there. -/
def putRow : List (Nat × α) → Nat → α → List (Nat × α)
  | [], h, a => [(h, a)]
  | (k, v) :: r, h, a =>
    if h < k then (h, a) :: (k, v) :: r
    else if h = k then (h, a) :: r
    else (k, v) :: putRow r h a

/-- The record at handle `h`; none for a FREE one. -/
def Table.find (t : Table α) (h : Nat) : Option α := findRow t.rows h

/-- The record at handle `h` becomes `a`. -/
def Table.put (t : Table α) (h : Nat) (a : α) : Table α := ⟨putRow t.rows h a⟩

/-- The record at handle `h` becomes FREE. -/
def Table.drop (t : Table α) (h : Nat) : Table α := ⟨t.rows.filter (fun r => r.1 != h)⟩

/-- The record at handle `h`, if there is one, becomes `f` of it. -/
def Table.modify (t : Table α) (h : Nat) (f : α → α) : Table α :=
  match t.find h with
  | some a => t.put h (f a)
  | none => t

/-- The number of records that are not FREE (R161). -/
def Table.size (t : Table α) : Nat := t.rows.length

/-- The lowest FREE handle among the `n` handles from `h` on. -/
def Table.lowestFreeFrom (t : Table α) : Nat → Nat → Option Nat
  | 0, _ => none
  | n + 1, h => if (t.find h).isNone then some h else Table.lowestFreeFrom t n (h + 1)

/-- The lowest FREE handle below `n` (R3, R16, R52, R109, R111). -/
def Table.lowestFree (t : Table α) (n : Nat) : Option Nat := t.lowestFreeFrom n 0

/-- The canonical form: handles strictly rising. -/
abbrev Table.Canonical (t : Table α) : Prop := t.rows.Pairwise (fun a b => a.1 < b.1)

/-- Every record of a table has a property. -/
def Table.All (t : Table α) (P : Nat → α → Prop) : Prop := ∀ h a, t.find h = some a → P h a

/-- The one for client or link `i`. -/
def Quad.get (q : Quad α) (i : Fin 4) : α :=
  match i with
  | 0 => q.q0
  | 1 => q.q1
  | 2 => q.q2
  | 3 => q.q3

/-- The one for client or link `i` becomes `a`. -/
def Quad.set (q : Quad α) (i : Fin 4) (a : α) : Quad α :=
  match i with
  | 0 => { q with q0 := a }
  | 1 => { q with q1 := a }
  | 2 => { q with q2 := a }
  | 3 => { q with q3 := a }

/-- The one for client or link `i` becomes `f` of it. -/
def Quad.modify (q : Quad α) (i : Fin 4) (f : α → α) : Quad α := q.set i (f (q.get i))

/-- Each of the four becomes `f` of its number and itself. -/
def Quad.mapIdx (q : Quad α) (f : Fin 4 → α → α) : Quad α :=
  ⟨f 0 q.q0, f 1 q.q1, f 2 q.q2, f 3 q.q3⟩

/-- Each of the four becomes `f` of it. -/
def Quad.map {β : Type} (q : Quad α) (f : α → β) : Quad β := ⟨f q.q0, f q.q1, f q.q2, f q.q3⟩

end Sys2Proof.Machine
end

