-- ==== Sys2Proof/Machine/Ops.lean ====
section
/-! DEFINITION. The named operations over the state: one accessor and one update for each table, link
and window, and the guard that nothing is taken while RESET_N is low. -/

namespace Sys2Proof.Machine

/-- What a meaning answers. -/
abbrev Result := Host.Outcome State Fault Refusal

/-- R159: while RESET_N is low, register accesses are ignored and every block stands in reset, so only
the pins act; with RESET_N high the step is taken (log 9). -/
def inService (s : State) (f : State → State) : Result := .next (if s.resetN then f s else s)

/-- Link Controller `l`. -/
def State.link (s : State) (l : LinkId) : Link := s.links.get l

/-- Client Window `c`. -/
def State.client (s : State) (c : ClientId) : Client := s.clients.get c

/-- The poll list of link `l` (R4). -/
def State.pollList (s : State) (l : LinkId) : List Nat := s.pollLists.get l

/-- The command queue of link `l` (R110). -/
def State.cmdQueue (s : State) (l : LinkId) : List Nat := s.cmdQueues.get l

/-- The done list of client `c` (R112). -/
def State.doneList (s : State) (c : ClientId) : List Nat := s.doneLists.get c

/-- Link Controller `l` becomes `f` of it. -/
def State.modifyLink (s : State) (l : LinkId) (f : Link → Link) : State :=
  { s with links := s.links.modify l f }

/-- Client Window `c` becomes `f` of it. -/
def State.modifyClient (s : State) (c : ClientId) (f : Client → Client) : State :=
  { s with clients := s.clients.modify c f }

/-- Station record `h`, if not FREE, becomes `f` of it. -/
def State.modifyStation (s : State) (h : Nat) (f : Station → Station) : State :=
  { s with stations := s.stations.modify h f }

/-- Point record `h`, if not FREE, becomes `f` of it. -/
def State.modifyPoint (s : State) (h : Nat) (f : Point → Point) : State :=
  { s with points := s.points.modify h f }

/-- Binding record `h`, if not FREE, becomes `f` of it. -/
def State.modifyBinding (s : State) (h : Nat) (f : Binding → Binding) : State :=
  { s with bindings := s.bindings.modify h f }

/-- Command slot `h`, if not FREE, becomes `f` of it. -/
def State.modifySlot (s : State) (h : Nat) (f : Slot → Slot) : State :=
  { s with slots := s.slots.modify h f }

/-- A list without a handle; what remains keeps its order. -/
def without (xs : List Nat) (h : Nat) : List Nat := xs.filter (fun x => x != h)

/-- The handle that follows `h` in a list, none if `h` is the last or not in it (R90, R92). -/
def successor : List Nat → Nat → Option Nat
  | [], _ => none
  | x :: r, h => if x = h then r.head? else successor r h

/-- R158: a running deadline is due when the count, less the start and taken modulo 2^32, reaches or
passes the length. -/
def Deadline.due (d : Deadline) (now : BitVec 32) : Bool := decide (d.length ≤ (now - d.start).toNat)

/-- A deadline that is running and due (R158, log 14). -/
def deadlineDue (d : Option Deadline) (now : BitVec 32) : Bool :=
  match d with
  | some d => d.due now
  | none => false

/-- R12, R10: the next point of point `h` in its station's chain, a view of the chain. -/
def Station.nextPoint (st : Station) (h : Nat) : Option Nat := successor st.chain h

/-- R1: the point count, a view of the chain. -/
def Station.pointCount (st : Station) : Nat := st.chain.length

/-- R10: the binding count, a view of the chain. -/
def Point.bindingCount (p : Point) : Nat := p.bindings.length

/-- R49, R53: the queued flag, set exactly when the binding is in the Mirror Update Queue. -/
def State.queued (s : State) (b : Nat) : Bool := s.mirrorQueue.contains b

end Sys2Proof.Machine
end

