-- ==== Sys2Proof/Machine/Flags.lean ====
section
/-! DEFINITION. The flags: link status flags and their raising (R104, R105), the causes of a client and
its notify condition (R148 to R151), the interrupt line (R152), and the passing of an ARMED message to
PENDING (R153). -/

namespace Sys2Proof.Machine

/-- The bit of a link status flag in STATUS and MASK (Table 11-2). -/
def LinkFlag.bit : LinkFlag → Nat
  | .frameError => 0
  | .crcError => 1
  | .lengthError => 2
  | .addressMismatch => 3
  | .kindMismatch => 4
  | .noResponse => 5
  | .unexpectedCompletion => 6
  | .discardedCompletion => 7
  | .stationSilent => 8
  | .stationPresent => 9
  | .configError => 10

/-- Table 4-6: the status flag of a receive fault. -/
def RxFault.flag : RxFault → LinkFlag
  | .frame => .frameError
  | .crc => .crcError
  | .length => .lengthError
  | .address => .addressMismatch
  | .kind => .kindMismatch

/-- R104: a sticky flag is set and stays set. -/
def setLinkFlag (l : LinkId) (f : LinkFlag) (s : State) : State :=
  s.modifyLink l (fun k => { k with status := k.status ||| BitVec.twoPow 11 f.bit })

/-- R105: a link has a flag that is set and unmasked. -/
def Link.raised (k : Link) : Bool := (k.status &&& k.mask) != 0

/-- R150: a link in the watch set has a raised status flag. -/
def linkEvent (links : Quad Link) (watch : BitVec 4) : Bool :=
  (watch.getLsbD 0 && links.q0.raised) || (watch.getLsbD 1 && links.q1.raised) ||
    (watch.getLsbD 2 && links.q2.raised) || (watch.getLsbD 3 && links.q3.raised)

/-- The seven causes of a window in the order of their bits (Table 11-2), with the level causes
derived: RESPONSE_READY from the response FIFO, LINK_EVENT from the links (R148). -/
def Client.causes (k : Client) (links : Quad Link) : BitVec 7 :=
  BitVec.ofBoolListLE [!k.responses.isEmpty, linkEvent links k.watch, k.sticky.commandDone,
    k.sticky.mirrorFault, k.sticky.messageFault, k.sticky.requestOverrun,
    k.sticky.responseUnderread]

/-- R148: at least one cause is set and unmasked. -/
def Client.notify (k : Client) (links : Quad Link) : Bool := (k.causes links &&& k.mask) != 0

/-- R149: the CAUSE register of client `c`. -/
def State.causes (s : State) (c : ClientId) : BitVec 7 := (s.client c).causes s.links

/-- R148: the notify condition of client `c`. -/
def State.notify (s : State) (c : ClientId) : Bool := (s.client c).notify s.links

/-- R152, R159: IRQ_N of client `c` is asserted. -/
def State.irqAsserted (s : State) (c : ClientId) : Bool :=
  s.resetN && (s.client c).mode == .line && s.notify c

/-- The five sticky causes by name (Table 9-2). -/
inductive StickyCause
  | commandDone
  | mirrorFault
  | messageFault
  | requestOverrun
  | responseUnderread
  deriving DecidableEq, Repr

/-- R149: a sticky cause is set and stays set. -/
def Sticky.raise (k : Sticky) : StickyCause → Sticky
  | .commandDone => { k with commandDone := true }
  | .mirrorFault => { k with mirrorFault := true }
  | .messageFault => { k with messageFault := true }
  | .requestOverrun => { k with requestOverrun := true }
  | .responseUnderread => { k with responseUnderread := true }

/-- R149: the event of a sticky cause reaches client `c`. -/
def setSticky (c : ClientId) (x : StickyCause) (s : State) : State :=
  s.modifyClient c (fun k => { k with sticky := k.sticky.raise x })

/-- R149: a write to CAUSE clears each sticky cause whose bit is 1; the level positions ignore it. -/
def Sticky.clear (k : Sticky) (v : Word) : Sticky where
  commandDone := k.commandDone && !v.getLsbD 2
  mirrorFault := k.mirrorFault && !v.getLsbD 3
  messageFault := k.messageFault && !v.getLsbD 4
  requestOverrun := k.requestOverrun && !v.getLsbD 5
  responseUnderread := k.responseUnderread && !v.getLsbD 6

/-- R153: in MESSAGE mode an ARMED message whose notify condition holds passes on to PENDING. -/
def Client.settle (k : Client) (links : Quad Link) : Client :=
  if k.mode = .message ∧ k.msgState = .armed ∧ k.notify links = true then
    { k with msgState := .pending }
  else k

/-- R153 at every window, as the last part of an event that may raise a cause or enter ARMED. -/
def settle (s : State) : State :=
  { s with clients := s.clients.map (fun k => k.settle s.links) }

end Sys2Proof.Machine
end

