-- ==== Sys2Proof/Machine/Operands.lean ====
section
/-! DEFINITION. The operand forms: fields of request words and of response words (R164, Table 11-3), the
codes they use, the status codes (Table 8-3), and the answer of a request's owner. -/

namespace Sys2Proof.Machine

/-- The field of a word from bit `lo`, `width` bits wide. -/
def fieldOf (w : Word) (lo width : Nat) : Nat := (w.extractLsb' lo width).toNat

/-- A word with `v` in the field from bit `lo`, `width` bits wide, and 0 elsewhere. -/
def place (lo width v : Nat) : Word := BitVec.ofNat 32 (v % 2 ^ width) <<< lo

/-- A flag as a field value. -/
def bit (b : Bool) : Nat := if b then 1 else 0

/-- R164: the request kind, SUBMIT bits 7:0. -/
def Request.kind (r : Request) : Nat := fieldOf r.w0 0 8

/-- R164: the key field, SUBMIT bits 15:8. -/
def Request.key (r : Request) : Nat := fieldOf r.w0 8 8

/-- R164: the host tag, SUBMIT bits 31:16. -/
def Request.hostTag (r : Request) : BitVec 16 := r.w0.extractLsb' 16 16

/-- R164: the handle field of request word 1, bits 15:0. -/
def Request.handle (r : Request) : Nat := fieldOf r.w1 0 16

/-- Table 8-3. -/
inductive Status
  | ok
  | badRequest
  | badArgument
  | notFound
  | duplicate
  | noSpace
  | keyMismatch
  | wrongState
  | pointBusy
  | hasPoints
  | limit
  | noSlot
  | empty
  deriving DecidableEq, Repr

/-- Table 8-3: the code of a status. -/
def Status.code : Status → Nat
  | .ok => 0
  | .badRequest => 1
  | .badArgument => 2
  | .notFound => 3
  | .duplicate => 4
  | .noSpace => 5
  | .keyMismatch => 6
  | .wrongState => 7
  | .pointBusy => 8
  | .hasPoints => 9
  | .limit => 10
  | .noSlot => 11
  | .empty => 12

/-- R164: station state codes. -/
def StationState.code : StationState → Nat
  | .joining => 1
  | .present => 2
  | .silent => 3
  | .leaving => 4

/-- R164: point state codes; FREE is 0. -/
def PointState.code : PointState → Nat
  | .awaiting => 1
  | .live => 2
  | .stale => 3
  | .forced => 4
  | .retiring => 5

/-- R164: an underlying state has its point state's code. -/
def ReportedState.code : ReportedState → Nat
  | .awaiting => 1
  | .live => 2
  | .stale => 3

/-- R164: binding state codes; FREE is 0. -/
def BindingState.code : BindingState → Nat
  | .active => 1
  | .suspended => 2
  | .closing => 3
  | .detaching => 4

/-- R164: the slot state code SENT, of an abort that is pending. -/
def slotSentCode : Nat := 2

/-- R164: the slot state code DONE. -/
def slotDoneCode : Nat := 4

/-- R164: stale cause codes, none 0. -/
def staleCode : Option StaleCause → Nat
  | none => 0
  | some .expired => 1
  | some .silent => 2
  | some .linkOff => 3

/-- R164: quality codes. -/
def Quality.code : Quality → Nat
  | .good => 0
  | .bad => 1

/-- R164: trigger codes. -/
def Trigger.code : Trigger → Nat
  | .change => 0
  | .report => 1
  | .quality => 2

/-- R164: the trigger of a code; any other code is none. -/
def triggerOf : Nat → Option Trigger
  | 0 => some .change
  | 1 => some .report
  | 2 => some .quality
  | _ => none

/-- R164: fault codes, none 0. -/
def faultCode : Option WriteError → Nat
  | none => 0
  | some .protection => 1
  | some .invalidAddress => 2
  | some .dataCheck => 3
  | some .timeout => 4

/-- R164: command result codes. -/
def CommandResult.code : CommandResult → Nat
  | .completedOk => 1
  | .completedFail => 2
  | .refused => 3
  | .noResponse => 4
  | .timedOut => 5
  | .aborted => 6
  | .retired => 7
  | .stationLost => 8
  | .stationRestarted => 9
  | .linkDown => 10

/-- What a request's owner returns: the state after it, a status and the result words (R141). -/
structure Answer where
  state : State
  status : Status
  w1 : Word
  w2 : Word
  w3 : Word

/-- R14, R142: a refused request changes nothing, and its words 1-3 are 0. -/
def refuse (s : State) (x : Status) : Answer := ⟨s, x, 0, 0, 0⟩

/-- R142: an OK answer with its result words. -/
def okAnswer (s : State) (w1 w2 w3 : Word) : Answer := ⟨s, .ok, w1, w2, w3⟩

/-- R142, R164: the response record of an answered request. -/
def responseOf (r : Request) (a : Answer) : Response where
  w0 := place 0 8 r.kind ||| place 8 8 a.status.code ||| place 16 16 r.hostTag.toNat
  w1 := a.w1
  w2 := a.w2
  w3 := a.w3

/-- R140: the head request of a window is ready: one stands there and the response FIFO has room. -/
def Client.ready (k : Client) : Bool :=
  !k.requests.isEmpty && decide (k.responses.length < Config.fifoDepth)

/-- R140: client `c` may have a request taken: no other client has a ready request that one request of
client `c` has been taken before already. -/
def State.mayTake (s : State) (c : ClientId) : Bool :=
  [0, 1, 2, 3].all (fun d =>
    d == c || !((s.client d).ready && (s.client d).passed.getLsbD c.val))

/-- R140: what the taking of a request of client `c` leaves at window `d`: the next head of its own window
has been passed by none, and a ready request of another has been passed by `c`. -/
def Client.afterTaking (c d : ClientId) (k : Client) : Client :=
  if d = c then { k with passed := 0 }
  else if k.ready then { k with passed := k.passed ||| BitVec.twoPow 4 c.val }
  else k

/-- R140: the taking of a request of client `c` is noted at the four windows. -/
def State.noteTaking (s : State) (c : ClientId) : State :=
  { s with clients := s.clients.mapIdx (Client.afterTaking c) }

/-- R140 to R142, R164: the request at the head of client `c`'s request FIFO, of the row's kind, is taken
when the response FIFO has room and it is the client's turn: the owner `f` acts on it and its response
enters the response FIFO, as one event. Where no such request is ready, or its turn has not come, the
taking does not occur (log 3, log 5). -/
def takeRequest (c : ClientId) (isKind : Nat → Bool) (f : ClientId → Request → State → Answer)
    (s : State) : State :=
  match (s.client c).requests with
  | [] => s
  | r :: rest =>
    if isKind r.kind && decide ((s.client c).responses.length < Config.fifoDepth) && s.mayTake c then
      let a := f c r (s.modifyClient c (fun k => { k with requests := rest }))
      settle ((a.state.modifyClient c (fun k =>
        { k with responses := k.responses ++ [responseOf r a] })).noteTaking c)
    else s

end Sys2Proof.Machine
end

