-- ==== Sys2Proof/Machine/Mirror.lean ====
section
/-! DEFINITION. The Mirror Unit and the binding chains: the Mirror Update Queue (R53 to R55), the
bindings a point event queues (R35), the freeing of bindings and of retiring points (R24, R25, R51),
the published view (R17) and the mirror record (R57, R165). -/

namespace Sys2Proof.Machine

/-- R54: a requested binding is appended at the tail of the Mirror Update Queue, unless it is in the
queue already: then it keeps its place. -/
def queueBinding (b : Nat) (s : State) : State :=
  if s.mirrorQueue.contains b then s else { s with mirrorQueue := s.mirrorQueue ++ [b] }

/-- R55: a binding leaves the queue, wherever it stands. -/
def unqueueBinding (b : Nat) (s : State) : State :=
  { s with mirrorQueue := without s.mirrorQueue b }

/-- R12, R25: the point leaves its station's chain and its record becomes FREE. -/
def freePoint (h : Nat) (p : Point) (s : State) : State :=
  { s.modifyStation p.station (fun st => { st with chain := without st.chain h }) with
    points := s.points.drop h }

/-- R25: a RETIRING point with no pending command and an empty binding chain becomes FREE. -/
def testFree (h : Nat) (s : State) : State :=
  match s.points.find h with
  | none => s
  | some p =>
    if p.state = .retiring ∧ p.pendingCmd = none ∧ p.bindings = [] then freePoint h p s else s

/-- R51: the binding becomes FREE and leaves the queue and its point's chain; R25: the point is tested
for freeing. -/
def freeBinding (b : Nat) (s : State) : State :=
  match s.bindings.find b with
  | none => s
  | some r =>
    let s := unqueueBinding b { s with bindings := s.bindings.drop b }
    testFree r.point (s.modifyPoint r.point (fun p => { p with bindings := without p.bindings b }))

/-- The three classes of a point event (R35). -/
inductive EventClass
  | quality
  | value
  | plain
  deriving DecidableEq, Repr

/-- Table 2-3: a trigger selects an event class. -/
def Trigger.selects : Trigger → EventClass → Bool
  | _, .quality => true
  | .quality, .value => false
  | .change, .value => true
  | .report, .value => true
  | .report, .plain => true
  | .change, .plain => false
  | .quality, .plain => false

/-- R35: one binding of a point's chain at a point event. -/
def queueIfSelected (e : EventClass) (s : State) (b : Nat) : State :=
  match s.bindings.find b with
  | none => s
  | some r => if r.state = .active ∧ r.trigger.selects e = true then queueBinding b s else s

/-- R35: a point event asks for the qualifying ACTIVE bindings in chain order, oldest first. -/
def pointEvent (h : Nat) (e : EventClass) (s : State) : State :=
  match s.points.find h with
  | none => s
  | some p => p.bindings.foldl (queueIfSelected e) s

/-- R24: one binding of a retiring point: an ACTIVE one becomes CLOSING and is queued, a SUSPENDED one
becomes FREE, a DETACHING one stays. -/
def closeBinding (s : State) (b : Nat) : State :=
  match s.bindings.find b with
  | none => s
  | some r =>
    match r.state with
    | .active => queueBinding b (s.modifyBinding b (fun r => { r with state := .closing }))
    | .suspended => freeBinding b s
    | .closing => s
    | .detaching => s

/-- R24: the bindings of a retiring point, in chain order. -/
def closeBindings (h : Nat) (s : State) : State :=
  match s.points.find h with
  | none => s
  | some p => p.bindings.foldl closeBinding s

/-- The fields of a point as clients see them (R17, Table 1-5). -/
structure View where
  state : PointState
  value : Option Word
  quality : Quality
  stale : Option StaleCause
  deriving DecidableEq, Repr

/-- R17: the published view. For a FORCED point it is that of Table 1-5. -/
def Point.published (p : Point) : View :=
  match p.forced with
  | some f => ⟨.forced, some f.value, .good, none⟩
  | none => ⟨p.state, p.value, p.quality, p.stale⟩

/-- R17: an absent value reads 0. -/
def wordOr0 (v : Option Word) : Word := v.getD 0

/-- R57, R165: the mirror record of a binding, four words, built from the published view of its point
as it stands. A CLOSING binding's point is RETIRING, whose own code 5 is the state code RETIRED. -/
def mirrorRecord (h : Nat) (p : Point) (sequence : BitVec 16) : List Word :=
  let v := p.published
  [place 0 16 h ||| place 16 3 v.state.code ||| place 19 1 v.quality.code |||
      place 20 2 (staleCode v.stale) ||| place 22 1 (bit v.value.isSome) |||
      place 23 1 (bit p.lastReport.isSome),
    wordOr0 v.value,
    place 0 16 p.reportCount.toNat ||| place 16 16 sequence.toNat,
    wordOr0 p.lastReport]

end Sys2Proof.Machine
end

