-- ==== Sys2Proof/Machine/Acceptance.lean ====
section
/-! DEFINITION. Value acceptance and freshness (chapter 2): report entries, confirmation, the deadband,
FAULT entries, the freshness deadline, ageing by expiry or by a station's silence, and forcing. -/

namespace Sys2Proof.Machine

/-- R86: a delivered entry, its point number, whether its status is not 0, and its value. -/
structure Entry where
  number : Byte
  fault : Bool
  value : Word
  deriving DecidableEq, Repr

/-- The point state with the name of a reported state. -/
def ReportedState.toPointState : ReportedState → PointState
  | .awaiting => .awaiting
  | .live => .live
  | .stale => .stale

/-- The reported state of a point that is not FORCED. A RETIRING point takes no entry (R26). -/
def PointState.toReported : PointState → ReportedState
  | .awaiting => .awaiting
  | .live => .live
  | .stale => .stale
  | .forced => .awaiting
  | .retiring => .awaiting

/-- Table 2-8: the fields that reporting acts on, the underlying ones while FORCED. -/
def Point.reported (p : Point) : Reported :=
  match p.forced with
  | some f => f.under
  | none => ⟨p.state.toReported, p.value, p.quality, p.stale⟩

/-- Table 2-8: the fields that reporting acts on are set. -/
def Point.setReported (p : Point) (r : Reported) : Point :=
  match p.forced with
  | some f => { p with forced := some { f with under := r } }
  | none =>
    { p with state := r.state.toPointState, value := r.value, quality := r.quality, stale := r.stale }

/-- R21, R36: the point is LIVE, or FORCED with underlying state LIVE. -/
def Point.liveEligible (p : Point) : Bool :=
  match p.state with
  | .live => true
  | .forced => p.reported.state == .live
  | .awaiting => false
  | .stale => false
  | .retiring => false

/-- R29: the candidate run count after an OK entry with value `v`. -/
def Point.nextRun (p : Point) (v : Word) : Nat :=
  if 0 < p.run ∧ v = p.candidate then min (p.run + 1) p.confirm else 1

/-- R32: the deadband test on the exact difference of two signed 32-bit numbers. -/
def beyondDeadband (v n : Word) (deadband : BitVec 16) : Bool :=
  decide (deadband.toNat < (v.toInt - n.toInt).natAbs)

/-- Table 2-1: the event class of an accepted value, from the state and quality before the entry. -/
def acceptClass (r : Reported) (v n : Word) (deadband : BitVec 16) : EventClass :=
  match r.state, r.quality with
  | .live, .good => if beyondDeadband v n deadband then .value else .plain
  | .live, .bad => .quality
  | .awaiting, _ => .quality
  | .stale, _ => .quality

/-- Table 2-2: the event class of a FAULT entry. -/
def faultClass (r : Reported) : EventClass :=
  match r.state, r.quality with
  | .live, .bad => .plain
  | .live, .good => .quality
  | .awaiting, _ => .quality
  | .stale, _ => .quality

/-- Table 2-1: the notified value moves at a quality event and at a value event. -/
def notifiedAfter (e : EventClass) (v n : Word) : Word :=
  match e with
  | .quality => v
  | .value => v
  | .plain => n

/-- Table 2-4: the freshness deadline after a taken entry. -/
def Point.refreshDeadline (p : Point) (now : BitVec 32) : Point :=
  if p.reported.state = .live ∧ p.period ≠ 0 then
    { p with deadline := some ⟨now, p.period.toNat⟩ }
  else p

/-- R30, R31, R44: an accepted value. While FORCED no event class arises and the notified value stays
the forced value. -/
def Point.accept (p : Point) (v : Word) (now : BitVec 32) : Point × Option EventClass :=
  let e := acceptClass p.reported v p.notified p.deadband
  let q := { p.setReported ⟨.live, some v, .good, none⟩ with lastReport := some now }
  match p.forced with
  | some _ => (q, none)
  | none => ({ q with notified := notifiedAfter e v p.notified }, some e)

/-- R33, R44: a FAULT entry. -/
def Point.takeFault (p : Point) : Point × Option EventClass :=
  let e := faultClass p.reported
  let q := { p.setReported ⟨.live, p.reported.value, .bad, none⟩ with run := 0 }
  match p.forced with
  | some _ => (q, none)
  | none => (q, some e)

/-- R28 to R34, R36, R44: an entry taken against a point that is not RETIRING, with its report time. -/
def Point.takeEntry (p : Point) (e : Entry) (now : BitVec 32) : Point × Option EventClass :=
  let p := { p with reportCount := p.reportCount + 1 }
  let r :=
    if e.fault then p.takeFault
    else
      let run := p.nextRun e.value
      let p := { p with candidate := e.value, run := run }
      if run = p.confirm then p.accept e.value now else (p, none)
  (r.1.refreshDeadline now, r.2)

/-- R12, R18: the point of a station's chain that has a number. -/
def pointByNumber (s : State) (chain : List Nat) (n : Nat) : Option Nat :=
  chain.find? (fun h =>
    match s.points.find h with
    | some p => p.number.toNat == n
    | none => false)

/-- R35: the bindings of an entry's event class, if it has one, are asked for. -/
def announce (h : Nat) (e : Option EventClass) (s : State) : State :=
  match e with
  | some e => pointEvent h e s
  | none => s

/-- R27: one entry of a REPORT against the chain of its station. -/
def takeEntryAt (sid : Nat) (s : State) (e : Entry) : State :=
  match s.stations.find sid with
  | none => s
  | some st =>
    match pointByNumber s st.chain e.number.toNat with
    | none => s
    | some h =>
      match s.points.find h with
      | none => s
      | some p =>
        if p.state = .retiring then s
        else
          let r := p.takeEntry e s.now
          announce h r.2 { s with points := s.points.put h r.1 }

/-- R27: the entries of a REPORT in frame order. -/
def takeEntries (sid : Nat) (es : List Entry) (s : State) : State := es.foldl (takeEntryAt sid) s

/-- R37, R40, R45: a point whose reported state is LIVE becomes STALE with a cause, its run count 0 and
its deadline stopped. -/
def Point.age (p : Point) (cause : StaleCause) : Point :=
  { p.setReported { p.reported with state := .stale, stale := some cause } with
    run := 0
    deadline := none }

/-- R37, R40, R45: a LIVE point ages as a quality event; a FORCED one with underlying LIVE ages with no
binding queued; any other is unchanged. -/
def agePoint (cause : StaleCause) (s : State) (h : Nat) : State :=
  match s.points.find h with
  | none => s
  | some p =>
    if p.liveEligible then
      let s := { s with points := s.points.put h (p.age cause) }
      if p.state = .live then pointEvent h .quality s else s
    else s

/-- R40: a station's silence reaches its points in chain order. -/
def agePoints (sid : Nat) (cause : StaleCause) (s : State) : State :=
  match s.stations.find sid with
  | none => s
  | some st => st.chain.foldl (agePoint cause) s

/-- R37, R45: FRESHNESS_EXPIRY of point `h`, when its deadline is running and due (R158). -/
def expirePoint (h : Nat) (s : State) : State :=
  match s.points.find h with
  | none => s
  | some p => if deadlineDue p.deadline s.now then agePoint .expired s h else s

/-- The meaning of FRESHNESS_EXPIRY (R37, R45). -/
def execFreshnessExpiry (h : Fin 1024) (s : State) : Result := inService s (expirePoint h.val)

end Sys2Proof.Machine
end

