-- ==== Sys2Proof/Machine/Frames.lean ====
section
/-! DEFINITION. Field link characters and frames (chapter 4): the CRC, the frames the part sends, the
receiver's checks character by character, the closing checks and the delivered reply. -/

namespace Sys2Proof.Machine

/-- R73: one bit into the CRC register. -/
def crcBit (r : BitVec 16) (b : Bool) : BitVec 16 :=
  if r.msb ^^ b then (r <<< 1) ^^^ 0x1021#16 else r <<< 1

/-- R73: one byte, most significant bit first. -/
def crcByte (r : BitVec 16) (b : Byte) : BitVec 16 :=
  [7, 6, 5, 4, 3, 2, 1, 0].foldl (fun r i => crcBit r (b.getLsbD i)) r

/-- R73: the CRC of a run of bytes. -/
def crc (bs : List Byte) : BitVec 16 := bs.foldl crcByte 0xFFFF#16

/-- R73: the two CRC characters, high byte first. -/
def crcBytes (r : BitVec 16) : List Byte := [r.extractLsb' 8 8, r.extractLsb' 0 8]

/-- R74: kind codes. -/
def kindPoll : Byte := 0x10
/-- R74. -/
def kindIdentReq : Byte := 0x11
/-- R74. -/
def kindCommand : Byte := 0x12
/-- R74. -/
def kindReport : Byte := 0x20
/-- R74. -/
def kindIdent : Byte := 0x21
/-- R74. -/
def kindAck : Byte := 0x22

/-- R72, R77: a frame, address to CRC, of a kind with a payload. -/
def buildFrame (address kind : Byte) (payload : List Byte) : List Byte :=
  let body := address :: BitVec.ofNat 8 (payload.length + 1) :: kind :: payload
  body ++ crcBytes (crc body)

/-- R167: the value characters, most significant byte first. -/
def valueBytes (v : Word) : List Byte :=
  [v.extractLsb' 24 8, v.extractLsb' 16 8, v.extractLsb' 8 8, v.extractLsb' 0 8]

/-- R86: a 32-bit value assembled most significant byte first. -/
def valueOf (b3 b2 b1 b0 : Byte) : Word := b3 ++ b2 ++ b1 ++ b0

/-- R69: the 11 bits of one character in the order they are sent. -/
def characterBits (data : Byte) (mark : Bool) : List Bool :=
  [false, data.getLsbD 0, data.getLsbD 1, data.getLsbD 2, data.getLsbD 3, data.getLsbD 4,
    data.getLsbD 5, data.getLsbD 6, data.getLsbD 7, mark, true]

/-- R69, R77: the bits of a frame on TXD: the mark bit is 1 on the address character only. -/
def frameBits : List Byte → List Bool
  | [] => []
  | a :: r => characterBits a true ++ r.flatMap (fun b => characterBits b false)

/-- R77: TXEN is asserted from the start of the frame to its end. -/
def Link.txen (k : Link) : Bool :=
  match k.activity with
  | .sending _ => true
  | _ => false

/-- R77: what the link drives on TXD: the bits of the frame being sent, and 1 otherwise. -/
def Link.txd (k : Link) : List Bool :=
  match k.activity with
  | .sending x => frameBits x.frame
  | _ => [true]

/-- R78: the receiver as it stands when an exchange enters RECEIVING. -/
def Receiver.fresh : Receiver where
  count := 0
  expected := none
  bytes := []
  crc := 0xFFFF
  fault := none
  gap := none

/-- The received byte at position `n`, counted from 1 at the address character (Table 4-5). -/
def byteAt (bs : List Byte) (n : Nat) : Byte := bs.getD (n - 1) 0

/-- R81: L against the kind received. A code that is not one of the six has no check. -/
def lengthFitsKind (kind : Byte) (len : Nat) : Bool :=
  if kind = kindPoll ∨ kind = kindIdentReq then len == 1
  else if kind = kindCommand then len == 7
  else if kind = kindReport then decide (4 ≤ len ∧ len ≤ 60)
  else if kind = kindIdent then len == 5
  else if kind = kindAck then len == 3
  else true

/-- R80, R81, Table 4-4: the field check of the character at position `n`, given the bytes before it. -/
def fieldCheck (address : Byte) (bs : List Byte) (n : Nat) (data : Byte) : Option RxFault :=
  let len := (byteAt bs 2).toNat
  let kind := byteAt bs 3
  let e := (byteAt bs 5).toNat
  if n = 1 then
    if data = address then none else some .address
  else if n = 2 then
    if 1 ≤ data.toNat ∧ data.toNat ≤ 60 then none else some .length
  else if n = 3 then
    if lengthFitsKind data len then none else some .length
  else if kind = kindReport ∧ n = 5 then
    if data.toNat ≤ 8 ∧ 4 + 6 * data.toNat ≤ len then none else some .length
  else if kind = kindReport ∧ n = 6 + 6 * e then
    if data.toNat ≤ 4 ∧ len = 4 + 6 * e + 2 * data.toNat then none else some .length
  else if kind = kindIdent ∧ n = 6 then
    if data.toNat ≤ 4 then none else some .length
  else none

/-- R80: the checks of one character: its stop bit, its mark bit, then the field checks. -/
def characterCheck (address : Byte) (bs : List Byte) (n : Nat) (data : Byte) (mark stop : Bool) :
    Option RxFault :=
  if stop = false then some .frame
  else if mark ≠ (n == 1) then some .frame
  else fieldCheck address bs n data

/-- R73, R80: the characters from the address through the last payload character go into the CRC. -/
def inCrc (expected : Option Nat) (n : Nat) : Bool :=
  match expected with
  | none => true
  | some m => decide (n + 2 ≤ m)

/-- R80 to R82: the receiver after one more completed character. With a fault pending it only counts.
The gap deadline starts at the end of the character's stop bit. -/
def Receiver.take (x : Exchange) (rx : Receiver) (data : Byte) (mark stop : Bool) : Receiver :=
  let n := rx.count + 1
  let g := some (Config.gapPeriods x.divisor)
  match rx.fault with
  | some _ => { rx with count := n, gap := g }
  | none =>
    match characterCheck x.address rx.bytes n data mark stop with
    | some f => { rx with count := n, fault := some f, gap := g }
    | none =>
      { rx with
        count := n
        expected := if n = 2 then some (data.toNat + 4) else rx.expected
        bytes := rx.bytes ++ [data]
        crc := if inCrc rx.expected n then crcByte rx.crc data else rx.crc
        gap := g }

/-- R86: a delivered completion, its tag and result bytes. -/
structure Completion where
  tag : Byte
  result : Byte
  deriving DecidableEq, Repr

/-- R84, R86: what an ANSWERED exchange delivers. -/
inductive Reply
  | report (restarted : Bool) (entries : List Entry) (completions : List Completion)
  | ident (typeCode : BitVec 16) (capacity : Nat)
  | ack (code : Byte)
  deriving DecidableEq, Repr

/-- R84: the outcome of an exchange. -/
inductive ExchangeOutcome
  | answered (r : Reply)
  | silent
  | damaged (f : RxFault)
  deriving DecidableEq, Repr

/-- R75, Table 4-5: `n` entries from the bytes that start with them. -/
def entriesOf : Nat → List Byte → List Entry
  | 0, _ => []
  | n + 1, bs =>
    { number := byteAt bs 1
      fault := byteAt bs 2 != 0
      value := valueOf (byteAt bs 3) (byteAt bs 4) (byteAt bs 5) (byteAt bs 6) } ::
      entriesOf n (bs.drop 6)

/-- R75, Table 4-5: `n` completions from the bytes that start with them. -/
def completionsOf : Nat → List Byte → List Completion
  | 0, _ => []
  | n + 1, bs => { tag := byteAt bs 1, result := byteAt bs 2 } :: completionsOf n (bs.drop 2)

/-- R75, R86: the fields of a received REPORT; bits 1-7 of its flags are dropped. -/
def reportOf (bs : List Byte) : Reply :=
  let e := (byteAt bs 5).toNat
  let c := (byteAt bs (6 + 6 * e)).toNat
  .report ((byteAt bs 4).getLsbD 0) (entriesOf e (bs.drop 5)) (completionsOf c (bs.drop (6 + 6 * e)))

/-- R76, R86: the fields of a received IDENT; its flags character is dropped whole. -/
def identOf (bs : List Byte) : Reply := .ident (byteAt bs 4 ++ byteAt bs 5) (byteAt bs 6).toNat

/-- R76: the code of a received ACK. -/
def ackOf (bs : List Byte) : Reply := .ack (byteAt bs 5)

/-- R83: the kind an exchange expects. -/
def ExchangeKind.expects : ExchangeKind → Byte
  | .poll => kindReport
  | .identReq => kindIdent
  | .command _ _ => kindAck

/-- R83: the ACK's tag agrees with the tag sent; other exchanges have no such check. -/
def tagAgrees (k : ExchangeKind) (bs : List Byte) : Bool :=
  match k with
  | .command _ tag => (byteAt bs 4).toNat == tag
  | .poll => true
  | .identReq => true

/-- R86: the reply of a frame of the expected kind. -/
def replyOf (k : ExchangeKind) (bs : List Byte) : Reply :=
  match k with
  | .poll => reportOf bs
  | .identReq => identOf bs
  | .command _ _ => ackOf bs

/-- R83: the closing checks of a frame that reached its expected length, CRC first, then kind, then the
ACK's tag. -/
def closingChecks (k : ExchangeKind) (rx : Receiver) : ExchangeOutcome :=
  if byteAt rx.bytes (rx.count - 1) ++ byteAt rx.bytes rx.count ≠ rx.crc then .damaged .crc
  else if byteAt rx.bytes 3 ≠ k.expects then .damaged .kind
  else if tagAgrees k rx.bytes = false then .damaged .kind
  else .answered (replyOf k rx.bytes)

/-- R82: a character closes the frame at its expected length with no fault pending, or at 64 characters
with one. -/
def Receiver.closure (k : ExchangeKind) (rx : Receiver) : Option ExchangeOutcome :=
  match rx.fault with
  | some f => if rx.count = Config.maxFrame then some (.damaged f) else none
  | none => if rx.expected = some rx.count then some (closingChecks k rx) else none

end Sys2Proof.Machine
end

