-- ==== Sys2Proof/Machine/Commands.lean ====
section
/-! DEFINITION. The Command Tracker (chapter 6): tag sets (R111), the eligibility of queued slots (R93),
the entry of a slot into DONE (R112), the answer to a COMMAND (R115), completions (R117) and the ending
of a station's commands (R121). -/

namespace Sys2Proof.Machine

/-- R111: the tag set of a station; a tag not listed is free. -/
def State.tagSet (s : State) (sid : Nat) : Table TagUse := (s.tagSets.find sid).getD ⟨[]⟩

/-- R111: the tag set of a station becomes `t`; an all-free set is not listed (log 7). -/
def State.setTagSet (s : State) (sid : Nat) (t : Table TagUse) : State :=
  { s with tagSets := if t.rows.isEmpty then s.tagSets.drop sid else s.tagSets.put sid t }

/-- R111: the number of a station's tags in use, held and abandoned. -/
def State.tagsInUse (s : State) (sid : Nat) : Nat := (s.tagSet sid).size

/-- R93: a station's tags in use number less than its effective command capacity. -/
def State.hasRoom (s : State) (sid : Nat) : Bool :=
  match s.stations.find sid with
  | some st => decide (s.tagsInUse sid < st.capacity)
  | none => false

/-- R93: a QUEUED slot is eligible when its station has room. -/
def State.eligible (s : State) (h : Nat) : Bool :=
  match s.slots.find h with
  | some r => r.state == .queued && s.hasRoom r.station
  | none => false

/-- R93: the oldest eligible command of a link's command queue. -/
def State.oldestEligible (s : State) (l : LinkId) : Option Nat := (s.cmdQueue l).find? s.eligible

/-- R94: the burst counter is below the burst limit. -/
def Link.burstOpen (k : Link) : Bool := decide (k.burst < k.config.burstLimit.toNat)

/-- R93: a link in GAP with the burst counter below the burst limit is at a decision point. -/
def Link.openInGap (k : Link) : Link :=
  if k.activity = .gap ∧ k.burstOpen = true then { k with activity := .deciding } else k

/-- R93, R111: a freed tag made a QUEUED slot of the station eligible, which it was not `before`. -/
def noticeFreedTag (sid : Nat) (before : Bool) (s : State) : State :=
  match s.stations.find sid with
  | none => s
  | some st =>
    if before = false ∧ (s.cmdQueue st.link).any (fun h =>
        s.eligible h && ((s.slots.find h).map Slot.station == some sid)) = true then
      s.modifyLink st.link Link.openInGap
    else s

/-- R111: a tag of a station becomes free. -/
def freeTag (sid tag : Nat) (s : State) : State :=
  noticeFreedTag sid (s.hasRoom sid) (s.setTagSet sid ((s.tagSet sid).drop tag))

/-- R111: every tag of a station becomes free. -/
def freeAllTags (sid : Nat) (s : State) : State :=
  noticeFreedTag sid (s.hasRoom sid) { s with tagSets := s.tagSets.drop sid }

/-- R111: a tag of a station becomes abandoned. -/
def abandonTag (sid tag : Nat) (s : State) : State :=
  s.setTagSet sid ((s.tagSet sid).put tag .abandoned)

/-- R112: what becomes of the tag of a slot that enters DONE. A slot without a tag releases none. -/
inductive TagFate
  | freed
  | abandoned
  deriving DecidableEq, Repr

/-- R112 step 1: the slot's tag is released as the ending's rule gives. -/
def releaseTag (r : Slot) (fate : TagFate) (s : State) : State :=
  match r.tag with
  | none => s
  | some t =>
    match fate with
    | .freed => freeTag r.station t s
    | .abandoned => abandonTag r.station t s

/-- R108: the fields of a slot in DONE. -/
def Slot.finish (r : Slot) (result : CommandResult) (code : Byte) : Slot :=
  { r with
    state := .done
    tag := none
    abort := none
    deadline := none
    result := some result
    code := code }

/-- R110: the slot leaves its link's command queue; it stands in no other. -/
def dequeue (h : Nat) (s : State) : State :=
  { s with cmdQueues := s.cmdQueues.map (fun q => without q h) }

/-- R112: the entry of slot `h` into DONE, in the order of its five steps. -/
def finishSlot (h : Nat) (result : CommandResult) (code : Byte) (fate : TagFate) (s : State) : State :=
  match s.slots.find h with
  | none => s
  | some r =>
    let s := releaseTag r fate s
    let s := { s with slots := s.slots.put h (r.finish result code) }
    let s := s.modifyPoint r.point (fun p => { p with pendingCmd := none })
    let s := { s with doneLists := s.doneLists.modify r.client (fun d => d ++ [h]) }
    testFree r.point (setSticky r.client .commandDone s)

/-- R115, R119: the result an abort-pending mark gives. -/
def AbortPending.result : AbortPending → CommandResult
  | .aborted => .aborted
  | .retired => .retired

/-- R107, R116: the completion deadline of an accepted command, from the end time of the exchange. -/
def Slot.startDeadline (r : Slot) (now : BitVec 32) : Deadline :=
  ⟨now, (r.timeout.getD 0).toNat * Config.completionUnit⟩

/-- R115, Table 6-4: the CT takes the outcome of a COMMAND exchange for the slot sent. -/
def commandAnswer (h : Nat) (o : ExchangeOutcome) (s : State) : State :=
  match s.slots.find h with
  | none => s
  | some r =>
    match o, r.abort with
    | .answered (.ack code), none =>
      if code = 0 then
        s.modifySlot h (fun r => { r with state := .accepted, deadline := some (r.startDeadline s.now) })
      else finishSlot h .refused code .freed s
    | .answered (.ack code), some a =>
      if code = 0 then finishSlot h a.result 0 .abandoned s
      else finishSlot h a.result code .freed s
    | _, none => finishSlot h .noResponse 0 .abandoned s
    | _, some a => finishSlot h a.result 0 .abandoned s

/-- R117, Table 6-5: one completion against the tag set of the station the exchange addressed. A tag
held by a SENT slot cannot be named (R117), and nothing is done for it (log 17). -/
def takeCompletion (sid : Nat) (l : LinkId) (s : State) (c : Completion) : State :=
  match (s.tagSet sid).find c.tag.toNat with
  | none => setLinkFlag l .unexpectedCompletion s
  | some .abandoned => setLinkFlag l .discardedCompletion (freeTag sid c.tag.toNat s)
  | some (.held h) =>
    match s.slots.find h with
    | none => s
    | some r =>
      if r.state = .accepted then
        if c.result = 0 then finishSlot h .completedOk 0 .freed s
        else finishSlot h .completedFail c.result .freed s
      else s

/-- R117: the completions of a REPORT in frame order. -/
def takeCompletions (sid : Nat) (l : LinkId) (cs : List Completion) (s : State) : State :=
  cs.foldl (takeCompletion sid l) s

/-- R121: the QUEUED and ACCEPTED slots of a station, in ascending slot handle order. -/
def State.waitingSlots (s : State) (sid : Nat) : List Nat :=
  (List.range Config.slotCount).filter (fun h =>
    match s.slots.find h with
    | some r => r.station == sid && (r.state == .queued || r.state == .accepted)
    | none => false)

/-- R121, R122: one slot of a departing station ends with the departure's result. -/
def endSlot (result : CommandResult) (s : State) (h : Nat) : State :=
  finishSlot h result 0 .freed (dequeue h s)

/-- R121, R122: a departing station's commands end in slot handle order, and all its tags become free. -/
def endStationCommands (sid : Nat) (result : CommandResult) (s : State) : State :=
  freeAllTags sid ((s.waitingSlots sid).foldl (endSlot result) s)

/-- R23: the CT takes the pending command of a retiring point. -/
def retireCommand (h : Nat) (s : State) : State :=
  match s.slots.find h with
  | none => s
  | some r =>
    match r.state with
    | .queued => finishSlot h .retired 0 .freed (dequeue h s)
    | .accepted => finishSlot h .retired 0 .abandoned s
    | .sent =>
      s.modifySlot h (fun r =>
        { r with abort := if r.abort = some .aborted then some .aborted else some .retired })
    | .done => s

/-- R116: COMPLETION_DEADLINE_EXPIRY of slot `h`, when its deadline is running and due (R158). -/
def expireSlot (h : Nat) (s : State) : State :=
  match s.slots.find h with
  | none => s
  | some r =>
    if r.state = .accepted ∧ deadlineDue r.deadline s.now = true then
      settle (finishSlot h .timedOut 0 .abandoned s)
    else s

/-- The meaning of COMPLETION_DEADLINE_EXPIRY (R116). -/
def execCompletionDeadlineExpiry (h : Fin 32) (s : State) : Result := inService s (expireSlot h.val)

end Sys2Proof.Machine
end

