-- ==== Sys2Proof/Machine/Links.lean ====
section
/-! DEFINITION. The Link Controllers (chapter 5): the transmit arbiter at its decision points, rounds and
visits, COMMAND exchanges, the receiver's events, the end of an exchange and what its outcome does to
the station, and link enable and disable. -/

namespace Sys2Proof.Machine

/-! ## The arbiter -/

/-- R90: a station is due in a round with this counter. -/
def Station.due (st : Station) (counter : BitVec 3) : Bool :=
  match st.state with
  | .joining => true
  | .present => true
  | .silent => counter == 0
  | .leaving => false

/-- R90: station `h` is due. -/
def stationDue (s : State) (counter : BitVec 3) (h : Nat) : Bool :=
  match s.stations.find h with
  | some st => st.due counter
  | none => false

/-- The poll list from the round position onward; nothing at end of round. -/
def fromPosition (list : List Nat) (pos : Option Nat) : List Nat :=
  match pos with
  | none => []
  | some h => list.dropWhile (fun x => x != h)

/-- R90: the first due station from the round position onward. -/
def dueStation (s : State) (l : LinkId) (k : Link) : Option Nat :=
  (fromPosition (s.pollList l) k.roundPos).find? (stationDue s k.roundCounter)

/-- R93 step 1: the burst counter is below its limit and the queue holds an eligible command. -/
def commandReady (s : State) (l : LinkId) (k : Link) : Bool :=
  k.burstOpen && (s.oldestEligible l).isSome

/-- R91: the link is between rounds, its poll gap deadline running. -/
def Link.inGap (k : Link) : Bool :=
  match k.pollGap with
  | .running _ => true
  | .stopped => false
  | .expired => false

/-- R91: a round ends with the poll gap deadline started and the link in GAP. -/
def Link.endRound (k : Link) (now : BitVec 32) : Link :=
  { k with
    roundPos := none
    roundCounter := k.roundCounter + 1
    pollGap := .running ⟨now, k.config.pollGap.toNat⟩
    activity := .gap }

/-- R93: the arbiter decides at a decision point of link `l`: a command or a visit to start (the decision
stands open for its start, log 2), the wait in GAP, or the end of the round. With a poll gap of 0 the
next round begins at the same decision point (R91); `rounds` bounds how many can pass, and eight
always suffice, because every station is due in a round with counter 0 (log 15). -/
def arbitrate (s : State) (l : LinkId) : Nat → Link → Link
  | rounds, k =>
    if commandReady s l k then { k with activity := .deciding }
    else if k.inGap then { k with activity := .gap }
    else if (dueStation s l k).isSome then { k with activity := .deciding }
    else if k.config.pollGap ≠ 0 then k.endRound s.now
    else
      match rounds with
      | 0 => k.endRound s.now
      | n + 1 =>
        match s.pollList l with
        | [] => { k.endRound s.now with pollGap := .stopped, activity := .idle }
        | h :: _ => arbitrate s l n { k.endRound s.now with pollGap := .stopped, roundPos := some h }

/-- R91: how many rounds can pass at one decision point. -/
def roundsAtOnce : Nat := 8

/-- R91: a round starts from the head of the poll list, or the link enters IDLE. -/
def beginRound (s : State) (l : LinkId) (k : Link) : Link :=
  match s.pollList l with
  | [] => { k with pollGap := .stopped, roundPos := none, activity := .idle }
  | h :: _ => arbitrate s l roundsAtOnce { k with pollGap := .stopped, roundPos := some h }

/-- R89, R91, R93: what follows at a decision point: a round start if the poll gap deadline has expired,
and otherwise the arbiter's choice. -/
def decideLink (s : State) (l : LinkId) (k : Link) : Link :=
  match k.pollGap with
  | .expired => beginRound s l k
  | .running _ => arbitrate s l roundsAtOnce k
  | .stopped => arbitrate s l roundsAtOnce k

/-- A decision point of link `l` is taken. -/
def decisionPoint (l : LinkId) (s : State) : State := s.modifyLink l (decideLink s l)

/-! ## The start of an exchange -/

/-- R77, R87, R93: the exchange of a kind with a station, its frame built and its settings fixed. -/
def makeExchange (k : Link) (kind : ExchangeKind) (sid : Nat) (st : Station) (code : Byte)
    (payload : List Byte) : Exchange where
  kind := kind
  station := sid
  address := st.address
  frame := buildFrame st.address code payload
  divisor := k.config.divisor
  responseTimeout := k.config.responseTimeout
  missLimit := k.config.missLimit

/-- R90: a visit sends POLL to a PRESENT station and IDENT_REQ to a JOINING or SILENT one. -/
def visitExchange (k : Link) (sid : Nat) (st : Station) : Exchange :=
  if st.state = .present then makeExchange k .poll sid st kindPoll []
  else makeExchange k .identReq sid st kindIdentReq []

/-- R71, R77: the link enters SENDING; RXD is ignored while TXEN is asserted. -/
def Link.send (k : Link) (x : Exchange) : Link :=
  { k with activity := .sending x, inCharacter := false }

/-- R90, R94: VISIT_START at an open decision point whose choice is a visit. Where the choice has come to
be another one, the decision is taken again (log 2). -/
def visitStart (l : LinkId) (s : State) : State :=
  let k := s.link l
  if k.activity = .deciding then
    if commandReady s l k = false ∧ k.pollGap = .stopped then
      match dueStation s l k with
      | none => decisionPoint l s
      | some sid =>
        match s.stations.find sid with
        | none => s
        | some st =>
          s.modifyLink l (fun k =>
            { (k.send (visitExchange k sid st)) with
              roundPos := successor (s.pollList l) sid
              burst := 0 })
    else decisionPoint l s
  else s

/-- R77, R167: the payload of a COMMAND: tag, point number, value. -/
def commandPayload (tag : Nat) (number : Byte) (value : Word) : List Byte :=
  BitVec.ofNat 8 tag :: number :: valueBytes value

/-- R114: the slot is chosen: it leaves the queue, takes the lowest free tag and the completion timeout,
and enters SENT; R77: its COMMAND frame is built and sent. -/
def startCommand (l : LinkId) (h : Nat) (s : State) : State :=
  match s.slots.find h with
  | none => s
  | some r =>
    match s.stations.find r.station, s.points.find r.point,
        (s.tagSet r.station).lowestFree Config.tagCount with
    | some st, some p, some tag =>
      let k := s.link l
      let s := dequeue h s
      let s := s.setTagSet r.station ((s.tagSet r.station).put tag (.held h))
      let s := s.modifySlot h (fun r =>
        { r with state := .sent, tag := some tag, timeout := some k.config.completionTimeout })
      s.modifyLink l (fun k =>
        { (k.send (makeExchange k (.command h tag) r.station st kindCommand
            (commandPayload tag p.number r.value))) with
          burst := k.burst + 1 })
    | _, _, _ => s

/-- R93, R94, R114: COMMAND_EXCHANGE_START at an open decision point whose choice is a command. Where no
command is eligible any more, the decision is taken again (log 2). -/
def commandExchangeStart (l : LinkId) (s : State) : State :=
  let k := s.link l
  if k.activity = .deciding then
    if k.burstOpen then
      match s.oldestEligible l with
      | some h => startCommand l h s
      | none => decisionPoint l s
    else decisionPoint l s
  else s

/-- R77, R79: FRAME_SENT: the exchange enters AWAITING with its response deadline started. -/
def frameSent (l : LinkId) (s : State) : State :=
  match (s.link l).activity with
  | .sending x =>
    s.modifyLink l (fun k =>
      { k with activity := .awaiting x (x.responseTimeout.toNat * Config.responseUnit) })
  | _ => s

/-! ## Outcomes at the station -/

/-- R8: a LEAVING station's record and tag set become FREE. -/
def freeStation (sid : Nat) (s : State) : State :=
  { s with stations := s.stations.drop sid, tagSets := s.tagSets.drop sid }

/-- R96: an IDENT brings the station to PRESENT. -/
def identAnswer (sid : Nat) (l : LinkId) (typeCode : BitVec 16) (capacity : Nat) (s : State) : State :=
  setLinkFlag l .stationPresent (s.modifyStation sid (fun st =>
    { st with
      typeCode := some typeCode
      miss := 0
      state := .present
      capacity := min capacity st.limit
      staleCause := none }))

/-- R2, R98: a station enters JOINING with miss count 0, capacity 0 and no stale cause. -/
def Station.restart (st : Station) : Station :=
  { st with state := .joining, miss := 0, capacity := 0, staleCause := none }

/-- R98: a restart departure. -/
def restartDeparture (sid : Nat) (s : State) : State :=
  endStationCommands sid .stationRestarted (s.modifyStation sid Station.restart)

/-- R97, R99: the miss count becomes 0. -/
def clearMiss (sid : Nat) (s : State) : State := s.modifyStation sid (fun st => { st with miss := 0 })

/-- R2, R100, R102: a station enters SILENT with its cause. -/
def Station.fallSilent (st : Station) (cause : StaleCause) : Station :=
  { st with state := .silent, capacity := 0, staleCause := some cause }

/-- R100: a silence departure. -/
def silenceDeparture (sid : Nat) (l : LinkId) (s : State) : State :=
  let s := s.modifyStation sid (fun st => st.fallSilent .silent)
  let s := setLinkFlag l .stationSilent s
  agePoints sid .silent (endStationCommands sid .stationLost s)

/-- R99: the miss count after a miss, held at the limit. -/
def missAfter (miss limit : Nat) : Nat := min (miss + 1) limit

/-- R99, R100: a SILENT or DAMAGED outcome; at the limit a JOINING or PRESENT station departs. -/
def countMiss (sid : Nat) (l : LinkId) (limit : Nat) (s : State) : State :=
  match s.stations.find sid with
  | none => s
  | some st =>
    let s := s.modifyStation sid (fun st => { st with miss := missAfter st.miss limit })
    if missAfter st.miss limit = limit ∧ (st.state = .joining ∨ st.state = .present) then
      silenceDeparture sid l s
    else s

/-- R96 to R99: the DIR applies an outcome to the station; R97: the entries of a REPORT, then its
completions. -/
def applyOutcome (sid : Nat) (l : LinkId) (limit : Nat) (o : ExchangeOutcome) (s : State) : State :=
  match o with
  | .answered (.ident typeCode capacity) => identAnswer sid l typeCode capacity s
  | .answered (.report restarted es cs) =>
    if restarted then restartDeparture sid s
    else takeCompletions sid l cs (takeEntries sid es (clearMiss sid s))
  | .answered (.ack _) => clearMiss sid s
  | .silent => countMiss sid l limit s
  | .damaged _ => countMiss sid l limit s

/-- R84: the receive flag of an outcome. -/
def receiveFlag (l : LinkId) (o : ExchangeOutcome) (s : State) : State :=
  match o with
  | .answered _ => s
  | .silent => setLinkFlag l .noResponse s
  | .damaged f => setLinkFlag l f.flag s

/-- R95 step 2: for a COMMAND exchange the CT takes the result for the slot sent. -/
def slotOutcome (k : ExchangeKind) (o : ExchangeOutcome) (s : State) : State :=
  match k with
  | .command h _ => commandAnswer h o s
  | .poll => s
  | .identReq => s

/-- R95: the parts of an exchange result in their order; R8: at a LEAVING station the outcome is
ignored and the station becomes FREE. -/
def stationOutcome (l : LinkId) (x : Exchange) (o : ExchangeOutcome) (s : State) : State :=
  match s.stations.find x.station with
  | none => s
  | some st =>
    if st.state = .leaving then freeStation x.station s
    else applyOutcome x.station l x.missLimit.toNat o (slotOutcome x.kind o s)

/-- R84, R89, R95: the end of an exchange: its receive flag, its outcome at the station, and QUIET with
the quiet deadline started. -/
def endExchange (l : LinkId) (x : Exchange) (o : ExchangeOutcome) (s : State) : State :=
  let s := stationOutcome l x o (receiveFlag l o s)
  settle (s.modifyLink l (fun k => { k with activity := .quiet (Config.quietPeriods x.divisor) }))

/-! ## The receiver's events -/

/-- R79: RESPONSE_DEADLINE_EXPIRY: the exchange ends SILENT. -/
def responseExpiry (l : LinkId) (s : State) : State :=
  match (s.link l).activity with
  | .awaiting x _ => endExchange l x .silent s
  | _ => s

/-- R71, R79, R82: START_BIT_DETECTED. A recognized character meets the response deadline and stops the
gap deadline; a false start is discarded, and a response deadline that passed meanwhile expires. A
fall within a character is no start bit; while TXEN is asserted or the link is DISABLED, RXD is
ignored. -/
def startBit (l : LinkId) (recognized deadlinePassed : Bool) (s : State) : State :=
  let k := s.link l
  if k.inCharacter then s
  else
    match k.activity with
    | .disabled => s
    | .sending _ => s
    | .awaiting x _ =>
      if recognized then
        s.modifyLink l (fun k =>
          { k with activity := .receiving x Receiver.fresh, inCharacter := true })
      else if deadlinePassed then responseExpiry l s
      else s
    | .receiving x rx =>
      if recognized then
        s.modifyLink l (fun k =>
          { k with activity := .receiving x { rx with gap := none }, inCharacter := true })
      else s
    | _ => if recognized then s.modifyLink l (fun k => { k with inCharacter := true }) else s

/-- R80 to R83: a character completes in RECEIVING: it is checked, counted and added, and may close the
frame, which is the end of the exchange. -/
def receiveCharacter (l : LinkId) (x : Exchange) (rx : Receiver) (data : Byte) (mark stop : Bool)
    (s : State) : State :=
  let rx := rx.take x data mark stop
  let s := s.modifyLink l (fun k => { k with activity := .receiving x rx, inCharacter := false })
  match rx.closure x.kind with
  | some o => endExchange l x o s
  | none => s

/-- R71, R80: CHARACTER_RECEIVED. In AWAITING the character's own start bit has met the response deadline
(log 11). Outside AWAITING and RECEIVING the character is discarded; while TXEN is asserted or the link
is DISABLED, RXD is ignored. -/
def characterReceived (l : LinkId) (data : Byte) (mark stop : Bool) (s : State) : State :=
  match (s.link l).activity with
  | .disabled => s
  | .sending _ => s
  | .awaiting x _ => receiveCharacter l x Receiver.fresh data mark stop s
  | .receiving x rx => receiveCharacter l x rx data mark stop s
  | _ => s.modifyLink l (fun k => { k with inCharacter := false })

/-- R82: GAP_DEADLINE_EXPIRY: the frame closes with its pending fault, or with LENGTH_ERROR. -/
def gapExpiry (l : LinkId) (s : State) : State :=
  match (s.link l).activity with
  | .receiving x rx =>
    if rx.gap.isSome then endExchange l x (.damaged (rx.fault.getD .length)) s else s
  | _ => s

/-- R89: QUIET_DEADLINE_EXPIRY is a decision point. -/
def quietExpiry (l : LinkId) (s : State) : State :=
  match (s.link l).activity with
  | .quiet _ => decisionPoint l s
  | _ => s

/-- R89: at an exchange in flight or in QUIET, an expired poll gap deadline waits. -/
def Activity.busy : Activity → Bool
  | .sending _ => true
  | .awaiting _ _ => true
  | .receiving _ _ => true
  | .quiet _ => true
  | .deciding => false
  | .gap => false
  | .idle => false
  | .disabled => false

/-- R91: POLL_GAP_DEADLINE_EXPIRY, when the deadline is running and due (R158): a round starts at once
outside an exchange and QUIET, and otherwise at the next decision point (R89). -/
def pollGapExpiry (l : LinkId) (s : State) : State :=
  match (s.link l).pollGap with
  | .running d =>
    if d.due s.now then
      let s' := s.modifyLink l (fun k => { k with pollGap := .expired })
      if (s.link l).activity.busy then s' else decisionPoint l s'
    else s
  | .stopped => s
  | .expired => s

/-! ## Link enable and disable -/

/-- R101: the stations of an enabled link: SILENT becomes JOINING with miss count 0. -/
def Station.rejoin (st : Station) : Station :=
  if st.state = .silent then { st with state := .joining, miss := 0, staleCause := none } else st

/-- R101: link enable. -/
def enableLink (l : LinkId) (s : State) : State :=
  let k := s.link l
  if k.activity = .disabled then
    if k.config.divisor = 0 then settle (setLinkFlag l .configError s)
    else
      let s := (s.pollList l).foldl (fun s sid => s.modifyStation sid Station.rejoin) s
      s.modifyLink l (fun k => beginRound s l { k with roundCounter := 0, burst := 0 })
  else s

/-- R102 step 1: the exchange in flight. -/
def Activity.exchange : Activity → Option Exchange
  | .sending x => some x
  | .awaiting x _ => some x
  | .receiving x _ => some x
  | _ => none

/-- R102 step 1, R122: a COMMAND exchange that is cut ends its slot LINK_DOWN, its tag abandoned. -/
def cutCommand (k : Link) (s : State) : State :=
  match k.activity.exchange with
  | none => s
  | some x =>
    match x.kind with
    | .command h _ => finishSlot h .linkDown 0 .abandoned s
    | .poll => s
    | .identReq => s

/-- R102 step 2: the link becomes DISABLED and holds no exchange state. -/
def Link.disable (k : Link) : Link :=
  { k with activity := .disabled, pollGap := .stopped, roundPos := none, inCharacter := false }

/-- R102 step 3, R122: one station of a disabled link. -/
def stationLinkOff (s : State) (sid : Nat) : State :=
  match s.stations.find sid with
  | none => s
  | some st =>
    if st.state = .joining ∨ st.state = .present then
      let s := s.modifyStation sid (fun st => st.fallSilent .linkOff)
      agePoints sid .linkOff (endStationCommands sid .linkDown s)
    else s

/-- R102 step 4: the LEAVING stations of a link. -/
def leavingStations (l : LinkId) (s : State) : List Nat :=
  (s.stations.rows.filter (fun r => r.2.link == l && r.2.state == .leaving)).map Prod.fst

/-- R102: link disable, in the order of its four steps. -/
def disableLink (l : LinkId) (s : State) : State :=
  let k := s.link l
  if k.activity = .disabled then s
  else
    let s := cutCommand k s
    let s := s.modifyLink l Link.disable
    let s := (s.pollList l).foldl stationLinkOff s
    let s := (leavingStations l s).foldl (fun s sid => freeStation sid s) s
    settle s

/-! ## The meanings -/

/-- The meaning of VISIT_START (R90). -/
def execVisitStart (l : LinkId) (s : State) : Result := inService s (visitStart l)

/-- The meaning of COMMAND_EXCHANGE_START (R114). -/
def execCommandExchangeStart (l : LinkId) (s : State) : Result := inService s (commandExchangeStart l)

/-- The meaning of FRAME_SENT (R77). -/
def execFrameSent (l : LinkId) (s : State) : Result := inService s (frameSent l)

/-- The meaning of RESPONSE_DEADLINE_EXPIRY (R79). -/
def execResponseDeadlineExpiry (l : LinkId) (s : State) : Result := inService s (responseExpiry l)

/-- The meaning of CHARACTER_RECEIVED (R80). -/
def execCharacterReceived (l : LinkId) (data : Byte) (mark stop : Bool) (s : State) : Result :=
  inService s (characterReceived l data mark stop)

/-- The meaning of GAP_DEADLINE_EXPIRY (R82). -/
def execGapDeadlineExpiry (l : LinkId) (s : State) : Result := inService s (gapExpiry l)

/-- The meaning of QUIET_DEADLINE_EXPIRY (R89). -/
def execQuietDeadlineExpiry (l : LinkId) (s : State) : Result := inService s (quietExpiry l)

/-- The meaning of POLL_GAP_DEADLINE_EXPIRY (R91). -/
def execPollGapDeadlineExpiry (l : LinkId) (s : State) : Result := inService s (pollGapExpiry l)

/-- The meaning of START_BIT_DETECTED (R79). -/
def execStartBitDetected (l : LinkId) (recognized deadlinePassed : Bool) (s : State) : Result :=
  inService s (startBit l recognized deadlinePassed)

/-- The meaning of LINK_ENABLE (R101). -/
def execLinkEnable (l : LinkId) (s : State) : Result := inService s (enableLink l)

/-- The meaning of LINK_DISABLE (R102). -/
def execLinkDisable (l : LinkId) (s : State) : Result := inService s (disableLink l)

end Sys2Proof.Machine
end

