-- ==== Sys2Proof/Machine/Stations.lean ====
section
/-! DEFINITION. The station requests (section 1.2): ADD_STATION, REMOVE_STATION and QUERY_STATION. -/

namespace Sys2Proof.Machine

/-- R3: a station record that is not FREE holds this link and address. -/
def addressHeld (s : State) (l : LinkId) (address : Byte) : Bool :=
  s.stations.rows.any (fun r => r.2.link == l && r.2.address == address)

/-- R6: a new station record: JOINING on a RUNNING link, SILENT with LINK_OFF on a DISABLED one. -/
def newStation (running : Bool) (l : LinkId) (address : Byte) (limit : Nat) : Station where
  state := if running then .joining else .silent
  link := l
  address := address
  limit := limit
  capacity := 0
  miss := 0
  typeCode := none
  chain := []
  staleCause := if running then none else some .linkOff

/-- R87: the link is RUNNING. -/
def Link.running (k : Link) : Bool := k.activity != .disabled

/-- R91: a station appended to the poll list of a link in IDLE: the round position is set to it, and the
appending is a decision point. -/
def appendedWhileIdle (l : LinkId) (h : Nat) (s : State) : State :=
  if (s.link l).activity = .idle then
    decisionPoint l (s.modifyLink l (fun k => { k with roundPos := some h }))
  else s

/-- R4, R6: the record is allocated at `h` and appended to the tail of its link's poll list. -/
def placeStation (h : Nat) (st : Station) (s : State) : State :=
  appendedWhileIdle st.link h
    { s with
      stations := s.stations.put h st
      pollLists := s.pollLists.modify st.link (fun q => q ++ [h]) }

/-- R6: ADD_STATION. -/
def addStation (_c : ClientId) (r : Request) (s : State) : Answer :=
  let link := fieldOf r.w1 0 8
  let address := fieldOf r.w1 8 8
  let limit := fieldOf r.w1 16 8
  if 3 < link ∨ address < 1 ∨ 126 < address ∨ limit < 1 ∨ 4 < limit then refuse s .badArgument
  else
    let l : LinkId := Fin.ofNat 4 link
    let a : Byte := BitVec.ofNat 8 address
    if addressHeld s l a then refuse s .duplicate
    else
      match s.stations.lowestFree Config.stationCount with
      | none => refuse s .noSpace
      | some h =>
        okAnswer (placeStation h (newStation (s.link l).running l a limit) s) (place 0 16 h) 0 0

/-- R92: the round position when station `h` leaves the poll list: it moves from `h` to the station that
follows, and from any other it stays. -/
def Link.forget (k : Link) (list : List Nat) (h : Nat) : Link :=
  if k.roundPos = some h then { k with roundPos := successor list h } else k

/-- R7: an exchange with station `h` is in flight on the link. -/
def Link.inFlightWith (k : Link) (h : Nat) : Bool :=
  match k.activity.exchange with
  | some x => x.station == h
  | none => false

/-- R7 step 2, R92: the station leaves its link's poll list. -/
def leavePollList (h : Nat) (l : LinkId) (s : State) : State :=
  let s := s.modifyLink l (fun k => k.forget (s.pollList l) h)
  { s with pollLists := s.pollLists.modify l (fun q => without q h) }

/-- R7: the three steps of a removal that is not refused. -/
def removeRecord (h : Nat) (st : Station) (s : State) : State :=
  let s := leavePollList h st.link (freeAllTags h s)
  if (s.link st.link).inFlightWith h then
    s.modifyStation h (fun st => { st with state := .leaving, capacity := 0, staleCause := none })
  else freeStation h s

/-- R7: REMOVE_STATION. -/
def removeStation (_c : ClientId) (r : Request) (s : State) : Answer :=
  let h := r.handle
  if Config.stationCount ≤ h then refuse s .badArgument
  else
    match s.stations.find h with
    | none => refuse s .notFound
    | some st =>
      if st.state = .leaving then refuse s .wrongState
      else if 0 < st.pointCount then refuse s .hasPoints
      else okAnswer (removeRecord h st s) 0 0 0

/-- R9, Table 11-3: QUERY_STATION. -/
def queryStation (_c : ClientId) (r : Request) (s : State) : Answer :=
  let h := r.handle
  if Config.stationCount ≤ h then refuse s .badArgument
  else
    match s.stations.find h with
    | none => refuse s .notFound
    | some st =>
      okAnswer s
        (place 0 8 st.state.code ||| place 8 8 st.link.val ||| place 16 8 st.address.toNat |||
          place 24 8 st.miss)
        (place 0 8 st.limit ||| place 8 8 st.capacity ||| place 16 8 (s.tagsInUse h) |||
          place 24 8 (staleCode st.staleCause))
        (place 0 16 (st.typeCode.getD 0).toNat ||| place 16 1 (bit st.typeCode.isSome) |||
          place 17 9 st.pointCount)

/-- The meaning of ADD_STATION (R6). -/
def execAddStation (c : ClientId) (s : State) : Result :=
  inService s (takeRequest c (· == 0x01) addStation)

/-- The meaning of REMOVE_STATION (R7). -/
def execRemoveStation (c : ClientId) (s : State) : Result :=
  inService s (takeRequest c (· == 0x02) removeStation)

/-- The meaning of QUERY_STATION (R9). -/
def execQueryStation (c : ClientId) (s : State) : Result :=
  inService s (takeRequest c (· == 0x03) queryStation)

end Sys2Proof.Machine
end

