-- ==== Sys2Proof/Machine/Points.lean ====
section
/-! DEFINITION. The point requests (sections 1.4, 1.5 and 2.6): CREATE_POINT, LOOKUP_POINT, FIND_POINT,
NEXT_POINT, MODIFY_POINT, RETIRE_POINT, FORCE_POINT and RELEASE_POINT. -/

namespace Sys2Proof.Machine

/-- R16: a new point record. -/
def newPoint (station : Nat) (number : Byte) (key : BitVec 4) (confirm : Nat)
    (deadband period : BitVec 16) : Point where
  state := .awaiting
  station := station
  number := number
  key := key
  confirm := confirm
  deadband := deadband
  period := period
  value := none
  quality := .good
  stale := none
  candidate := 0
  run := 0
  notified := 0
  reportCount := 0
  lastReport := none
  forced := none
  pendingCmd := none
  bindings := []
  deadline := none

/-- The point number of a handle, none for a FREE record. -/
def numberOf (s : State) (h : Nat) : Option Nat := (s.points.find h).map (fun p => p.number.toNat)

/-- R12: the new point `h` with number `n` at its ordered position in a chain, before the first member
with a number above its own. -/
def insertByNumber (s : State) (n h : Nat) : List Nat → List Nat
  | [] => [h]
  | x :: r =>
    match numberOf s x with
    | some m => if n < m then h :: x :: r else x :: insertByNumber s n h r
    | none => x :: insertByNumber s n h r

/-- R12, R16: the point is allocated at `h` and inserted in its station's chain. -/
def placePoint (h : Nat) (p : Point) (s : State) : State :=
  { s.modifyStation p.station (fun st =>
      { st with chain := insertByNumber s p.number.toNat h st.chain }) with
    points := s.points.put h p }

/-- R16: CREATE_POINT. -/
def createPoint (_c : ClientId) (r : Request) (s : State) : Answer :=
  let sid := fieldOf r.w1 0 16
  let number := fieldOf r.w1 16 16
  let confirm := fieldOf r.w2 0 8
  if Config.stationCount ≤ sid ∨ 255 < number ∨ 15 < r.key ∨ confirm < 1 ∨ 3 < confirm then
    refuse s .badArgument
  else
    match s.stations.find sid with
    | none => refuse s .notFound
    | some st =>
      if st.state = .leaving then refuse s .wrongState
      else if (pointByNumber s st.chain number).isSome then refuse s .duplicate
      else
        match s.points.lowestFree Config.pointCount with
        | none => refuse s .noSpace
        | some h =>
          okAnswer
            (placePoint h
              (newPoint sid (BitVec.ofNat 8 number) (BitVec.ofNat 4 r.key) confirm
                (r.w2.extractLsb' 16 16) (r.w3.extractLsb' 0 16)) s)
            (place 0 16 h) 0 0

/-- R164: the underlying state field is 0 when the point is not FORCED. -/
def underlyingCode (p : Point) : Nat :=
  match p.forced with
  | some f => f.under.state.code
  | none => 0

/-- R17, Table 11-3: LOOKUP_POINT. -/
def lookupPoint (_c : ClientId) (r : Request) (s : State) : Answer :=
  if Config.pointCount ≤ r.handle then refuse s .badArgument
  else
    match s.points.find r.handle with
    | none => refuse s .notFound
    | some p =>
      let v := p.published
      okAnswer s
        (place 0 4 v.state.code ||| place 4 4 (underlyingCode p) ||| place 8 1 v.quality.code |||
          place 9 2 (staleCode v.stale) ||| place 11 1 (bit v.value.isSome) |||
          place 12 1 (bit p.lastReport.isSome) ||| place 16 16 p.reportCount.toNat)
        (wordOr0 v.value) (wordOr0 p.lastReport)

/-- The state code of a point, 0 for a FREE record (R164). -/
def pointStateCode (s : State) (h : Nat) : Nat :=
  match s.points.find h with
  | some p => p.state.code
  | none => 0

/-- R18: FIND_POINT. -/
def findPoint (_c : ClientId) (r : Request) (s : State) : Answer :=
  let sid := fieldOf r.w1 0 16
  let number := fieldOf r.w1 16 16
  if Config.stationCount ≤ sid ∨ 255 < number then refuse s .badArgument
  else
    match s.stations.find sid with
    | none => refuse s .notFound
    | some st =>
      match pointByNumber s st.chain number with
      | none => refuse s .notFound
      | some h => okAnswer s (place 0 16 h ||| place 16 8 (pointStateCode s h)) 0 0

/-- R19: the first point of a chain with a number above `n`. -/
def pointAfter (s : State) (chain : List Nat) (n : Nat) : Option Nat :=
  chain.find? (fun h =>
    match numberOf s h with
    | some m => decide (n < m)
    | none => false)

/-- R19: NEXT_POINT. With the from-start bit set the number field is ignored (R164). -/
def nextPoint (_c : ClientId) (r : Request) (s : State) : Answer :=
  let sid := fieldOf r.w1 0 16
  let number := fieldOf r.w1 16 16
  let fromStart := r.w2.getLsbD 0
  if Config.stationCount ≤ sid ∨ (fromStart = false ∧ 255 < number) then refuse s .badArgument
  else
    match s.stations.find sid with
    | none => refuse s .notFound
    | some st =>
      match (if fromStart then st.chain.head? else pointAfter s st.chain number) with
      | none => refuse s .notFound
      | some h =>
        okAnswer s
          (place 0 16 h ||| place 16 8 ((numberOf s h).getD 0) ||| place 24 8 (pointStateCode s h)) 0 0

/-- R14 step 3: the presented key fails against the point's key. -/
def keyFails (r : Request) (p : Point) : Bool := p.key != 0 && r.key != p.key.toNat

/-- R14: the checks of a request that needs the point key: handle, record, key, and the states that do
not allow it, in this order; then `act` on the point. -/
def withPoint (r : Request) (s : State) (wrongState : Point → Bool)
    (act : Nat → Point → Answer) : Answer :=
  if Config.pointCount ≤ r.handle then refuse s .badArgument
  else
    match s.points.find r.handle with
    | none => refuse s .notFound
    | some p =>
      if keyFails r p then refuse s .keyMismatch
      else if wrongState p then refuse s .wrongState
      else act r.handle p

/-- R14, R26: the point is RETIRING. -/
def isRetiring (p : Point) : Bool := p.state == .retiring

/-- R21, Table 1-7: the freshness deadline on a change of period. -/
def Point.changePeriod (p : Point) (period : BitVec 16) (now : BitVec 32) : Point :=
  { p with
    period := period
    deadline :=
      if p.liveEligible then (if period = 0 then none else some ⟨now, period.toNat⟩)
      else p.deadline }

/-- R20: the selected fields change; a selected confirm count sets the run to 0. -/
def Point.modified (p : Point) (r : Request) (now : BitVec 32) : Point :=
  let p :=
    if r.w1.getLsbD 16 then { p with confirm := fieldOf r.w2 0 8, run := 0 } else p
  let p := if r.w1.getLsbD 17 then { p with deadband := r.w2.extractLsb' 16 16 } else p
  let p := if r.w1.getLsbD 19 then { p with key := r.w2.extractLsb' 8 4 } else p
  if r.w1.getLsbD 18 then p.changePeriod (r.w3.extractLsb' 0 16) now else p

/-- R20: a selected confirm count lies outside 1-3. -/
def badConfirm (r : Request) : Bool :=
  r.w1.getLsbD 16 && (decide (fieldOf r.w2 0 8 < 1) || decide (3 < fieldOf r.w2 0 8))

/-- R20, R21: MODIFY_POINT. -/
def modifyPoint (_c : ClientId) (r : Request) (s : State) : Answer :=
  if badConfirm r then refuse s .badArgument
  else
    withPoint r s isRetiring (fun h p =>
      okAnswer { s with points := s.points.put h (p.modified r s.now) } 0 0 0)

/-- R22 steps 1 to 4: the forced view is written into the point's own fields, and the point becomes
RETIRING with its deadline stopped and its run count 0. -/
def Point.retire (p : Point) : Point :=
  let v := p.published
  { p with
    state := .retiring
    value := v.value
    quality := v.quality
    stale := v.stale
    forced := none
    deadline := none
    run := 0 }

/-- R22: the seven steps of a retirement that is not refused. -/
def retireRecord (h : Nat) (p : Point) (s : State) : State :=
  let s := { s with points := s.points.put h p.retire }
  let s :=
    match p.pendingCmd with
    | none => s
    | some k => retireCommand k s
  testFree h (closeBindings h s)

/-- R22, R23, R24, R25: RETIRE_POINT. -/
def retirePoint (_c : ClientId) (r : Request) (s : State) : Answer :=
  withPoint r s isRetiring (fun h p =>
    let s := retireRecord h p s
    okAnswer s (place 0 8 (pointStateCode s h)) 0 0)

/-- R42: the force of a point that is not FORCED. -/
def Point.force (p : Point) (v : Word) : Point :=
  { p with
    forced := some ⟨v, p.reported⟩
    state := .forced
    value := some v
    quality := .good
    stale := none
    notified := v }

/-- R43: the force of a FORCED point is replaced. -/
def Point.reforce (p : Point) (v : Word) : Point :=
  { p with
    forced := p.forced.map (fun f => { f with value := v })
    value := some v
    notified := v }

/-- R42, R43: FORCE_POINT. -/
def forcePoint (_c : ClientId) (r : Request) (s : State) : Answer :=
  withPoint r s isRetiring (fun h p =>
    if p.state = .forced then
      okAnswer (pointEvent h .value { s with points := s.points.put h (p.reforce r.w2) }) 0 0 0
    else
      okAnswer (pointEvent h .quality { s with points := s.points.put h (p.force r.w2) }) 0 0 0)

/-- R46: the underlying fields come back; the notified value becomes the restored value if there is
one. -/
def Point.release (p : Point) (u : Reported) : Point :=
  { p with
    state := u.state.toPointState
    value := u.value
    quality := u.quality
    stale := u.stale
    forced := none
    notified := u.value.getD p.notified }

/-- R46: the point is RETIRING or is not FORCED. -/
def notForced (p : Point) : Bool := p.state != .forced

/-- R46: RELEASE_POINT. -/
def releasePoint (_c : ClientId) (r : Request) (s : State) : Answer :=
  withPoint r s notForced (fun h p =>
    okAnswer (pointEvent h .quality { s with points := s.points.put h (p.release p.reported) })
      (place 0 8 p.reported.state.code) 0 0)

/-- The meaning of CREATE_POINT (R16). -/
def execCreatePoint (c : ClientId) (s : State) : Result :=
  inService s (takeRequest c (· == 0x10) createPoint)

/-- The meaning of LOOKUP_POINT (R17). -/
def execLookupPoint (c : ClientId) (s : State) : Result :=
  inService s (takeRequest c (· == 0x11) lookupPoint)

/-- The meaning of FIND_POINT (R18). -/
def execFindPoint (c : ClientId) (s : State) : Result :=
  inService s (takeRequest c (· == 0x12) findPoint)

/-- The meaning of NEXT_POINT (R19). -/
def execNextPoint (c : ClientId) (s : State) : Result :=
  inService s (takeRequest c (· == 0x13) nextPoint)

/-- The meaning of MODIFY_POINT (R20, R21). -/
def execModifyPoint (c : ClientId) (s : State) : Result :=
  inService s (takeRequest c (· == 0x14) modifyPoint)

/-- The meaning of RETIRE_POINT (R22). -/
def execRetirePoint (c : ClientId) (s : State) : Result :=
  inService s (takeRequest c (· == 0x15) retirePoint)

/-- The meaning of FORCE_POINT (R42, R43). -/
def execForcePoint (c : ClientId) (s : State) : Result :=
  inService s (takeRequest c (· == 0x16) forcePoint)

/-- The meaning of RELEASE_POINT (R46). -/
def execReleasePoint (c : ClientId) (s : State) : Result :=
  inService s (takeRequest c (· == 0x17) releasePoint)

end Sys2Proof.Machine
end

