-- ==== Sys2Proof/Machine/Bindings.lean ====
section
/-! DEFINITION. The binding requests (section 3.4): BIND, UNBIND, RESUME and QUERY_BINDING. -/

namespace Sys2Proof.Machine

/-- R62: a new binding record. -/
def newBinding (point : Nat) (client : ClientId) (key : BitVec 4) (address : Word)
    (trigger : Trigger) : Binding where
  state := .active
  point := point
  client := client
  key := key
  address := address
  trigger := trigger
  inFlight := false
  sequence := 0
  fault := none

/-- R51, R62: the binding is allocated at `b`, appended to its point's chain, and queued. -/
def placeBinding (b : Nat) (r : Binding) (s : State) : State :=
  queueBinding b
    { s.modifyPoint r.point (fun p => { p with bindings := p.bindings ++ [b] }) with
      bindings := s.bindings.put b r }

/-- R62: BIND. -/
def bindPoint (c : ClientId) (r : Request) (s : State) : Answer :=
  match triggerOf (fieldOf r.w1 16 8) with
  | none => refuse s .badArgument
  | some t =>
    if Config.pointCount ≤ r.handle ∨ fieldOf r.w2 0 4 ≠ 0 ∨ 15 < r.key then refuse s .badArgument
    else
      match s.points.find r.handle with
      | none => refuse s .notFound
      | some p =>
        if p.state = .retiring then refuse s .wrongState
        else if Config.bindingsPerPoint ≤ p.bindingCount then refuse s .limit
        else
          match s.bindings.lowestFree Config.bindingCount with
          | none => refuse s .noSpace
          | some b =>
            okAnswer (placeBinding b (newBinding r.handle c (BitVec.ofNat 4 r.key) r.w2 t) s)
              (place 0 16 b) 0 0

/-- R63, R64: a request on a binding is taken only from its owner: the record of another client's binding
is as FREE. -/
def withOwnBinding (c : ClientId) (r : Request) (s : State) (allowed : BindingState → Bool)
    (act : Nat → Binding → Answer) : Answer :=
  if Config.bindingCount ≤ r.handle then refuse s .badArgument
  else
    match s.bindings.find r.handle with
    | none => refuse s .notFound
    | some b =>
      if b.client ≠ c then refuse s .notFound
      else if allowed b.state then act r.handle b
      else refuse s .wrongState

/-- R63: UNBIND acts on ACTIVE and SUSPENDED bindings. -/
def unbindable : BindingState → Bool
  | .active => true
  | .suspended => true
  | .closing => false
  | .detaching => false

/-- R64: RESUME acts on SUSPENDED bindings. -/
def resumable : BindingState → Bool
  | .suspended => true
  | .active => false
  | .closing => false
  | .detaching => false

/-- R63: UNBIND. -/
def unbindPoint (c : ClientId) (r : Request) (s : State) : Answer :=
  withOwnBinding c r s unbindable (fun h b =>
    if b.inFlight then
      okAnswer ((unqueueBinding h s).modifyBinding h (fun b =>
          { b with state := .detaching, fault := none }))
        (place 0 8 BindingState.detaching.code) 0 0
    else okAnswer (freeBinding h s) 0 0 0)

/-- R64: RESUME. -/
def resumeBinding (c : ClientId) (r : Request) (s : State) : Answer :=
  withOwnBinding c r s resumable (fun h _ =>
    okAnswer (queueBinding h (s.modifyBinding h (fun b => { b with state := .active, fault := none })))
      0 0 0)

/-- R65, Table 11-3: QUERY_BINDING. -/
def queryBinding (_c : ClientId) (r : Request) (s : State) : Answer :=
  if Config.bindingCount ≤ r.handle then refuse s .badArgument
  else
    match s.bindings.find r.handle with
    | none => refuse s .notFound
    | some b =>
      okAnswer s
        (place 0 16 b.point ||| place 16 4 b.state.code ||| place 20 2 b.client.val |||
          place 22 2 b.trigger.code ||| place 24 3 (faultCode b.fault) |||
          place 27 1 (bit (s.queued r.handle)) ||| place 28 1 (bit b.inFlight))
        b.address (place 0 16 b.sequence.toNat)

/-- The meaning of BIND (R62). -/
def execBind (c : ClientId) (s : State) : Result := inService s (takeRequest c (· == 0x20) bindPoint)

/-- The meaning of UNBIND (R63). -/
def execUnbind (c : ClientId) (s : State) : Result :=
  inService s (takeRequest c (· == 0x21) unbindPoint)

/-- The meaning of RESUME (R64). -/
def execResume (c : ClientId) (s : State) : Result :=
  inService s (takeRequest c (· == 0x22) resumeBinding)

/-- The meaning of QUERY_BINDING (R65). -/
def execQueryBinding (c : ClientId) (s : State) : Result :=
  inService s (takeRequest c (· == 0x23) queryBinding)

end Sys2Proof.Machine
end

