-- ==== Sys2Proof/Machine/CommandRequests.lean ====
section
/-! DEFINITION. The command requests (sections 6.3 and 6.6), SEND_COMMAND, ABORT_COMMAND and COLLECT, and
the taking of a request whose kind is not defined. -/

namespace Sys2Proof.Machine

/-- R113: a new slot record. The completion timeout is fixed only when the exchange starts (R114,
log 10). -/
def newSlot (client : ClientId) (hostTag : BitVec 16) (point station : Nat) (value : Word) : Slot where
  state := .queued
  client := client
  hostTag := hostTag
  point := point
  station := station
  value := value
  tag := none
  abort := none
  timeout := none
  deadline := none
  result := none
  code := 0

/-- R109: the number of a client's slots that are not FREE. -/
def clientSlots (s : State) (c : ClientId) : Nat :=
  (s.slots.rows.filter (fun r => r.2.client == c)).length

/-- R109: the slot granted to a client: the lowest FREE handle, if it has fewer than 16. -/
def grantedSlot (s : State) (c : ClientId) : Option Nat :=
  if clientSlots s c < Config.slotsPerClient then s.slots.lowestFree Config.slotCount else none

/-- R113: the station can take commands: PRESENT with a capacity above 0. -/
def canCommand (s : State) (sid : Nat) : Bool :=
  match s.stations.find sid with
  | some st => st.state == .present && decide (0 < st.capacity)
  | none => false

/-- R113: the point is RETIRING, or its station is not PRESENT with a capacity above 0. -/
def notCommandable (s : State) (p : Point) : Bool := p.state == .retiring || !canCommand s p.station

/-- R93, R113: a new eligible slot of a link in GAP is a decision point. -/
def noticeNewSlot (l : LinkId) (h : Nat) (s : State) : State :=
  if s.eligible h then s.modifyLink l Link.openInGap else s

/-- R113: the slot is allocated at `h`, queued on link `l` and made the point's pending command. -/
def placeSlot (h : Nat) (r : Slot) (l : LinkId) (s : State) : State :=
  noticeNewSlot l h
    { s.modifyPoint r.point (fun p => { p with pendingCmd := some h }) with
      slots := s.slots.put h r
      cmdQueues := s.cmdQueues.modify l (fun q => q ++ [h]) }

/-- R1: the link of a station. -/
def stationLink (s : State) (sid : Nat) : Option LinkId := (s.stations.find sid).map Station.link

/-- R113: SEND_COMMAND. -/
def sendCommand (c : ClientId) (r : Request) (s : State) : Answer :=
  withPoint r s (notCommandable s) (fun h p =>
    if p.pendingCmd.isSome then refuse s .pointBusy
    else
      match grantedSlot s c, stationLink s p.station with
      | some k, some l =>
        okAnswer (placeSlot k (newSlot c r.hostTag h p.station r.w2) l s) (place 0 16 k) 0 0
      | _, _ => refuse s .noSlot)

/-- R119: the three cases of an abort that is not refused, and the slot's state after it. -/
def abortSlot (h : Nat) (r : Slot) (s : State) : Answer :=
  match r.state with
  | .queued => okAnswer (finishSlot h .aborted 0 .freed (dequeue h s)) (place 0 8 slotDoneCode) 0 0
  | .sent =>
    okAnswer (s.modifySlot h (fun r => { r with abort := some .aborted })) (place 0 8 slotSentCode) 0 0
  | .accepted => okAnswer (finishSlot h .aborted 0 .abandoned s) (place 0 8 slotDoneCode) 0 0
  | .done => refuse s .wrongState

/-- R119: ABORT_COMMAND. -/
def abortCommand (c : ClientId) (r : Request) (s : State) : Answer :=
  if Config.slotCount ≤ r.handle then refuse s .badArgument
  else
    match s.slots.find r.handle with
    | none => refuse s .notFound
    | some k => if k.client ≠ c then refuse s .notFound else abortSlot r.handle k s

/-- Table 6-7, R164: the code of a slot's result, 0 for absent. -/
def resultCode (r : Option CommandResult) : Nat :=
  match r with
  | some x => x.code
  | none => 0

/-- R120: COLLECT. -/
def collect (c : ClientId) (_r : Request) (s : State) : Answer :=
  match s.doneList c with
  | [] => refuse s .empty
  | h :: rest =>
    match s.slots.find h with
    | none => refuse s .empty
    | some k =>
      okAnswer
        { s with
          slots := s.slots.drop h
          doneLists := s.doneLists.set c rest }
        (place 0 16 k.point ||| place 16 8 h)
        (place 0 8 (resultCode k.result) ||| place 8 8 k.code.toNat ||| place 16 16 k.hostTag.toNat) 0

/-- Table 8-2: the kind codes that are defined. -/
def definedKinds : List Nat :=
  [0x01, 0x02, 0x03, 0x10, 0x11, 0x12, 0x13, 0x14, 0x15, 0x16, 0x17, 0x20, 0x21, 0x22, 0x23, 0x30,
    0x31, 0x32]

/-- R141: a request whose kind is not defined is answered BAD_REQUEST and changes nothing. -/
def badRequest (_c : ClientId) (_r : Request) (s : State) : Answer := refuse s .badRequest

/-- The meaning of SEND_COMMAND (R113). -/
def execSendCommand (c : ClientId) (s : State) : Result :=
  inService s (takeRequest c (· == 0x30) sendCommand)

/-- The meaning of ABORT_COMMAND (R119). -/
def execAbortCommand (c : ClientId) (s : State) : Result :=
  inService s (takeRequest c (· == 0x31) abortCommand)

/-- The meaning of COLLECT (R120). -/
def execCollect (c : ClientId) (s : State) : Result :=
  inService s (takeRequest c (· == 0x32) collect)

/-- The meaning of BAD_REQUEST (R141). -/
def execBadRequest (c : ClientId) (s : State) : Result :=
  inService s (takeRequest c (fun k => !definedKinds.contains k) badRequest)

end Sys2Proof.Machine
end

