-- ==== Sys2Proof/Machine/Bus.lean ====
section
/-! DEFINITION. The Memory Write Master (chapter 7): the arbiter's choice between messages and mirror
writes, the start of a transaction, grant, accept, end and timeout, and the handing on of the end
status to the Mirror Unit (R59, R60) and to a Client Window (R154). -/

namespace Sys2Proof.Machine

/-- R125: the transaction in flight. -/
def Phase.transaction : Phase → Option Transaction
  | .idle => none
  | .request t => some t
  | .drive t => some t
  | .accepted t => some t

/-- R125, R130: BREQ_N is asserted. -/
def State.breqAsserted (s : State) : Bool := s.mwm.phase.transaction.isSome

/-- R130, R134: what the MWM drives onto the local bus: the address, the key, the write kind and the data
words of its transaction in DRIVE and ACCEPTED, and nothing otherwise. -/
def State.busDriven (s : State) : Option (Word × BitVec 4 × WriteKind × List Word) :=
  match s.mwm.phase with
  | .drive t => some (t.address, t.key, t.kind, t.data)
  | .accepted t => some (t.address, t.key, t.kind, t.data)
  | .request _ => none
  | .idle => none

/-- R165: the four bytes of a word in the order of their addresses: little-endian. -/
def wordBytes (w : Word) : List Byte :=
  [w.extractLsb' 0 8, w.extractLsb' 8 8, w.extractLsb' 16 8, w.extractLsb' 24 8]

/-- Bytes at ascending addresses from `a` on. -/
def bytesFrom : Word → List Byte → List (Word × Byte)
  | _, [] => []
  | a, b :: r => (a, b) :: bytesFrom (a + 1) r

/-- R130, R165: the bytes a transaction carries, each with its address: the words at ascending addresses from
the transaction's own, each word little-endian (that the word of a message is so too, log 21). -/
def Transaction.bytes (t : Transaction) : List (Word × Byte) :=
  bytesFrom t.address (t.data.flatMap wordBytes)

/-- R130, R165: the bytes of host memory that the driven write carries, none while nothing is driven. -/
def State.bytesDriven (s : State) : List (Word × Byte) :=
  match s.mwm.phase with
  | .drive t => t.bytes
  | .accepted t => t.bytes
  | .request _ => []
  | .idle => []

/-- R166: the code on the transfer kind lines. -/
def WriteKind.code : WriteKind → Nat
  | .write => 0
  | .writeLine => 1

/-- R166: the end status of a code on the end status lines. -/
def endStatusOf (code : Fin 4) : EndStatus :=
  match code with
  | 0 => .ok
  | 1 => .protection
  | 2 => .invalidAddress
  | 3 => .dataCheck

/-- The MWM enters a phase. -/
def setPhase (p : Phase) (s : State) : State := { s with mwm := { s.mwm with phase := p } }

/-- R129, Table 7-2: the write kind of a mirror write. -/
def mirrorWriteKind : LineSize → WriteKind
  | .l16 => .writeLine
  | .l32 => .write
  | .l64 => .write

/-- R153: a client's message is in the arbiter's choice. -/
def Client.wantsMessage (k : Client) : Bool := k.msgState == .pending && !k.msgInFlight

/-- R126: the clients in round-robin order, from the one after the last served. -/
def roundRobin (last : ClientId) : List ClientId := [last + 1, last + 2, last + 3, last]

/-- R126 step 1: the client whose message is chosen. Where one command makes the messages of two clients
PENDING at an IDLE MWM, R127 lets either be taken first; the choice of the round-robin order here is the
model's (DESIGN CHOICE, log 24). -/
def nextMessage (s : State) : Option ClientId :=
  (roundRobin s.mwm.lastClient).find? (fun c => (s.client c).wantsMessage)

/-- R128: a transaction starts: BREQ_N is asserted and the MWM enters REQUEST. -/
def startTransaction (owner : Owner) (address : Word) (key : BitVec 4) (kind : WriteKind)
    (data : List Word) (s : State) : State :=
  setPhase (.request ⟨owner, address, key, kind, data, Config.busTimeoutPeriods, false⟩) s

/-- R56, R57, R128: the write of the head binding starts: the binding leaves the queue, its in-flight
flag is set, its sequence increases by one, its record is built, and the write is marked final for a
CLOSING binding. -/
def startMirror (b : Nat) (r : Binding) (p : Point) (s : State) : State :=
  let sequence := r.sequence + 1
  let s := unqueueBinding b s
  let s := s.modifyBinding b (fun r => { r with inFlight := true, sequence := sequence })
  startTransaction (.mirror b (r.state == .closing)) r.address r.key
    (mirrorWriteKind s.mwm.lineSize) (mirrorRecord r.point p sequence) s

/-- R126 step 2: MIRROR_WRITE_START, when the MWM is in IDLE, no message is chosen before it and the
queue is not empty. Where one command makes a message PENDING and the queue non-empty at an IDLE MWM,
R127 lets either be taken first; that the message comes first here is the model's (DESIGN CHOICE,
log 24). -/
def mirrorWriteStart (s : State) : State :=
  match s.mwm.phase, nextMessage s, s.mirrorQueue with
  | .idle, none, b :: _ =>
    match s.bindings.find b with
    | none => s
    | some r =>
      match s.points.find r.point with
      | none => s
      | some p => startMirror b r p s
  | _, _, _ => s

/-- R126 step 1, R128, R154: MESSAGE_WRITE_START, when the MWM is in IDLE and a message is PENDING: the
message configuration is fixed as it stands, the last client served becomes this client and its
in-flight mark is set. -/
def messageWriteStart (s : State) : State :=
  match s.mwm.phase, nextMessage s with
  | .idle, some c =>
    let k := s.client c
    let s := s.modifyClient c (fun k => { k with msgInFlight := true })
    let s := { s with mwm := { s.mwm with lastClient := c } }
    startTransaction (.message c) k.msgAddr k.msgKey .write [k.msgData] s
  | _, _ => s

/-- R130: BUS_GRANT: BGNT_N goes to asserted. The grant is recognized at a change from deasserted while
BREQ_N is asserted; the MWM then enters DRIVE. -/
def busGrant (s : State) : State :=
  if s.bgnt then s
  else
    let s' := { s with bgnt := true }
    match s.mwm.phase with
    | .request t => setPhase (.drive t) s'
    | _ => s'

/-- R130: BGNT_N goes to deasserted. The next grant edge can then be recognized; a transaction past its
grant goes on. -/
def bgntDeasserted (s : State) : State := { s with bgnt := false }

/-- R131: BUS_ACCEPT of the driven write. An accept in any other phase is not recognized. -/
def busAccept (s : State) : State :=
  match s.mwm.phase with
  | .drive t => setPhase (.accepted t) s
  | _ => s

/-- R59: a mirror write ends OK. -/
def mirrorEndOk (b : Nat) (final : Bool) (s : State) : State :=
  let s := s.modifyBinding b (fun r => { r with inFlight := false })
  match s.bindings.find b with
  | none => s
  | some r =>
    match r.state with
    | .active => s
    | .suspended => s
    | .closing => if final then freeBinding b s else s
    | .detaching => freeBinding b s

/-- R60: a mirror write ends with an error. -/
def mirrorEndError (b : Nat) (e : WriteError) (s : State) : State :=
  let s := s.modifyBinding b (fun r => { r with inFlight := false })
  match s.bindings.find b with
  | none => s
  | some r =>
    match r.state with
    | .active =>
      setSticky r.client .mirrorFault
        ((unqueueBinding b s).modifyBinding b (fun r => { r with state := .suspended, fault := some e }))
    | .suspended => s
    | .closing => freeBinding b s
    | .detaching => freeBinding b s

/-- R154: the end of a client's message write, by its outcome-ignored mark and its status. -/
def Client.messageEnd (k : Client) (e : Option WriteError) : Client :=
  if k.msgIgnored then
    { k with msgInFlight := false, msgIgnored := false, msgState := .armed }
  else
    match e with
    | none => { k with msgInFlight := false, msgState := .sent }
    | some _ =>
      { k with
        msgInFlight := false
        msgState := .failed
        sticky := k.sticky.raise .messageFault }

/-- R133: the status (none for OK) is handed to the owner of the transaction. -/
def handOn (o : Owner) (e : Option WriteError) (s : State) : State :=
  match o, e with
  | .mirror b final, none => mirrorEndOk b final s
  | .mirror b _, some e => mirrorEndError b e s
  | .message c, e => s.modifyClient c (fun k => k.messageEnd e)

/-- R131 to R133, R135: the end of a transaction: BREQ_N is deasserted, the bus is released, the MWM enters
IDLE, and the status is handed on unless the outcome-ignored mark is set. -/
def endTransaction (t : Transaction) (e : Option WriteError) (s : State) : State :=
  let s := setPhase .idle s
  if t.ignored then s else settle (handOn t.owner e s)

/-- Table 7-3: the error of a signalled end status, none for OK. -/
def endError : EndStatus → Option WriteError
  | .ok => none
  | .protection => some .protection
  | .invalidAddress => some .invalidAddress
  | .dataCheck => some .dataCheck

/-- R131: BUS_END_STATUS, recognized in ACCEPTED, or together with the accept in DRIVE. -/
def busEnd (withAccept : Bool) (e : EndStatus) (s : State) : State :=
  match s.mwm.phase with
  | .accepted t => endTransaction t (endError e) s
  | .drive t => if withAccept then endTransaction t (endError e) s else s
  | .request _ => s
  | .idle => s

/-- R132: BUS_TIMEOUT, in any phase of a transaction. -/
def busTimeout (s : State) : State :=
  match s.mwm.phase.transaction with
  | some t => endTransaction t (some .timeout) s
  | none => s

/-- The meaning of MIRROR_WRITE_START (R56). -/
def execMirrorWriteStart (s : State) : Result := inService s mirrorWriteStart

/-- The meaning of MESSAGE_WRITE_START (R128). -/
def execMessageWriteStart (s : State) : Result := inService s messageWriteStart

/-- The meaning of BUS_GRANT (R130). The pin moves whether or not RESET_N is low. -/
def execBusGrant (s : State) : Result := .next (busGrant s)

/-- The meaning of BUS_ACCEPT (R131). -/
def execBusAccept (s : State) : Result := inService s busAccept

/-- The meaning of BUS_END_STATUS (R131). -/
def execBusEndStatus (withAccept : Bool) (e : EndStatus) (s : State) : Result :=
  inService s (busEnd withAccept e)

/-- The meaning of BUS_TIMEOUT (R132). -/
def execBusTimeout (s : State) : Result := inService s busTimeout

/-- The meaning of BGNT_N_DEASSERTED (R130). The pin moves whether or not RESET_N is low. -/
def execBgntNDeasserted (s : State) : Result := .next (bgntDeasserted s)

end Sys2Proof.Machine
end

