-- ==== Sys2Proof/Machine/Windows.lean ====
section
/-! DEFINITION. The Client Windows (chapters 8 and 9): submission, reading and popping of responses, the
CAUSE register, masks and watch sets, the message configuration, and client reset. -/

namespace Sys2Proof.Machine

/-- R138: the request record of a SUBMIT: the word written and the staging words as they stand. -/
def Client.requestOf (k : Client) (v : Word) : Request := ⟨v, k.stage1, k.stage2, k.stage3⟩

/-- R138: SUBMIT appends the record, or discards it with REQUEST_OVERRUN when the FIFO holds 8. -/
def submitWrite (c : ClientId) (v : Word) (s : State) : State :=
  if (s.client c).requests.length < Config.fifoDepth then
    s.modifyClient c (fun k => { k with requests := k.requests ++ [k.requestOf v] })
  else settle (setSticky c .requestOverrun s)

/-- R143: word `i` of a response record. -/
def Response.word (r : Response) (i : Fin 4) : Word :=
  match i with
  | 0 => r.w0
  | 1 => r.w1
  | 2 => r.w2
  | 3 => r.w3

/-- R143: the word a read of RESP0-RESP3 returns. -/
def respWord (k : Client) (i : Fin 4) : Word :=
  match k.responses with
  | r :: _ => r.word i
  | [] => 0xFFFFFFFF

/-- R143: a read of RESP0-RESP3; with the FIFO empty it is an under-read. -/
def respRead (c : ClientId) (i : Fin 4) (s : State) : State :=
  let s' := { s with readData := respWord (s.client c) i }
  if (s.client c).responses.isEmpty then settle (setSticky c .responseUnderread s') else s'

/-- R143: POP removes the head response; with the FIFO empty it sets RESPONSE_UNDERREAD. -/
def popWrite (c : ClientId) (s : State) : State :=
  match (s.client c).responses with
  | [] => settle (setSticky c .responseUnderread s)
  | _ :: r => s.modifyClient c (fun k => { k with responses := r })

/-- The CAUSE register as a word (Table 11-2). -/
def State.causeWord (s : State) (c : ClientId) : Word := (s.causes c).setWidth 32

/-- R155: a read of CAUSE returns the causes and moves a SENT message to ARMED, or to PENDING while the
notify condition holds. -/
def causeRead (c : ClientId) (s : State) : State :=
  let s' := { s with readData := s.causeWord c }
  if (s.client c).msgState = .sent then
    settle (s'.modifyClient c (fun k => { k with msgState := .armed }))
  else s'

/-- R149: a write of CAUSE. -/
def causeWrite (c : ClientId) (v : Word) (s : State) : State :=
  s.modifyClient c (fun k => { k with sticky := k.sticky.clear v })

/-- R151: a write of CAUSE_MASK. -/
def causeMaskWrite (c : ClientId) (v : Word) (s : State) : State :=
  settle (s.modifyClient c (fun k => { k with mask := v.extractLsb' 0 7 }))

/-- R150: a write of LINK_WATCH. -/
def linkWatchWrite (c : ClientId) (v : Word) (s : State) : State :=
  settle (s.modifyClient c (fun k => { k with watch := v.extractLsb' 0 4 }))

/-- R156: the message state at a message configuration write or a client reset. -/
def Client.resetMessage (k : Client) : Client :=
  if k.msgInFlight then { k with msgIgnored := true } else { k with msgState := .armed }

/-- R156: a message configuration write: the setting is stored and the message state reset. -/
def configWrite (c : ClientId) (f : Client → Client) (s : State) : State :=
  settle (s.modifyClient c (fun k => (f k).resetMessage))

/-- R156, Table 11-2: IRQ_MODE. -/
def irqModeOf (v : Word) : IrqMode := if v.getLsbD 0 then .message else .line

/-- R156: a write of IRQ_MODE. -/
def irqModeWrite (c : ClientId) (v : Word) (s : State) : State :=
  configWrite c (fun k => { k with mode := irqModeOf v }) s

/-- R156: a write of MSG_ADDR, its two least significant bits cleared. -/
def msgAddrWrite (c : ClientId) (v : Word) (s : State) : State :=
  configWrite c (fun k => { k with msgAddr := v &&& 0xFFFFFFFC }) s

/-- R156: a write of MSG_DATA. -/
def msgDataWrite (c : ClientId) (v : Word) (s : State) : State :=
  configWrite c (fun k => { k with msgData := v }) s

/-- R156: a write of MSG_KEY, its four least significant bits. -/
def msgKeyWrite (c : ClientId) (v : Word) (s : State) : State :=
  configWrite c (fun k => { k with msgKey := v.extractLsb' 0 4 }) s

/-- R146: the window of a client reset, with the message state reset as at a configuration write. -/
def Client.clear (k : Client) : Client :=
  { k with
    requests := []
    responses := []
    passed := 0
    stage1 := 0
    stage2 := 0
    stage3 := 0
    sticky := Sticky.reset }.resetMessage

/-- R146: client reset. -/
def clientReset (c : ClientId) (s : State) : State := settle (s.modifyClient c Client.clear)

/-- R159: a register read while RESET_N is low returns 0 and does nothing else. -/
def readInService (s : State) (f : State → State) : Result :=
  .next (if s.resetN then f s else { s with readData := 0 })

/-- The meaning of SUBMIT (R138). -/
def execSubmit (c : ClientId) (v : Word) (s : State) : Result := inService s (submitWrite c v)

/-- The meaning of RESP_READ (R143). -/
def execRespRead (c : ClientId) (i : Fin 4) (s : State) : Result := readInService s (respRead c i)

/-- The meaning of POP (R143): the value written does not matter. -/
def execPop (c : ClientId) (_v : Word) (s : State) : Result := inService s (popWrite c)

/-- The meaning of CAUSE_READ (R155). -/
def execCauseRead (c : ClientId) (s : State) : Result := readInService s (causeRead c)

/-- The meaning of CAUSE_WRITE (R149). -/
def execCauseWrite (c : ClientId) (v : Word) (s : State) : Result := inService s (causeWrite c v)

/-- The meaning of CAUSE_MASK_WRITE (R151). -/
def execCauseMaskWrite (c : ClientId) (v : Word) (s : State) : Result :=
  inService s (causeMaskWrite c v)

/-- The meaning of LINK_WATCH_WRITE (R150). -/
def execLinkWatchWrite (c : ClientId) (v : Word) (s : State) : Result :=
  inService s (linkWatchWrite c v)

/-- The meaning of IRQ_MODE_WRITE (R156). -/
def execIrqModeWrite (c : ClientId) (v : Word) (s : State) : Result := inService s (irqModeWrite c v)

/-- The meaning of MSG_ADDR_WRITE (R156). -/
def execMsgAddrWrite (c : ClientId) (v : Word) (s : State) : Result := inService s (msgAddrWrite c v)

/-- The meaning of MSG_DATA_WRITE (R156). -/
def execMsgDataWrite (c : ClientId) (v : Word) (s : State) : Result := inService s (msgDataWrite c v)

/-- The meaning of MSG_KEY_WRITE (R156). -/
def execMsgKeyWrite (c : ClientId) (v : Word) (s : State) : Result := inService s (msgKeyWrite c v)

/-- The meaning of CLIENT_RESET (R146). -/
def execClientReset (c : ClientId) (s : State) : Result := inService s (clientReset c)

end Sys2Proof.Machine
end

