-- ==== Sys2Proof/Machine/Device.lean ====
section
/-! DEFINITION. Device Control and the Time Base (chapter 10), the link and bus registers (R103 to R105,
R129), the register window as a whole (R162, R163) and what its offsets read. -/

namespace Sys2Proof.Machine

/-! ## Link and bus registers -/

/-- R103, R163: a write of RATE. A 0 written to a RUNNING link keeps the divisor and sets CONFIG_ERROR. -/
def rateWrite (l : LinkId) (v : Word) (s : State) : State :=
  let d : BitVec 10 := v.extractLsb' 0 10
  if d = 0 ∧ (s.link l).running = true then settle (setLinkFlag l .configError s)
  else s.modifyLink l (fun k => { k with config := { k.config with divisor := d } })

/-- R103: 0 written to a field whose range starts at 1 stores 1. -/
def atLeastOne {n : Nat} (v : BitVec n) : BitVec n := if v = 0 then 1 else v

/-- R103: a burst limit of 9-15 stores 8, and 0 stores 1. -/
def burstLimitOf (v : BitVec 4) : BitVec 4 := if 8 < v.toNat then 8 else atLeastOne v

/-- R103: a write of TIMING. -/
def timingWrite (l : LinkId) (v : Word) (s : State) : State :=
  s.modifyLink l (fun k =>
    { k with
      config :=
        { k.config with
          responseTimeout := atLeastOne (v.extractLsb' 0 8)
          completionTimeout := atLeastOne (v.extractLsb' 8 8) } })

/-- R103: a write of POLL. -/
def pollWrite (l : LinkId) (v : Word) (s : State) : State :=
  s.modifyLink l (fun k =>
    { k with
      config :=
        { k.config with
          pollGap := v.extractLsb' 0 8
          missLimit := atLeastOne (v.extractLsb' 8 4)
          burstLimit := burstLimitOf (v.extractLsb' 12 4) } })

/-- R104: a write of STATUS clears each flag written 1. -/
def statusWrite (l : LinkId) (v : Word) (s : State) : State :=
  s.modifyLink l (fun k => { k with status := k.status &&& ~~~(v.extractLsb' 0 11) })

/-- R105: a write of MASK. -/
def maskWrite (l : LinkId) (v : Word) (s : State) : State :=
  settle (s.modifyLink l (fun k => { k with mask := v.extractLsb' 0 11 }))

/-- R101, R102: a write of link CONTROL. -/
def linkControlWrite (l : LinkId) (v : Word) (s : State) : State :=
  if v.getLsbD 0 then enableLink l s else disableLink l s

/-- R129: a write of BUS_CONFIG; the encoding 3 leaves the size unchanged. -/
def lineSizeOf (v : Word) (old : LineSize) : LineSize :=
  match fieldOf v 0 2 with
  | 0 => .l16
  | 1 => .l32
  | 2 => .l64
  | _ => old

/-- R129: a write of BUS_CONFIG. -/
def busConfigWrite (v : Word) (s : State) : State :=
  { s with mwm := { s.mwm with lineSize := lineSizeOf v s.mwm.lineSize } }

/-- R137: a write of a staging word. -/
def stageWrite (c : ClientId) (i : Fin 3) (v : Word) (s : State) : State :=
  s.modifyClient c (fun k =>
    match i with
    | 0 => { k with stage1 := v }
    | 1 => { k with stage2 := v }
    | 2 => { k with stage3 := v })

/-! ## Resets and the time base -/

/-- R106, Table 10-1: a link after soft reset keeps its settings and its mask. -/
def Link.softReset (k : Link) : Link := { Link.reset with config := k.config, mask := k.mask }

/-- R147, R157, Table 10-1: a window after soft reset keeps its cause mask, watch set, interrupt mode and
message configuration. -/
def Client.softReset (k : Client) : Client :=
  { Client.reset with
    mask := k.mask
    watch := k.watch
    mode := k.mode
    msgAddr := k.msgAddr
    msgData := k.msgData
    msgKey := k.msgKey }

/-- R135: a transaction in flight at a soft reset drains with its outcome ignored. -/
def Phase.drain : Phase → Phase
  | .idle => .idle
  | .request t => .request { t with ignored := true }
  | .drive t => .drive { t with ignored := true }
  | .accepted t => .accepted { t with ignored := true }

/-- R160, Table 10-1: soft reset. -/
def softReset (s : State) : State :=
  { State.reset with
    pending := s.pending
    resetN := s.resetN
    bgnt := s.bgnt
    readData := s.readData
    links := s.links.map Link.softReset
    mwm := { phase := s.mwm.phase.drain, lastClient := 3, lineSize := s.mwm.lineSize }
    clients := s.clients.map Client.softReset }

/-- R159: hardware reset; RESET_N is low. The queue of commands and the input pin BGNT_N are outside the
part. -/
def hardwareReset (s : State) : State :=
  { State.reset with pending := s.pending, bgnt := s.bgnt, resetN := false }

/-- R159, R158: RESET_N returns high: the time base starts from 0 and the register window answers. -/
def resetNRelease (s : State) : State :=
  if s.resetN then s else { s with resetN := true, now := 0 }

/-- R158: the millisecond count increases by one, wrapping. -/
def tick (s : State) : State := { s with now := s.now + 1 }

/-! ## The register window -/

/-- The write of a link register (Table 11-1). -/
def linkWrite (l : LinkId) (r : LinkReg) (v : Word) (s : State) : State :=
  match r with
  | .control => linkControlWrite l v s
  | .rate => rateWrite l v s
  | .timing => timingWrite l v s
  | .poll => pollWrite l v s
  | .status => statusWrite l v s
  | .mask => maskWrite l v s

/-- The write of a client register (Table 11-1, R145). -/
def clientWrite (c : ClientId) (r : ClientReg) (v : Word) (s : State) : State :=
  match r with
  | .stage i => stageWrite c i v s
  | .submit => submitWrite c v s
  | .resp _ => s
  | .pop => popWrite c s
  | .fifoState => s
  | .cause => causeWrite c v s
  | .causeMask => causeMaskWrite c v s
  | .linkWatch => linkWatchWrite c v s
  | .irqMode => irqModeWrite c v s
  | .msgAddr => msgAddrWrite c v s
  | .msgData => msgDataWrite c v s
  | .msgKey => msgKeyWrite c v s
  | .control => if v.getLsbD 0 then clientReset c s else s

/-- R162, R163: the write of a word at an offset of the register window. A register with a row of its own
takes that row's write (log 13); read-only registers and undefined offsets ignore it. -/
def registerWrite (offset : BitVec 10) (v : Word) (s : State) : State :=
  match decodeOffset offset with
  | .devControl => if v.getLsbD 0 then softReset s else s
  | .timeNow => s
  | .busConfig => busConfigWrite v s
  | .occupancy _ => s
  | .link l r => linkWrite l r v s
  | .client c r => clientWrite c r v s
  | .undefined => s

/-- R161: the five occupancy counts. -/
def occupancy (s : State) (i : Fin 5) : Nat :=
  match i with
  | 0 => s.stations.size
  | 1 => s.points.size
  | 2 => s.bindings.size
  | 3 => s.slots.size
  | 4 => s.mirrorQueue.length

/-- R129, Table 11-2: the encoding of the bus line size. -/
def LineSize.code : LineSize → Nat
  | .l16 => 0
  | .l32 => 1
  | .l64 => 2

/-- What a link register reads (Table 11-2). The enable reads off after an enable refused (R101). -/
def linkRead (k : Link) (r : LinkReg) : Word :=
  match r with
  | .control => place 0 1 (bit k.running)
  | .rate => place 0 10 k.config.divisor.toNat
  | .timing =>
    place 0 8 k.config.responseTimeout.toNat ||| place 8 8 k.config.completionTimeout.toNat
  | .poll =>
    place 0 8 k.config.pollGap.toNat ||| place 8 4 k.config.missLimit.toNat |||
      place 12 4 k.config.burstLimit.toNat
  | .status => place 0 11 k.status.toNat
  | .mask => place 0 11 k.mask.toNat

/-- What a client register reads, apart from what the reading does (R143, R155). -/
def clientRead (s : State) (c : ClientId) (r : ClientReg) : Word :=
  let k := s.client c
  match r with
  | .stage i => (match i with | 0 => k.stage1 | 1 => k.stage2 | 2 => k.stage3)
  | .submit => 0
  | .resp i => respWord k i
  | .pop => 0
  | .fifoState => place 0 4 k.requests.length ||| place 4 4 k.responses.length
  | .cause => s.causeWord c
  | .causeMask => place 0 7 k.mask.toNat
  | .linkWatch => place 0 4 k.watch.toNat
  | .irqMode => place 0 1 (bit (k.mode == .message))
  | .msgAddr => k.msgAddr
  | .msgData => k.msgData
  | .msgKey => place 0 4 k.msgKey.toNat
  | .control => 0

/-- R144, R158, R161, R162: what the offset of the register window reads as the state stands; 0 while
RESET_N is low (R159). A read changes nothing, except RESP_READ and CAUSE_READ, which have rows of
their own (log 8). -/
def readRegister (s : State) (offset : BitVec 10) : Word :=
  if s.resetN then
    match decodeOffset offset with
    | .devControl => 0
    | .timeNow => s.now
    | .busConfig => place 0 2 s.mwm.lineSize.code
    | .occupancy i => BitVec.ofNat 32 (occupancy s i)
    | .link l r => linkRead (s.link l) r
    | .client c r => clientRead s c r
    | .undefined => 0
  else 0

/-! ## The meanings -/

/-- The meaning of SOFT_RESET (R160). -/
def execSoftReset (s : State) : Result := inService s softReset

/-- The meaning of RATE_WRITE (R103). -/
def execRateWrite (l : LinkId) (v : Word) (s : State) : Result := inService s (rateWrite l v)

/-- The meaning of STATUS_WRITE (R104). -/
def execStatusWrite (l : LinkId) (v : Word) (s : State) : Result := inService s (statusWrite l v)

/-- The meaning of MASK_WRITE (R105). -/
def execMaskWrite (l : LinkId) (v : Word) (s : State) : Result := inService s (maskWrite l v)

/-- The meaning of REGISTER_WRITE (R163). -/
def execRegisterWrite (offset : BitVec 10) (v : Word) (s : State) : Result :=
  inService s (registerWrite offset v)

/-- The meaning of HARDWARE_RESET (R159). -/
def execHardwareReset (s : State) : Result := .next (hardwareReset s)

/-- The meaning of RESET_N_RELEASE (R159). -/
def execResetNRelease (s : State) : Result := .next (resetNRelease s)

/-- The meaning of TIME_BASE_TICK (R158): the count stands while RESET_N is low. -/
def execTimeBaseTick (s : State) : Result := inService s tick

end Sys2Proof.Machine
end

