-- ==== Sys2Proof/Machine/Dispatch.lean ====
section
/-! DEFINITION. The dispatch of a command to its meaning: one arm per constructor of `Instr`. -/

namespace Sys2Proof.Machine

def exec (i : Instr) (s : State) : Host.Outcome State Fault Refusal :=
  match i with
  | .addStation c => Sys2Proof.Machine.execAddStation c s
  | .removeStation c => Sys2Proof.Machine.execRemoveStation c s
  | .queryStation c => Sys2Proof.Machine.execQueryStation c s
  | .createPoint c => Sys2Proof.Machine.execCreatePoint c s
  | .lookupPoint c => Sys2Proof.Machine.execLookupPoint c s
  | .findPoint c => Sys2Proof.Machine.execFindPoint c s
  | .nextPoint c => Sys2Proof.Machine.execNextPoint c s
  | .modifyPoint c => Sys2Proof.Machine.execModifyPoint c s
  | .retirePoint c => Sys2Proof.Machine.execRetirePoint c s
  | .forcePoint c => Sys2Proof.Machine.execForcePoint c s
  | .releasePoint c => Sys2Proof.Machine.execReleasePoint c s
  | .bind c => Sys2Proof.Machine.execBind c s
  | .unbind c => Sys2Proof.Machine.execUnbind c s
  | .resume c => Sys2Proof.Machine.execResume c s
  | .queryBinding c => Sys2Proof.Machine.execQueryBinding c s
  | .sendCommand c => Sys2Proof.Machine.execSendCommand c s
  | .abortCommand c => Sys2Proof.Machine.execAbortCommand c s
  | .collect c => Sys2Proof.Machine.execCollect c s
  | .badRequest c => Sys2Proof.Machine.execBadRequest c s
  | .submit c v => Sys2Proof.Machine.execSubmit c v s
  | .respRead c w => Sys2Proof.Machine.execRespRead c w s
  | .pop c v => Sys2Proof.Machine.execPop c v s
  | .causeRead c => Sys2Proof.Machine.execCauseRead c s
  | .causeWrite c v => Sys2Proof.Machine.execCauseWrite c v s
  | .causeMaskWrite c v => Sys2Proof.Machine.execCauseMaskWrite c v s
  | .linkWatchWrite c v => Sys2Proof.Machine.execLinkWatchWrite c v s
  | .irqModeWrite c v => Sys2Proof.Machine.execIrqModeWrite c v s
  | .msgAddrWrite c v => Sys2Proof.Machine.execMsgAddrWrite c v s
  | .msgDataWrite c v => Sys2Proof.Machine.execMsgDataWrite c v s
  | .msgKeyWrite c v => Sys2Proof.Machine.execMsgKeyWrite c v s
  | .clientReset c => Sys2Proof.Machine.execClientReset c s
  | .softReset => Sys2Proof.Machine.execSoftReset s
  | .linkEnable l => Sys2Proof.Machine.execLinkEnable l s
  | .linkDisable l => Sys2Proof.Machine.execLinkDisable l s
  | .rateWrite l v => Sys2Proof.Machine.execRateWrite l v s
  | .statusWrite l v => Sys2Proof.Machine.execStatusWrite l v s
  | .maskWrite l v => Sys2Proof.Machine.execMaskWrite l v s
  | .registerWrite o v => Sys2Proof.Machine.execRegisterWrite o v s
  | .hardwareReset => Sys2Proof.Machine.execHardwareReset s
  | .resetNRelease => Sys2Proof.Machine.execResetNRelease s
  | .timeBaseTick => Sys2Proof.Machine.execTimeBaseTick s
  | .freshnessExpiry p => Sys2Proof.Machine.execFreshnessExpiry p s
  | .completionDeadlineExpiry h => Sys2Proof.Machine.execCompletionDeadlineExpiry h s
  | .visitStart l => Sys2Proof.Machine.execVisitStart l s
  | .commandExchangeStart l => Sys2Proof.Machine.execCommandExchangeStart l s
  | .frameSent l => Sys2Proof.Machine.execFrameSent l s
  | .responseDeadlineExpiry l => Sys2Proof.Machine.execResponseDeadlineExpiry l s
  | .characterReceived l d m b => Sys2Proof.Machine.execCharacterReceived l d m b s
  | .gapDeadlineExpiry l => Sys2Proof.Machine.execGapDeadlineExpiry l s
  | .quietDeadlineExpiry l => Sys2Proof.Machine.execQuietDeadlineExpiry l s
  | .pollGapDeadlineExpiry l => Sys2Proof.Machine.execPollGapDeadlineExpiry l s
  | .mirrorWriteStart => Sys2Proof.Machine.execMirrorWriteStart s
  | .messageWriteStart => Sys2Proof.Machine.execMessageWriteStart s
  | .busGrant => Sys2Proof.Machine.execBusGrant s
  | .busAccept => Sys2Proof.Machine.execBusAccept s
  | .busEndStatus a e => Sys2Proof.Machine.execBusEndStatus a e s
  | .busTimeout => Sys2Proof.Machine.execBusTimeout s
  | .startBitDetected l r p => Sys2Proof.Machine.execStartBitDetected l r p s
  | .bgntNDeasserted => Sys2Proof.Machine.execBgntNDeasserted s

end Sys2Proof.Machine
end

