-- ==== Sys2Proof/Safety.lean ====
section
/-! DEFINITION. The words the statements are written in: a request ready to be taken and its answer; and
the laws of the device, those the spec calls laws and those its tables give, as properties of a state. -/

namespace Sys2Proof.Machine

/-! ## Taking a request (R140 to R142) -/

/-- R140: RESET_N is high, `r` stands at the head of client `c`'s request FIFO with `rest` behind it, the
response FIFO has room, and no other client has a ready request that a request of client `c` has been
taken before already. -/
structure ReadyRequest (s : State) (c : ClientId) (r : Request) (rest : List Request) : Prop where
  resetN : s.resetN = true
  head : (s.client c).requests = r :: rest
  room : (s.client c).responses.length < 8
  turn : ∀ d, d ≠ c → (s.client d).requests ≠ [] → (s.client d).responses.length < 8 →
    (s.client d).passed.getLsbD c.val = false

/-- R142, R164: the response record of a request: kind echo, status code and host tag echo in word 0. -/
def responseRecord (r : Request) (code : Nat) (w1 w2 w3 : Word) : Response where
  w0 := place 0 8 r.kind ||| place 8 8 code ||| place 16 16 r.hostTag.toNat
  w1 := w1
  w2 := w2
  w3 := w3

/-- R140, R142: the request leaves its FIFO and its one response enters the response FIFO, and the taking is
noted at the windows; R153: an ARMED message may pass on to PENDING. -/
def State.answered (s : State) (c : ClientId) (r : Request) (rest : List Request) (code : Nat)
    (w1 w2 w3 : Word) : State :=
  settle ((s.modifyClient c (fun k =>
    { k with
      requests := rest
      responses := k.responses ++ [responseRecord r code w1 w2 w3] })).noteTaking c)

/-- Table 8-2: the rows that take a request of client `c`, with their kind codes. -/
def requestRows (c : ClientId) : List (Nat × Instr) :=
  [(0x01, .addStation c), (0x02, .removeStation c), (0x03, .queryStation c), (0x10, .createPoint c),
    (0x11, .lookupPoint c), (0x12, .findPoint c), (0x13, .nextPoint c), (0x14, .modifyPoint c),
    (0x15, .retirePoint c), (0x16, .forcePoint c), (0x17, .releasePoint c), (0x20, .bind c),
    (0x21, .unbind c), (0x22, .resume c), (0x23, .queryBinding c), (0x30, .sendCommand c),
    (0x31, .abortCommand c), (0x32, .collect c)]

/-- R3, R16, R52, R109: `h` is the lowest FREE handle of a table of `n` records. -/
structure IsLowestFree {α : Type} (t : Table α) (n h : Nat) : Prop where
  free : t.find h = none
  inTable : h < n
  lowest : ∀ k, k < h → t.find k ≠ none

/-! ## The end of an exchange (R79, R82 to R84) -/

/-- The commands at which the exchange `x` of link `l` ends, its outcome, and the machine as it ends: as it
stood, but for the closing character that the receiver has taken. -/
inductive ExchangeEnds (s : State) (l : LinkId) (x : Exchange) :
    Instr → ExchangeOutcome → State → Prop
  /-- R79: the response deadline expires in AWAITING. -/
  | response (d : Nat) (h : (s.link l).activity = .awaiting x d) :
      ExchangeEnds s l x (.responseDeadlineExpiry l) .silent s
  /-- R79: a false start after which the expiry time of the response deadline has passed. -/
  | falseStart (d : Nat) (h : (s.link l).activity = .awaiting x d)
      (hc : (s.link l).inCharacter = false) :
      ExchangeEnds s l x (.startBitDetected l false true) .silent s
  /-- R82: the gap deadline expires in RECEIVING. -/
  | gap (rx : Receiver) (g : Nat) (h : (s.link l).activity = .receiving x rx)
      (hg : rx.gap = some g) :
      ExchangeEnds s l x (.gapDeadlineExpiry l) (.damaged (rx.fault.getD .length)) s
  /-- R82, R83: a character closes the frame: at its expected length, or the 64th with a fault pending. In
  AWAITING the character is the first one of the reply (log 11). -/
  | character (rx : Receiver) (data : Byte) (mark stop : Bool) (o : ExchangeOutcome)
      (h : (s.link l).activity = .receiving x rx ∨
        ∃ d, (s.link l).activity = .awaiting x d ∧ rx = Receiver.fresh)
      (hc : (rx.take x data mark stop).closure x.kind = some o) :
      ExchangeEnds s l x (.characterReceived l data mark stop) o
        (s.modifyLink l (fun k =>
          { k with activity := .receiving x (rx.take x data mark stop), inCharacter := false }))

/-- R89: the link enters QUIET for two character times; R153: an ARMED message may pass on to PENDING. -/
def State.quieted (s : State) (l : LinkId) (x : Exchange) : State :=
  settle (s.modifyLink l (fun k =>
    { k with activity := .quiet (2 * (176 * x.divisor.toNat)) }))

/-! ## The bindings a silence asks for (R35, R40, R54) -/

/-- R54: the Mirror Update Queue after bindings are asked for one after the other: each is appended at the
tail, unless it stands in the queue already. -/
def askedFor (queue bs : List Nat) : List Nat := bs.foldl (fun q b => if b ∈ q then q else q ++ [b]) queue

/-- R49: binding `b` is ACTIVE. -/
def State.isActive (s : State) (b : Nat) : Bool :=
  match s.bindings.find b with
  | none => false
  | some r => r.state == .active

/-- R51: the ACTIVE bindings of a point, in the order of its binding chain. -/
def State.activeBindings (s : State) (p : Point) : List Nat := p.bindings.filter s.isActive

/-- R40, Table 2-6: what the silence of a station asks for: the ACTIVE bindings of the LIVE points of its
chain, in chain order of the points. -/
def State.agedBindings (s : State) (chain : List Nat) : List Nat :=
  chain.flatMap (fun h =>
    match s.points.find h with
    | none => []
    | some p => if p.state = .live then s.activeBindings p else [])

/-! ## Laws of the point records -/

/-- R11, R39: the fields that reporting acts on, as its states hold them. -/
structure Reported.Lawful (r : Reported) : Prop where
  awaiting : r.state = .awaiting → r.value = none ∧ r.quality = .good
  good : r.state ≠ .awaiting → r.quality = .good → r.value.isSome = true
  stale : r.stale.isSome = (r.state == .stale)

/-- The laws of one point record: R10 and R29 (the run count never exceeds the confirm count, 1-3), R36
(the deadline runs exactly while LIVE-eligible with a period that is not 0, for that period), R11 and
R39 (its own or underlying fields), R42 (the forced part, in FORCED only), R22 (run count 0 in
RETIRING). -/
structure Point.Lawful (p : Point) : Prop where
  confirm : 1 ≤ p.confirm ∧ p.confirm ≤ 3
  run : p.run ≤ p.confirm
  deadline : p.deadline.isSome = (p.liveEligible && p.period != 0)
  length : ∀ d, p.deadline = some d → d.length = p.period.toNat
  forced : p.forced.isSome = (p.state == .forced)
  view : ∀ f, p.forced = some f →
    p.value = some f.value ∧ p.quality = .good ∧ p.stale = none ∧ p.notified = f.value
  reported : p.state ≠ .retiring → p.reported.Lawful
  retiring : p.state = .retiring → p.run = 0

/-- Every point record is lawful. -/
def PointsLawful (s : State) : Prop := s.points.All (fun _ p => p.Lawful)

/-! ## Laws of the bindings and the Mirror Update Queue -/

/-- Table 3-2: the dependent fields of a binding. -/
structure Binding.Lawful (r : Binding) : Prop where
  suspended : r.state = .suspended → r.inFlight = false
  detaching : r.state = .detaching → r.inFlight = true
  fault : r.fault.isSome = (r.state == .suspended)

/-- The mirror write in flight whose end the Mirror Unit will take is that of binding `b`. -/
def State.mirrorInFlight (s : State) (b : Nat) : Prop :=
  ∃ t final, s.mwm.phase.transaction = some t ∧ t.owner = .mirror b final ∧ t.ignored = false

/-- R50, R53: the bindings keep Table 3-2, the queue holds each binding at most once and only ACTIVE or
CLOSING ones, and only the binding of the write in flight has its in-flight flag set. -/
structure MirrorLaw (s : State) : Prop where
  bindings : s.bindings.All (fun _ r => r.Lawful)
  nodup : s.mirrorQueue.Nodup
  queued : ∀ b, b ∈ s.mirrorQueue →
    ∃ r, s.bindings.find b = some r ∧ (r.state = .active ∨ r.state = .closing)
  inFlight : ∀ b r, s.bindings.find b = some r → r.inFlight = true → s.mirrorInFlight b

/-! ## Laws of the Client Windows -/

/-- R136, R139, R148, R153, R156: a window's FIFOs hold at most 8 records; the outcome-ignored mark is set
only while the in-flight mark is; the message state is PENDING while a write is in flight; in LINE mode
it is ARMED unless an ignored write is in flight; the message address is a multiple of 4. -/
structure Client.Lawful (k : Client) : Prop where
  requests : k.requests.length ≤ 8
  responses : k.responses.length ≤ 8
  ignored : k.msgIgnored = true → k.msgInFlight = true
  inFlight : k.msgInFlight = true → k.msgState = .pending
  line : k.mode = .line → k.msgState = .armed ∨ k.msgIgnored = true
  address : k.msgAddr &&& 3#32 = 0#32

/-- R125, R148: every window is lawful, and a window's in-flight mark is set exactly while the transaction
in flight is its own message and its outcome is not ignored by the MWM. R140: no client is marked to have
passed a window without a ready request, and the marks stand in an order, so that of the ready requests
one may always be taken. -/
structure WindowLaw (s : State) : Prop where
  windows : ∀ c, (s.client c).Lawful
  inFlight : ∀ c, (s.client c).msgInFlight = true ↔
    ∃ t, s.mwm.phase.transaction = some t ∧ t.owner = .message c ∧ t.ignored = false
  passed : ∀ c, (s.client c).ready = false → (s.client c).passed = 0
  order : ∃ rank : ClientId → Nat, ∀ c d, d ≠ c → (s.client d).ready = true →
    (s.client d).passed.getLsbD c.val = true → rank d < rank c

/-- R153: in MESSAGE mode a client is never ARMED while one of its causes is raised. -/
def MessagesSettled (s : State) : Prop :=
  ∀ c, (s.client c).mode = .message → (s.client c).msgState = .armed → s.notify c = false

/-! ## Laws of the links -/

/-- R78, R80 to R82: the receiver in RECEIVING. With a fault pending it has counted fewer than 64
characters; with none it holds every data byte received, the CRC of those up to the last payload
character, and a count below the expected length, which is 5 to 64. -/
structure Receiver.Lawful (rx : Receiver) : Prop where
  faulty : rx.fault.isSome = true → rx.count < 64
  bytes : rx.fault = none → rx.bytes.length = rx.count
  start : rx.fault = none → rx.expected = none → rx.count < 2 ∧ rx.crc = Machine.crc rx.bytes
  expected : ∀ m, rx.fault = none → rx.expected = some m →
    2 ≤ rx.count ∧ rx.count < m ∧ 5 ≤ m ∧ m ≤ 64 ∧ rx.crc = Machine.crc (rx.bytes.take (m - 2))

/-- R70, R93, R103: the settings an exchange fixed at its start are in their ranges. -/
structure Exchange.Lawful (x : Exchange) : Prop where
  divisor : x.divisor ≠ 0
  responseTimeout : x.responseTimeout ≠ 0
  missLimit : x.missLimit ≠ 0

/-- R87 to R94, R101 to R103: the settings and counters of a link are in their ranges, a RUNNING link has a
divisor that is not 0, a DISABLED one holds no deadline and no position, and the poll gap deadline
stands as the exchange state gives; no character is within reception while TXEN is asserted or the
link waits for one (R71, R79). -/
structure Link.Lawful (k : Link) : Prop where
  divisor : k.activity ≠ .disabled → k.config.divisor ≠ 0
  responseTimeout : k.config.responseTimeout ≠ 0
  completionTimeout : k.config.completionTimeout ≠ 0
  missLimit : k.config.missLimit ≠ 0
  burstLimit : 1 ≤ k.config.burstLimit.toNat ∧ k.config.burstLimit.toNat ≤ 8
  burst : k.burst ≤ 8
  disabled : k.activity = .disabled →
    k.pollGap = .stopped ∧ k.roundPos = none ∧ k.inCharacter = false
  idle : k.activity = .idle → k.pollGap = .stopped
  gap : k.activity = .gap → k.inGap = true
  expired : k.pollGap = .expired → k.activity.busy = true
  exchange : ∀ x, k.activity.exchange = some x → x.Lawful
  sending : ∀ x, k.activity = .sending x → k.inCharacter = false
  listening : ∀ x d, k.activity = .awaiting x d → k.inCharacter = false
  receiver : ∀ x rx, k.activity = .receiving x rx → rx.Lawful

/-- Every link is lawful. -/
def LinksLawful (s : State) : Prop := ∀ l, (s.link l).Lawful

/-! ## Laws of the tables -/

/-- R1, R10, R49, R107, R109, R161: every table is in its canonical form with handles inside the table, and
no client has more than 16 slots that are not FREE. -/
structure TablesLaw (s : State) : Prop where
  stations : s.stations.Canonical ∧ s.stations.All (fun h _ => h < 256)
  points : s.points.Canonical ∧ s.points.All (fun h _ => h < 1024)
  bindings : s.bindings.Canonical ∧ s.bindings.All (fun h _ => h < 2048)
  slots : s.slots.Canonical ∧ s.slots.All (fun h _ => h < 32)
  tagSets : s.tagSets.Canonical ∧ s.tagSets.All (fun _ t => t.Canonical)
  perClient : ∀ c, clientSlots s c ≤ 16

/-! ## Laws of the directory -/

/-- R1, R2: the dependent fields of a station. -/
structure Station.Lawful (st : Station) : Prop where
  limit : 1 ≤ st.limit ∧ st.limit ≤ 4
  address : 1 ≤ st.address.toNat ∧ st.address.toNat ≤ 126
  capacity : st.capacity ≤ st.limit
  absent : st.state ≠ .present → st.capacity = 0
  stale : st.staleCause.isSome = (st.state == .silent)
  miss : st.miss ≤ 15
  leaving : st.state = .leaving → st.chain = []

/-- R2, R3, R4, R12: the stations are lawful; no two hold the same link and address; a link's poll list
holds its JOINING, PRESENT and SILENT stations once each; and a point is in the chain of its own
station and in no other, the chain ascending by point number. R92: the round position names a station in
the poll list, or end of round. -/
structure DirectoryLaw (s : State) : Prop where
  canonical : s.stations.Canonical
  stations : s.stations.All (fun _ st => st.Lawful)
  distinct : ∀ h k st st', s.stations.find h = some st → s.stations.find k = some st' →
    st.link = st'.link → st.address = st'.address → h = k
  pollNodup : ∀ l, (s.pollList l).Nodup
  pollList : ∀ l h, h ∈ s.pollList l ↔
    ∃ st, s.stations.find h = some st ∧ st.link = l ∧ st.state ≠ .leaving
  roundPos : ∀ l h, (s.link l).roundPos = some h → h ∈ s.pollList l
  inChain : ∀ h p, s.points.find h = some p →
    ∃ st, s.stations.find p.station = some st ∧ h ∈ st.chain
  ofChain : ∀ sid st, s.stations.find sid = some st → ∀ h, h ∈ st.chain →
    ∃ p, s.points.find h = some p ∧ p.station = sid
  ascending : ∀ sid st, s.stations.find sid = some st → st.chain.Pairwise (fun a b =>
    ∀ p q, s.points.find a = some p → s.points.find b = some q → p.number.toNat < q.number.toNat)

/-- R26, R51: a binding is in the chain of its point, once and in no other; no chain is longer than 8; and
the bindings of a RETIRING point, and only they, are CLOSING, but for those DETACHING. -/
structure BindingChainLaw (s : State) : Prop where
  inChain : ∀ b r, s.bindings.find b = some r →
    ∃ p, s.points.find r.point = some p ∧ b ∈ p.bindings
  ofChain : ∀ h p, s.points.find h = some p → ∀ b, b ∈ p.bindings →
    ∃ r, s.bindings.find b = some r ∧ r.point = h
  nodup : ∀ h p, s.points.find h = some p → p.bindings.Nodup
  length : ∀ h p, s.points.find h = some p → p.bindings.length ≤ 8
  closing : ∀ h p, s.points.find h = some p → ∀ b r, b ∈ p.bindings → s.bindings.find b = some r →
    (p.state = .retiring → r.state = .closing ∨ r.state = .detaching) ∧
      (r.state = .closing → p.state = .retiring)

/-! ## Laws of the command slots -/

/-- R108, Table 6-2: the dependent fields of a slot. -/
structure Slot.Lawful (r : Slot) : Prop where
  tag : r.tag.isSome = (r.state == .sent || r.state == .accepted)
  abort : r.abort.isSome = true → r.state = .sent
  deadline : r.deadline.isSome = (r.state == .accepted)
  result : r.result.isSome = (r.state == .done)
  code : r.state ≠ .done → r.code = 0

/-- The slot of a COMMAND exchange in flight on a link. -/
def Link.sentSlot (k : Link) : Option Nat :=
  match k.activity.exchange with
  | none => none
  | some x =>
    match x.kind with
    | .command h _ => some h
    | .poll => none
    | .identReq => none

/-- R108, R109, R110, R112: the slots keep Table 6-2; the slot of a COMMAND exchange in flight is SENT and
in flight on one link only; a QUEUED slot is in one command queue, once; every DONE slot is in the
done list of its own client, once, and nothing else is; a slot in QUEUED, SENT or ACCEPTED is the
pending command of its point, and a point's pending command is such a slot. -/
structure CommandLaw (s : State) : Prop where
  slots : s.slots.All (fun _ r => r.Lawful)
  sent : ∀ l h, (s.link l).sentSlot = some h → ∃ r, s.slots.find h = some r ∧ r.state = .sent
  sentOnce : ∀ l m h, (s.link l).sentSlot = some h → (s.link m).sentSlot = some h → l = m
  queueNodup : ∀ l, (s.cmdQueue l).Nodup
  queueOnce : ∀ l m h, h ∈ s.cmdQueue l → h ∈ s.cmdQueue m → l = m
  queued : ∀ h, (∃ l, h ∈ s.cmdQueue l) ↔ ∃ r, s.slots.find h = some r ∧ r.state = .queued
  doneNodup : ∀ c, (s.doneList c).Nodup
  done : ∀ c h, h ∈ s.doneList c ↔ ∃ r, s.slots.find h = some r ∧ r.state = .done ∧ r.client = c
  pending : ∀ h r, s.slots.find h = some r → r.state ≠ .done →
    ∃ p, s.points.find r.point = some p ∧ p.pendingCmd = some h
  ofPending : ∀ h p k, s.points.find h = some p → p.pendingCmd = some k →
    ∃ r, s.slots.find k = some r ∧ r.state ≠ .done ∧ r.point = h

/-- R111: a station's tags in use number no more than its effective capacity; a tag is held exactly while a
SENT or ACCEPTED slot of the station has it, and by that slot alone. R95: the exchange in flight is with
a station of the link, whose state agrees with the exchange's kind, and a SENT slot is the one of such an
exchange. R110: a queued slot stands in the queue of its station's own link. R2, R93: the station of a
slot that is not DONE is PRESENT and that of its point. R26: a RETIRING point has no QUEUED or ACCEPTED
slot, and R23: its SENT one is marked. -/
structure TagLaw (s : State) : Prop where
  capacity : ∀ sid st, s.stations.find sid = some st → s.tagsInUse sid ≤ st.capacity
  free : ∀ sid, s.stations.find sid = none → (s.tagSet sid).rows = []
  tags : ∀ sid g u, (s.tagSet sid).find g = some u → g < 16
  canonical : ∀ sid, (s.tagSet sid).Canonical
  held : ∀ sid g h, (s.tagSet sid).find g = some (.held h) ↔
    ∃ r, s.slots.find h = some r ∧ r.station = sid ∧ r.tag = some g
  exchange : ∀ l x, (s.link l).activity.exchange = some x →
    ∃ st, s.stations.find x.station = some st ∧ st.link = l ∧
      match x.kind with
      | .poll => st.state = .present ∨ st.state = .leaving
      | .identReq => st.state ≠ .present
      | .command h g => ∃ r, s.slots.find h = some r ∧ r.station = x.station ∧ r.tag = some g
  sent : ∀ h r, s.slots.find h = some r → r.state = .sent → ∃ l, (s.link l).sentSlot = some h
  queue : ∀ l h r, h ∈ s.cmdQueue l → s.slots.find h = some r →
    ∃ st, s.stations.find r.station = some st ∧ st.link = l
  station : ∀ h r, s.slots.find h = some r → r.state ≠ .done →
    (∃ st, s.stations.find r.station = some st ∧ st.state = .present) ∧
      ∃ p, s.points.find r.point = some p ∧ p.station = r.station
  retiring : ∀ h p k, s.points.find h = some p → p.state = .retiring → p.pendingCmd = some k →
    ∃ r, s.slots.find k = some r ∧ r.state = .sent ∧ r.abort.isSome = true

end Sys2Proof.Machine
end

