-- ==== Sys2Proof/Certificates/Slice0/Obligations.lean ====
section
/-! DEFINITION. The statements for the provers, from the rules of spec/. Each says what a command does as
an equation of its next state, or a law of the device that every step keeps. -/

open Sys2Proof Sys2Proof.Machine

/-! ## The queue, the resets and the time base -/

/-- A step runs the command at the front of the queue on the rest of the machine; on an empty queue the
block idles (the model's choice, log 1). -/
def Obligations.StepRunsFrontCommand : Prop :=
  (∀ (s : State) (i : Instr) (rest : List Instr), s.pending = i :: rest →
    step s = exec i { s with pending := rest }) ∧
  ∀ s : State, s.pending = [] → step s = .next s

/-- R159, R5, R13, R52, R87, R103, R124, R125, R136, R148: hardware reset leaves every table FREE, every
queue, list and FIFO empty, and every register at its reset value, with RESET_N low; its release starts
the time base from 0. The word on the data lines is 0 by the model's choice (log 8), and the marks of
takings are its own fields (log 5); the pin BGNT_N and the queue of commands are outside the part. R159,
R162: while RESET_N is low, no command but the reset pin, the bus arbiter's pin and the register reads
changes anything; the reads return 0, no interrupt line is asserted, and after the reset's moment no link
sends and no bus request stands. That a release with RESET_N high changes nothing is the model's choice
(log 3), and that no command beyond the register accesses of R159 acts while RESET_N is low is its
inference (log 9). -/
def Obligations.HardwareResetLowAndRelease : Prop :=
  (∀ s : State,
     exec .hardwareReset s = .next {
       pending := s.pending
       resetN := false
       now := 0
       readData := 0
       bgnt := s.bgnt
       stations := ⟨[]⟩
       pollLists := ⟨[], [], [], []⟩
       points := ⟨[]⟩
       bindings := ⟨[]⟩
       mirrorQueue := []
       slots := ⟨[]⟩
       cmdQueues := ⟨[], [], [], []⟩
       tagSets := ⟨[]⟩
       doneLists := ⟨[], [], [], []⟩
       links := Quad.all {
         activity := .disabled
         roundPos := none
         roundCounter := 0
         burst := 0
         pollGap := .stopped
         config := {
           divisor := 0
           responseTimeout := 20
           completionTimeout := 50
           pollGap := 10
           missLimit := 3
           burstLimit := 4 }
         status := 0
         mask := 0
         inCharacter := false }
       mwm := { phase := .idle, lastClient := 3, lineSize := .l32 }
       clients := Quad.all {
         stage1 := 0
         stage2 := 0
         stage3 := 0
         requests := []
         responses := []
         passed := 0
         sticky := {
           commandDone := false
           mirrorFault := false
           messageFault := false
           requestOverrun := false
           responseUnderread := false }
         mask := 0
         watch := 0
         mode := .line
         msgAddr := 0
         msgData := 0
         msgKey := 0
         msgState := .armed
         msgInFlight := false
         msgIgnored := false } } ∧
     (s.resetN = false → exec .resetNRelease s = .next { s with resetN := true, now := 0 }) ∧
     (s.resetN = true → exec .resetNRelease s = .next s)) ∧
  ∀ s : State, s.resetN = false →
    (∀ i : Instr, i ≠ .hardwareReset → i ≠ .resetNRelease → i ≠ .busGrant → i ≠ .bgntNDeasserted →
      (∀ c j, i ≠ .respRead c j) → (∀ c, i ≠ .causeRead c) → exec i s = .next s) ∧
    (∀ c j, exec (.respRead c j) s = .next { s with readData := 0 }) ∧
    (∀ c, exec (.causeRead c) s = .next { s with readData := 0 }) ∧
    (∀ offset, readRegister s offset = 0) ∧
    (∀ c, s.irqAsserted c = false) ∧
    (∀ t, exec .hardwareReset s = .next t →
      t.breqAsserted = false ∧ t.busDriven = none ∧
        ∀ l, (t.link l).txen = false ∧ (t.link l).txd = [true])

/-- R160, R135, R147, R157, Table 10-1: soft reset frees every table, empties every queue, list and FIFO,
clears flags and sticky causes, disables the links, sets the time base to 0, lets a transaction in flight
drain with its outcome ignored, and keeps exactly the settings of Table 10-1. The marks of takings are
the model's own fields, cleared with the request FIFO (log 5). -/
def Obligations.SoftResetKeepsTheSettings : Prop :=
  ∀ s : State, s.resetN = true →
    exec .softReset s = .next {
      pending := s.pending
      resetN := true
      now := 0
      readData := s.readData
      bgnt := s.bgnt
      stations := ⟨[]⟩
      pollLists := ⟨[], [], [], []⟩
      points := ⟨[]⟩
      bindings := ⟨[]⟩
      mirrorQueue := []
      slots := ⟨[]⟩
      cmdQueues := ⟨[], [], [], []⟩
      tagSets := ⟨[]⟩
      doneLists := ⟨[], [], [], []⟩
      links := s.links.map (fun k => {
        activity := .disabled
        roundPos := none
        roundCounter := 0
        burst := 0
        pollGap := .stopped
        config := k.config
        status := 0
        mask := k.mask
        inCharacter := false })
      mwm := {
        phase :=
          match s.mwm.phase with
          | .idle => .idle
          | .request t => .request { t with ignored := true }
          | .drive t => .drive { t with ignored := true }
          | .accepted t => .accepted { t with ignored := true }
        lastClient := 3
        lineSize := s.mwm.lineSize }
      clients := s.clients.map (fun k => {
        stage1 := 0
        stage2 := 0
        stage3 := 0
        requests := []
        responses := []
        passed := 0
        sticky := {
          commandDone := false
          mirrorFault := false
          messageFault := false
          requestOverrun := false
          responseUnderread := false }
        mask := k.mask
        watch := k.watch
        mode := k.mode
        msgAddr := k.msgAddr
        msgData := k.msgData
        msgKey := k.msgKey
        msgState := .armed
        msgInFlight := false
        msgIgnored := false }) }

/-- R158: a tick raises the millisecond count by one, wrapping, and changes nothing else; TIME_NOW reads
the count; a deadline of a length is due from the count `start + length`, taken modulo 2^32, on. -/
def Obligations.TimeBaseCountsAndDeadlinesWrap : Prop :=
  (∀ s : State, s.resetN = true → exec .timeBaseTick s = .next { s with now := s.now + 1 }) ∧
  (∀ s : State, s.resetN = true → readRegister s 0x004 = s.now) ∧
  ∀ (start : BitVec 32) (length k : Nat), k < 2 ^ 32 →
    ((⟨start, length⟩ : Deadline).due (start + BitVec.ofNat 32 k) = true ↔ length ≤ k)

/-! ## The request path -/

/-- R140 to R142, R14: a ready request is taken by the row of its kind, with exactly one response, echoing
kind and host tag, at the tail of its own client's response FIFO; a status other than OK has words of 0
and changes nothing else; an undefined kind is answered BAD_REQUEST. R140: once a head request is ready, no
other client has more than one request taken before it. The model marks such a taking at every other window
whose head request is ready, its own marks cleared (log 5), and a client marked there has nothing taken
until that head is. Where the request is not ready, or it is not its client's turn, or the row is not that
of its kind, the row changes nothing (the model's choice, log 3). -/
def Obligations.EveryTakenRequestIsAnsweredOnce : Prop :=
  (∀ (s : State) (c : ClientId) (r : Request) (rest : List Request),
    ReadyRequest s c r rest →
    (∀ i, (r.kind, i) ∈ requestRows c →
      ∃ t code w1 w2 w3, exec i s = .next t ∧ code ≤ 12 ∧
        (t.client c).requests = rest ∧
        (t.client c).responses = (s.client c).responses ++ [responseRecord r code w1 w2 w3] ∧
        (t.client c).passed = 0 ∧
        (∀ d, d ≠ c → (t.client d).requests = (s.client d).requests ∧
          (t.client d).responses = (s.client d).responses ∧
          (t.client d).passed =
            if (s.client d).requests ≠ [] ∧ (s.client d).responses.length < 8 then
              (s.client d).passed ||| BitVec.twoPow 4 c.val
            else (s.client d).passed) ∧
        (code ≠ 0 → w1 = 0 ∧ w2 = 0 ∧ w3 = 0 ∧ t = s.answered c r rest code 0 0 0)) ∧
    ((∀ i, (r.kind, i) ∉ requestRows c) →
      exec (.badRequest c) s = .next (s.answered c r rest 1 0 0 0))) ∧
  (∀ (s : State) (c : ClientId) (code : Nat) (i : Instr), s.resetN = true →
    (code, i) ∈ requestRows c →
    ((s.client c).requests = [] ∨ 8 ≤ (s.client c).responses.length ∨
      (∃ r rest, (s.client c).requests = r :: rest ∧ r.kind ≠ code) ∨
      ∃ d, d ≠ c ∧ (s.client d).requests ≠ [] ∧ (s.client d).responses.length < 8 ∧
        (s.client d).passed.getLsbD c.val = true) →
    exec i s = .next s) ∧
  (∀ (s : State) (c : ClientId), s.resetN = true →
    ((s.client c).requests = [] ∨ 8 ≤ (s.client c).responses.length ∨
      (∃ r rest i, (s.client c).requests = r :: rest ∧ (r.kind, i) ∈ requestRows c) ∨
      ∃ d, d ≠ c ∧ (s.client d).requests ≠ [] ∧ (s.client d).responses.length < 8 ∧
        (s.client d).passed.getLsbD c.val = true) →
    exec (.badRequest c) s = .next s)

/-- R138, R139, R143: SUBMIT appends the record of the word written and the staging words, or discards it
with REQUEST_OVERRUN when the FIFO holds 8; RESP0-RESP3 show the head response and change no FIFO; POP
removes the head; with the response FIFO empty a read returns all ones, and a read or a POP sets
RESPONSE_UNDERREAD. -/
def Obligations.RequestPathRegisters : Prop :=
  ∀ (s : State) (c : ClientId), s.resetN = true →
    (∀ v, (s.client c).requests.length < 8 →
      exec (.submit c v) s = .next (s.modifyClient c (fun k =>
        { k with requests := k.requests ++ [⟨v, k.stage1, k.stage2, k.stage3⟩] }))) ∧
    (∀ v, 8 ≤ (s.client c).requests.length →
      exec (.submit c v) s = .next (settle (s.modifyClient c (fun k =>
        { k with sticky := { k.sticky with requestOverrun := true } })))) ∧
    (∀ r rest, (s.client c).responses = r :: rest →
      exec (.respRead c 0) s = .next { s with readData := r.w0 } ∧
      exec (.respRead c 1) s = .next { s with readData := r.w1 } ∧
      exec (.respRead c 2) s = .next { s with readData := r.w2 } ∧
      exec (.respRead c 3) s = .next { s with readData := r.w3 } ∧
      ∀ v, exec (.pop c v) s = .next (s.modifyClient c (fun k => { k with responses := rest }))) ∧
    ((s.client c).responses = [] →
      (∀ i, exec (.respRead c i) s = .next (settle
        ({ s with readData := 0xFFFFFFFF }.modifyClient c (fun k =>
          { k with sticky := { k.sticky with responseUnderread := true } })))) ∧
      ∀ v, exec (.pop c v) s = .next (settle (s.modifyClient c (fun k =>
        { k with sticky := { k.sticky with responseUnderread := true } }))))

/-! ## Notification -/

/-- R149, R155: a read of CAUSE returns the seven causes and takes a SENT message to ARMED, from where it
passes on to PENDING while the notify condition holds; in any other state it changes nothing; a write
of CAUSE clears each sticky cause whose bit is 1, and the positions of the level causes ignore it. -/
def Obligations.CauseRegister : Prop :=
  ∀ (s : State) (c : ClientId), s.resetN = true →
    ((s.client c).msgState ≠ .sent →
      exec (.causeRead c) s = .next { s with readData := (s.causes c).setWidth 32 }) ∧
    ((s.client c).msgState = .sent →
      exec (.causeRead c) s = .next (settle
        ({ s with readData := (s.causes c).setWidth 32 }.modifyClient c (fun k =>
          { k with msgState := .armed })))) ∧
    ∀ v : Word, exec (.causeWrite c v) s = .next (s.modifyClient c (fun k => { k with
      sticky := {
        commandDone := k.sticky.commandDone && !v.getLsbD 2
        mirrorFault := k.sticky.mirrorFault && !v.getLsbD 3
        messageFault := k.sticky.messageFault && !v.getLsbD 4
        requestOverrun := k.sticky.requestOverrun && !v.getLsbD 5
        responseUnderread := k.sticky.responseUnderread && !v.getLsbD 6 } }))

/-- R148 to R153: RESPONSE_READY is set exactly while the response FIFO is not empty, LINK_EVENT exactly
while a watched link has a flag set and unmasked, the other five are the sticky causes; the notify
condition is a cause set and unmasked; IRQ_N follows it in LINE mode; and in MESSAGE mode an ARMED
window whose condition holds passes on to PENDING, with nothing else changed. -/
def Obligations.NotifyConditionLineAndMessage : Prop :=
  (∀ (s : State) (c : ClientId),
    (s.causes c).getLsbD 0 = !(s.client c).responses.isEmpty ∧
    ((s.causes c).getLsbD 1 = true ↔ ∃ l : LinkId, (s.client c).watch.getLsbD l.val = true ∧
      ∃ i, i < 11 ∧ (s.link l).status.getLsbD i = true ∧ (s.link l).mask.getLsbD i = true) ∧
    (s.causes c).getLsbD 2 = (s.client c).sticky.commandDone ∧
    (s.causes c).getLsbD 3 = (s.client c).sticky.mirrorFault ∧
    (s.causes c).getLsbD 4 = (s.client c).sticky.messageFault ∧
    (s.causes c).getLsbD 5 = (s.client c).sticky.requestOverrun ∧
    (s.causes c).getLsbD 6 = (s.client c).sticky.responseUnderread ∧
    (s.notify c = true ↔
      ∃ i, i < 7 ∧ (s.causes c).getLsbD i = true ∧ (s.client c).mask.getLsbD i = true) ∧
    (s.irqAsserted c = true ↔
      s.resetN = true ∧ (s.client c).mode = .line ∧ s.notify c = true)) ∧
  ∀ (s : State),
    (∀ c, (settle s).client c =
      if (s.client c).mode = .message ∧ (s.client c).msgState = .armed ∧ s.notify c = true then
        { s.client c with msgState := .pending }
      else s.client c) ∧
    settle s = { s with clients := (settle s).clients }

/-- R150, R151, R156, R146: CAUSE_MASK and LINK_WATCH take their field at the write; IRQ_MODE, MSG_ADDR,
MSG_DATA and MSG_KEY store their setting and reset the message state: to ARMED with no write in flight,
else the write in flight has its outcome ignored. Client reset empties the FIFOs, clears the staging
words and the sticky causes and resets the message state, in its own window only; everything else is
kept. The marks of takings are the model's own fields, cleared with the request FIFO (log 5). -/
def Obligations.NotificationSettingsAndClientReset : Prop :=
  (∀ (s : State) (c : ClientId) (v : Word), s.resetN = true →
     exec (.causeMaskWrite c v) s =
       .next (settle (s.modifyClient c (fun k => { k with mask := v.extractLsb' 0 7 }))) ∧
     exec (.linkWatchWrite c v) s =
       .next (settle (s.modifyClient c (fun k => { k with watch := v.extractLsb' 0 4 }))) ∧
     ((s.client c).msgInFlight = false →
       exec (.irqModeWrite c v) s = .next (settle (s.modifyClient c (fun k =>
         { k with mode := if v.getLsbD 0 then .message else .line, msgState := .armed }))) ∧
       exec (.msgAddrWrite c v) s = .next (settle (s.modifyClient c (fun k =>
         { k with msgAddr := v &&& 0xFFFFFFFC, msgState := .armed }))) ∧
       exec (.msgDataWrite c v) s = .next (settle (s.modifyClient c (fun k =>
         { k with msgData := v, msgState := .armed }))) ∧
       exec (.msgKeyWrite c v) s = .next (settle (s.modifyClient c (fun k =>
         { k with msgKey := v.extractLsb' 0 4, msgState := .armed })))) ∧
     ((s.client c).msgInFlight = true →
       exec (.irqModeWrite c v) s = .next (settle (s.modifyClient c (fun k =>
         { k with mode := if v.getLsbD 0 then .message else .line, msgIgnored := true }))) ∧
       exec (.msgAddrWrite c v) s = .next (settle (s.modifyClient c (fun k =>
         { k with msgAddr := v &&& 0xFFFFFFFC, msgIgnored := true }))) ∧
       exec (.msgDataWrite c v) s = .next (settle (s.modifyClient c (fun k =>
         { k with msgData := v, msgIgnored := true }))) ∧
       exec (.msgKeyWrite c v) s = .next (settle (s.modifyClient c (fun k =>
         { k with msgKey := v.extractLsb' 0 4, msgIgnored := true }))))) ∧
  ∀ (s : State) (c : ClientId), s.resetN = true →
    exec (.clientReset c) s = .next (settle (s.modifyClient c (fun k => {
      stage1 := 0
      stage2 := 0
      stage3 := 0
      requests := []
      responses := []
      passed := 0
      sticky := {
        commandDone := false
        mirrorFault := false
        messageFault := false
        requestOverrun := false
        responseUnderread := false }
      mask := k.mask
      watch := k.watch
      mode := k.mode
      msgAddr := k.msgAddr
      msgData := k.msgData
      msgKey := k.msgKey
      msgState := if k.msgInFlight then k.msgState else .armed
      msgInFlight := k.msgInFlight
      msgIgnored := k.msgInFlight || k.msgIgnored })))

/-! ## Registers -/

/-- R103 to R105, R129, R137, R162, R163: what the writes of RATE, STATUS, MASK, TIMING, POLL, BUS_CONFIG
and STAGE1-STAGE3 store, for every value written; read-only registers and undefined offsets ignore the
write, and undefined offsets read 0. -/
def Obligations.RegisterWritesStoreTheirFields : Prop :=
  ∀ (s : State) (v : Word), s.resetN = true →
    (∀ l : LinkId,
      (exec (.rateWrite l v) s =
        if v.extractLsb' 0 10 = 0#10 ∧ (s.link l).activity ≠ .disabled then
          .next (settle (s.modifyLink l (fun k => { k with status := k.status ||| 0x400#11 })))
        else .next (s.modifyLink l (fun k =>
          { k with config := { k.config with divisor := v.extractLsb' 0 10 } }))) ∧
      exec (.statusWrite l v) s =
        .next (s.modifyLink l (fun k => { k with status := k.status &&& ~~~(v.extractLsb' 0 11) })) ∧
      exec (.maskWrite l v) s =
        .next (settle (s.modifyLink l (fun k => { k with mask := v.extractLsb' 0 11 }))) ∧
      exec (.registerWrite (0x048#10 + BitVec.ofNat 10 (0x20 * l.val)) v) s =
        .next (s.modifyLink l (fun k => { k with config := { k.config with
          responseTimeout := if v.extractLsb' 0 8 = 0#8 then 1 else v.extractLsb' 0 8
          completionTimeout := if v.extractLsb' 8 8 = 0#8 then 1 else v.extractLsb' 8 8 } })) ∧
      exec (.registerWrite (0x04C#10 + BitVec.ofNat 10 (0x20 * l.val)) v) s =
        .next (s.modifyLink l (fun k => { k with config := { k.config with
          pollGap := v.extractLsb' 0 8
          missLimit := if v.extractLsb' 8 4 = 0#4 then 1 else v.extractLsb' 8 4
          burstLimit :=
            if v.extractLsb' 12 4 = 0#4 then 1
            else if 8 < (v.extractLsb' 12 4).toNat then 8
            else v.extractLsb' 12 4 } }))) ∧
    exec (.registerWrite 0x008 v) s = .next { s with mwm := { s.mwm with
      lineSize :=
        if fieldOf v 0 2 = 0 then .l16
        else if fieldOf v 0 2 = 1 then .l32
        else if fieldOf v 0 2 = 2 then .l64
        else s.mwm.lineSize } } ∧
    (∀ c : ClientId,
      exec (.registerWrite (0x200#10 + BitVec.ofNat 10 (0x80 * c.val)) v) s =
        .next (s.modifyClient c (fun k => { k with stage1 := v })) ∧
      exec (.registerWrite (0x204#10 + BitVec.ofNat 10 (0x80 * c.val)) v) s =
        .next (s.modifyClient c (fun k => { k with stage2 := v })) ∧
      exec (.registerWrite (0x208#10 + BitVec.ofNat 10 (0x80 * c.val)) v) s =
        .next (s.modifyClient c (fun k => { k with stage3 := v })) ∧
      (∀ o : BitVec 10, o.toNat = 0x210 + 0x80 * c.val ∨ o.toNat = 0x214 + 0x80 * c.val ∨
        o.toNat = 0x218 + 0x80 * c.val ∨ o.toNat = 0x21C + 0x80 * c.val ∨
        o.toNat = 0x224 + 0x80 * c.val → exec (.registerWrite o v) s = .next s)) ∧
    (∀ o : BitVec 10, o.toNat = 0x004 ∨ (0x00C ≤ o.toNat ∧ o.toNat ≤ 0x01F) →
      exec (.registerWrite o v) s = .next s) ∧
    (∀ o : BitVec 10,
      (0x020 ≤ o.toNat ∧ o.toNat ≤ 0x03F) ∨
      (∃ l : LinkId, 0x058 + 0x20 * l.val ≤ o.toNat ∧ o.toNat ≤ 0x05F + 0x20 * l.val) ∨
      (0x0B8 ≤ o.toNat ∧ o.toNat ≤ 0x1FF) ∨
      (∃ c : ClientId, 0x248 + 0x80 * c.val ≤ o.toNat ∧ o.toNat ≤ 0x27F + 0x80 * c.val) →
      exec (.registerWrite o v) s = .next s ∧ readRegister s o = 0)

/-- R144, R145, R161 to R163, R129, R137: what every defined offset reads, so that each field reads back as
stored: the link registers, BUS_CONFIG, the occupancy counts and the client registers; write-only
registers read 0. Bits 1 and 0 of an offset are ignored; a write of DEV_CONTROL or of a client CONTROL
with the reset field clear is ignored. -/
def Obligations.RegistersReadBack : Prop :=
  ∀ s : State, s.resetN = true →
    (∀ l : LinkId,
      let k := s.link l
      let reads := fun (r : BitVec 10) => readRegister s (0x040#10 + BitVec.ofNat 10 (0x20 * l.val) + r)
      reads 0x00 = (if k.activity = .disabled then 0 else 1) ∧
      reads 0x04 = k.config.divisor.setWidth 32 ∧
      reads 0x08 = place 0 8 k.config.responseTimeout.toNat |||
        place 8 8 k.config.completionTimeout.toNat ∧
      reads 0x0C = place 0 8 k.config.pollGap.toNat ||| place 8 4 k.config.missLimit.toNat |||
        place 12 4 k.config.burstLimit.toNat ∧
      reads 0x10 = k.status.setWidth 32 ∧
      reads 0x14 = k.mask.setWidth 32) ∧
    readRegister s 0x000 = 0 ∧
    readRegister s 0x008 = (match s.mwm.lineSize with
      | .l16 => 0
      | .l32 => 1
      | .l64 => 2) ∧
    readRegister s 0x00C = BitVec.ofNat 32 s.stations.rows.length ∧
    readRegister s 0x010 = BitVec.ofNat 32 s.points.rows.length ∧
    readRegister s 0x014 = BitVec.ofNat 32 s.bindings.rows.length ∧
    readRegister s 0x018 = BitVec.ofNat 32 s.slots.rows.length ∧
    readRegister s 0x01C = BitVec.ofNat 32 s.mirrorQueue.length ∧
    (∀ c : ClientId,
      let k := s.client c
      let reads := fun (r : BitVec 10) => readRegister s (0x200#10 + BitVec.ofNat 10 (0x80 * c.val) + r)
      reads 0x00 = k.stage1 ∧ reads 0x04 = k.stage2 ∧ reads 0x08 = k.stage3 ∧
      reads 0x0C = 0 ∧
      (∀ r more, k.responses = r :: more →
        reads 0x10 = r.w0 ∧ reads 0x14 = r.w1 ∧ reads 0x18 = r.w2 ∧ reads 0x1C = r.w3) ∧
      (k.responses = [] → reads 0x10 = 0xFFFFFFFF ∧ reads 0x14 = 0xFFFFFFFF ∧
        reads 0x18 = 0xFFFFFFFF ∧ reads 0x1C = 0xFFFFFFFF) ∧
      reads 0x20 = 0 ∧
      reads 0x24 = place 0 4 k.requests.length ||| place 4 4 k.responses.length ∧
      reads 0x28 = (s.causes c).setWidth 32 ∧
      reads 0x2C = k.mask.setWidth 32 ∧
      reads 0x30 = k.watch.setWidth 32 ∧
      reads 0x34 = (match k.mode with
        | .line => 0
        | .message => 1) ∧
      reads 0x38 = k.msgAddr ∧ reads 0x3C = k.msgData ∧
      reads 0x40 = k.msgKey.setWidth 32 ∧
      reads 0x44 = 0 ∧
      ∀ v : Word, v.getLsbD 0 = false →
        exec (.registerWrite (0x244#10 + BitVec.ofNat 10 (0x80 * c.val)) v) s = .next s) ∧
    (∀ v : Word, v.getLsbD 0 = false → exec (.registerWrite 0x000 v) s = .next s) ∧
    ∀ o : BitVec 10,
      readRegister s o = readRegister s (o &&& 0x3FC#10) ∧
      ∀ v : Word, exec (.registerWrite o v) s = exec (.registerWrite (o &&& 0x3FC#10) v) s

/-! ## Stations -/

/-- R3, R4, R6, R91: an ADD_STATION that is not refused allocates the lowest FREE station, sets every field
and appends it to its link's poll list: JOINING on a RUNNING link, SILENT with LINK_OFF on a DISABLED
one; on a link in IDLE the round position is set to it and the link leaves IDLE at a decision point. That the
decision stays open for its start is the model's choice (log 2). -/
def Obligations.AddStationCreatesStation : Prop :=
  ∀ (s : State) (c : ClientId) (r : Request) (rest : List Request) (l : LinkId) (h : Nat),
    ReadyRequest s c r rest → r.kind = 0x01 →
    fieldOf r.w1 0 8 = l.val →
    1 ≤ fieldOf r.w1 8 8 → fieldOf r.w1 8 8 ≤ 126 →
    1 ≤ fieldOf r.w1 16 8 → fieldOf r.w1 16 8 ≤ 4 →
    (∀ row ∈ s.stations.rows, ¬(row.2.link = l ∧ row.2.address = r.w1.extractLsb' 8 8)) →
    IsLowestFree s.stations 256 h →
    let off := (s.link l).activity = .disabled
    let placed : State := { s with
      stations := s.stations.put h {
        state := if off then .silent else .joining
        link := l
        address := r.w1.extractLsb' 8 8
        limit := fieldOf r.w1 16 8
        capacity := 0
        miss := 0
        typeCode := none
        chain := []
        staleCause := if off then some .linkOff else none }
      pollLists := s.pollLists.set l (s.pollList l ++ [h]) }
    ((s.link l).activity ≠ .idle →
      exec (.addStation c) s = .next (placed.answered c r rest 0 (place 0 16 h) 0 0)) ∧
    ((s.link l).activity = .idle → (s.link l).pollGap = .stopped →
      exec (.addStation c) s = .next ((placed.modifyLink l (fun k =>
        { k with roundPos := some h, activity := .deciding })).answered c r rest 0
          (place 0 16 h) 0 0))

/-- R7, R92: a REMOVE_STATION that is not refused frees the station's tags, takes it out of its poll list,
moves a round position that named it to the station that followed, and makes it FREE, or LEAVING while
an exchange with it is in flight. -/
def Obligations.RemoveStationFreesOrLeaves : Prop :=
  ∀ (s : State) (c : ClientId) (r : Request) (rest : List Request) (st : Station),
    ReadyRequest s c r rest → r.kind = 0x02 → r.handle ≤ 255 →
    s.stations.find r.handle = some st → st.state ≠ .leaving → st.chain = [] →
    (∀ k slot, s.slots.find k = some slot → slot.state = .queued → slot.station ≠ r.handle) →
    let h := r.handle
    let out : State := { s with
      tagSets := s.tagSets.drop h
      pollLists := s.pollLists.set st.link ((s.pollList st.link).filter (fun x => x != h))
      links := s.links.modify st.link (fun k =>
        { k with
          roundPos := if k.roundPos = some h then successor (s.pollList st.link) h else k.roundPos }) }
    ((∀ x, (s.link st.link).activity.exchange = some x → x.station ≠ h) →
      exec (.removeStation c) s =
        .next ({ out with stations := s.stations.drop h }.answered c r rest 0 0 0 0)) ∧
    (∀ x, (s.link st.link).activity.exchange = some x → x.station = h →
      exec (.removeStation c) s = .next ({ out with
        stations := s.stations.put h
          { st with state := .leaving, capacity := 0, staleCause := none } }.answered
            c r rest 0 0 0 0))

/-- R9, R17, R65, Table 11-3: QUERY_STATION, LOOKUP_POINT and QUERY_BINDING answer OK with the record's
fields in their positions, a FORCED point by its published view, and change nothing else. -/
def Obligations.QueriesReportTheRecord : Prop :=
  ∀ (s : State) (c : ClientId) (r : Request) (rest : List Request), ReadyRequest s c r rest →
    (∀ st, r.kind = 0x03 → r.handle ≤ 255 → s.stations.find r.handle = some st →
      let state := match st.state with
        | .joining => 1
        | .present => 2
        | .silent => 3
        | .leaving => 4
      let stale := match st.staleCause with
        | none => 0
        | some .expired => 1
        | some .silent => 2
        | some .linkOff => 3
      exec (.queryStation c) s = .next (s.answered c r rest 0
        (place 0 8 state ||| place 8 8 st.link.val ||| place 16 8 st.address.toNat |||
          place 24 8 st.miss)
        (place 0 8 st.limit ||| place 8 8 st.capacity |||
          place 16 8 (s.tagSet r.handle).rows.length ||| place 24 8 stale)
        (match st.typeCode with
          | none => place 17 9 st.chain.length
          | some t => place 0 16 t.toNat ||| place 16 1 1 ||| place 17 9 st.chain.length))) ∧
    (∀ p, r.kind = 0x11 → r.handle ≤ 1023 → s.points.find r.handle = some p →
      let time := place 12 1 (if p.lastReport.isSome then 1 else 0) |||
        place 16 16 p.reportCount.toNat
      (p.forced = none →
        let state := match p.state with
          | .awaiting => 1
          | .live => 2
          | .stale => 3
          | .forced => 4
          | .retiring => 5
        let quality := match p.quality with
          | .good => 0
          | .bad => 1
        let stale := match p.stale with
          | none => 0
          | some .expired => 1
          | some .silent => 2
          | some .linkOff => 3
        exec (.lookupPoint c) s = .next (s.answered c r rest 0
          (place 0 4 state ||| place 8 1 quality ||| place 9 2 stale |||
            place 11 1 (if p.value.isSome then 1 else 0) ||| time)
          (p.value.getD 0) (p.lastReport.getD 0))) ∧
      (∀ f, p.forced = some f →
        let under := match f.under.state with
          | .awaiting => 1
          | .live => 2
          | .stale => 3
        exec (.lookupPoint c) s = .next (s.answered c r rest 0
          (place 0 4 4 ||| place 4 4 under ||| place 11 1 1 ||| time)
          f.value (p.lastReport.getD 0)))) ∧
    (∀ b, r.kind = 0x23 → r.handle ≤ 2047 → s.bindings.find r.handle = some b →
      let state := match b.state with
        | .active => 1
        | .suspended => 2
        | .closing => 3
        | .detaching => 4
      let trigger := match b.trigger with
        | .change => 0
        | .report => 1
        | .quality => 2
      let fault := match b.fault with
        | none => 0
        | some .protection => 1
        | some .invalidAddress => 2
        | some .dataCheck => 3
        | some .timeout => 4
      exec (.queryBinding c) s = .next (s.answered c r rest 0
        (place 0 16 b.point ||| place 16 4 state ||| place 20 2 b.client.val |||
          place 22 2 trigger ||| place 24 3 fault |||
          place 27 1 (if r.handle ∈ s.mirrorQueue then 1 else 0) |||
          place 28 1 (if b.inFlight then 1 else 0))
        b.address (place 0 16 b.sequence.toNat)))

/-! ## Points -/

/-- R12, R16: a CREATE_POINT that is not refused allocates the lowest FREE point, sets every field, and
inserts it in its station's chain between the lower and the higher point numbers. -/
def Obligations.CreatePointInsertsInOrder : Prop :=
  ∀ (s : State) (c : ClientId) (r : Request) (rest : List Request) (st : Station) (h : Nat)
    (before after : List Nat),
    ReadyRequest s c r rest → r.kind = 0x10 →
    fieldOf r.w1 0 16 ≤ 255 → fieldOf r.w1 16 16 ≤ 255 → r.key ≤ 15 →
    1 ≤ fieldOf r.w2 0 8 → fieldOf r.w2 0 8 ≤ 3 →
    s.stations.find (fieldOf r.w1 0 16) = some st → st.state ≠ .leaving →
    st.chain = before ++ after →
    (∀ x ∈ before, ∃ m, numberOf s x = some m ∧ m < fieldOf r.w1 16 16) →
    (∀ x ∈ after, ∃ m, numberOf s x = some m ∧ fieldOf r.w1 16 16 < m) →
    IsLowestFree s.points 1024 h →
    exec (.createPoint c) s = .next ({ s with
      stations := s.stations.put (fieldOf r.w1 0 16) { st with chain := before ++ h :: after }
      points := s.points.put h {
        state := .awaiting
        station := fieldOf r.w1 0 16
        number := BitVec.ofNat 8 (fieldOf r.w1 16 16)
        key := BitVec.ofNat 4 r.key
        confirm := fieldOf r.w2 0 8
        deadband := r.w2.extractLsb' 16 16
        period := r.w3.extractLsb' 0 16
        value := none
        quality := .good
        stale := none
        candidate := 0
        run := 0
        notified := 0
        reportCount := 0
        lastReport := none
        forced := none
        pendingCmd := none
        bindings := []
        deadline := none } }.answered c r rest 0 (place 0 16 h) 0 0)

/-- R18, R19: FIND_POINT answers the point of the chain with the number; NEXT_POINT answers the first
point of the chain from start, or the one with the smallest number above the one given. Neither changes
anything else. Their refusals, first refusal first. -/
def Obligations.FindAndNextPointSearchTheChain : Prop :=
  ∀ (s : State) (c : ClientId) (r : Request) (rest : List Request), ReadyRequest s c r rest →
    let sid := fieldOf r.w1 0 16
    let n := fieldOf r.w1 16 16
    (∀ (st : Station) (h : Nat) (p : Point) (before after : List Nat), sid ≤ 255 →
      s.stations.find sid = some st → st.chain = before ++ h :: after →
      s.points.find h = some p →
      let state := match p.state with
        | .awaiting => 1
        | .live => 2
        | .stale => 3
        | .forced => 4
        | .retiring => 5
      (r.kind = 0x12 → p.number.toNat = n → (∀ x ∈ before, numberOf s x ≠ some n) →
        exec (.findPoint c) s =
          .next (s.answered c r rest 0 (place 0 16 h ||| place 16 8 state) 0 0)) ∧
      (r.kind = 0x13 → r.w2.getLsbD 0 = true → before = [] →
        exec (.nextPoint c) s = .next (s.answered c r rest 0
          (place 0 16 h ||| place 16 8 p.number.toNat ||| place 24 8 state) 0 0)) ∧
      (r.kind = 0x13 → r.w2.getLsbD 0 = false → n ≤ 255 → n < p.number.toNat →
        (∀ x ∈ before, ∀ m, numberOf s x = some m → m ≤ n) →
        (∀ x ∈ after, ∀ m, numberOf s x = some m → p.number.toNat < m) →
        exec (.nextPoint c) s = .next (s.answered c r rest 0
          (place 0 16 h ||| place 16 8 p.number.toNat ||| place 24 8 state) 0 0))) ∧
    (r.kind = 0x12 →
      (¬(sid ≤ 255 ∧ n ≤ 255) → exec (.findPoint c) s = .next (s.answered c r rest 2 0 0 0)) ∧
      (sid ≤ 255 → n ≤ 255 →
        (∀ st, s.stations.find sid = some st → ∀ x ∈ st.chain, numberOf s x ≠ some n) →
        exec (.findPoint c) s = .next (s.answered c r rest 3 0 0 0))) ∧
    (r.kind = 0x13 →
      let fromStart := r.w2.getLsbD 0 = true
      (255 < sid ∨ (¬fromStart ∧ 255 < n) →
        exec (.nextPoint c) s = .next (s.answered c r rest 2 0 0 0)) ∧
      (sid ≤ 255 → fromStart → (∀ st, s.stations.find sid = some st → st.chain = []) →
        exec (.nextPoint c) s = .next (s.answered c r rest 3 0 0 0)) ∧
      (sid ≤ 255 → ¬fromStart → n ≤ 255 →
        (∀ st, s.stations.find sid = some st → ∀ x ∈ st.chain, ∀ m, numberOf s x = some m → m ≤ n) →
        exec (.nextPoint c) s = .next (s.answered c r rest 3 0 0 0)))

/-- R6, R7, R9, R16, R17: the refusals of the station requests and of CREATE_POINT and LOOKUP_POINT, first
refusal first. -/
def Obligations.StationAndPointRefusals : Prop :=
  (∀ (s : State) (c : ClientId) (r : Request) (rest : List Request), ReadyRequest s c r rest →
     (r.kind = 0x01 →
       let link := fieldOf r.w1 0 8
       let address := fieldOf r.w1 8 8
       let limit := fieldOf r.w1 16 8
       let good := link ≤ 3 ∧ 1 ≤ address ∧ address ≤ 126 ∧ 1 ≤ limit ∧ limit ≤ 4
       let held := ∃ row ∈ s.stations.rows, row.2.link.val = link ∧ row.2.address.toNat = address
       (¬good → exec (.addStation c) s = .next (s.answered c r rest 2 0 0 0)) ∧
       (good → held → exec (.addStation c) s = .next (s.answered c r rest 4 0 0 0)) ∧
       (good → ¬held → (∀ h, h < 256 → s.stations.find h ≠ none) →
         exec (.addStation c) s = .next (s.answered c r rest 5 0 0 0))) ∧
     (r.kind = 0x02 →
       (255 < r.handle → exec (.removeStation c) s = .next (s.answered c r rest 2 0 0 0)) ∧
       (r.handle ≤ 255 → s.stations.find r.handle = none →
         exec (.removeStation c) s = .next (s.answered c r rest 3 0 0 0)) ∧
       ∀ st, r.handle ≤ 255 → s.stations.find r.handle = some st →
         (st.state = .leaving →
           exec (.removeStation c) s = .next (s.answered c r rest 7 0 0 0)) ∧
         (st.state ≠ .leaving → st.chain ≠ [] →
           exec (.removeStation c) s = .next (s.answered c r rest 9 0 0 0))) ∧
     (r.kind = 0x03 →
       (255 < r.handle → exec (.queryStation c) s = .next (s.answered c r rest 2 0 0 0)) ∧
       (r.handle ≤ 255 → s.stations.find r.handle = none →
         exec (.queryStation c) s = .next (s.answered c r rest 3 0 0 0)))) ∧
  ∀ (s : State) (c : ClientId) (r : Request) (rest : List Request), ReadyRequest s c r rest →
    let sid := fieldOf r.w1 0 16
    let n := fieldOf r.w1 16 16
    (r.kind = 0x10 →
      let confirm := fieldOf r.w2 0 8
      let good := sid ≤ 255 ∧ n ≤ 255 ∧ r.key ≤ 15 ∧ 1 ≤ confirm ∧ confirm ≤ 3
      (¬good → exec (.createPoint c) s = .next (s.answered c r rest 2 0 0 0)) ∧
      (good → s.stations.find sid = none →
        exec (.createPoint c) s = .next (s.answered c r rest 3 0 0 0)) ∧
      ∀ st, good → s.stations.find sid = some st →
        (st.state = .leaving → exec (.createPoint c) s = .next (s.answered c r rest 7 0 0 0)) ∧
        (st.state ≠ .leaving → (∃ x ∈ st.chain, numberOf s x = some n) →
          exec (.createPoint c) s = .next (s.answered c r rest 4 0 0 0)) ∧
        (st.state ≠ .leaving → (∀ x ∈ st.chain, numberOf s x ≠ some n) →
          (∀ h, h < 1024 → s.points.find h ≠ none) →
          exec (.createPoint c) s = .next (s.answered c r rest 5 0 0 0))) ∧
    (r.kind = 0x11 →
      (1023 < r.handle → exec (.lookupPoint c) s = .next (s.answered c r rest 2 0 0 0)) ∧
      (r.handle ≤ 1023 → s.points.find r.handle = none →
        exec (.lookupPoint c) s = .next (s.answered c r rest 3 0 0 0)))

/-- R14, R20, R22, R26, R42, R46, R113, R141: the requests that present a key check, in this order, the
ranges, the record, the key as the whole value 0-255 against a point key that is not 0, and the
point's state. -/
def Obligations.KeyedRequestRefusals : Prop :=
  ∀ (s : State) (c : ClientId) (r : Request) (rest : List Request) (i : Instr),
    ReadyRequest s c r rest →
    (r.kind, i) ∈ [(0x14, Instr.modifyPoint c), (0x15, .retirePoint c), (0x16, .forcePoint c),
      (0x17, .releasePoint c), (0x30, .sendCommand c)] →
    let badConfirm := r.kind = 0x14 ∧ r.w1.getLsbD 16 = true ∧
      ¬(1 ≤ fieldOf r.w2 0 8 ∧ fieldOf r.w2 0 8 ≤ 3)
    (1023 < r.handle ∨ badConfirm → exec i s = .next (s.answered c r rest 2 0 0 0)) ∧
    (r.handle ≤ 1023 → ¬badConfirm → s.points.find r.handle = none →
      exec i s = .next (s.answered c r rest 3 0 0 0)) ∧
    ∀ p, r.handle ≤ 1023 → ¬badConfirm → s.points.find r.handle = some p →
      let fails := p.key ≠ 0 ∧ r.key ≠ p.key.toNat
      (fails → exec i s = .next (s.answered c r rest 6 0 0 0)) ∧
      (¬fails → p.state = .retiring → exec i s = .next (s.answered c r rest 7 0 0 0)) ∧
      (¬fails → r.kind = 0x17 → p.state ≠ .forced →
        exec i s = .next (s.answered c r rest 7 0 0 0)) ∧
      (¬fails → r.kind = 0x30 →
        (∀ st, s.stations.find p.station = some st → st.state ≠ .present ∨ st.capacity = 0) →
        exec i s = .next (s.answered c r rest 7 0 0 0))

/-- R20, R21, Table 1-7: a MODIFY_POINT that is not refused changes the selected fields and no other; a
selected confirm count sets the run to 0; a selected period starts, restarts or stops the deadline of a
LIVE-eligible point and leaves that of any other stopped as it was. -/
def Obligations.ModifyPointChangesSelectedFields : Prop :=
  ∀ (s : State) (c : ClientId) (r : Request) (rest : List Request) (p : Point),
    ReadyRequest s c r rest → r.kind = 0x14 → r.handle ≤ 1023 →
    s.points.find r.handle = some p → (p.key = 0 ∨ r.key = p.key.toNat) → p.state ≠ .retiring →
    (r.w1.getLsbD 16 = true → 1 ≤ fieldOf r.w2 0 8 ∧ fieldOf r.w2 0 8 ≤ 3) →
    let eligible := p.state = .live ∨ (p.state = .forced ∧ p.reported.state = .live)
    let period : BitVec 16 := r.w3.extractLsb' 0 16
    exec (.modifyPoint c) s = .next ({ s with
      points := s.points.put r.handle { p with
        confirm := if r.w1.getLsbD 16 then fieldOf r.w2 0 8 else p.confirm
        run := if r.w1.getLsbD 16 then 0 else p.run
        deadband := if r.w1.getLsbD 17 then r.w2.extractLsb' 16 16 else p.deadband
        period := if r.w1.getLsbD 18 then period else p.period
        deadline :=
          if r.w1.getLsbD 18 = true ∧ eligible then
            (if period = 0 then none else some ⟨s.now, period.toNat⟩)
          else p.deadline
        key := if r.w1.getLsbD 19 then r.w2.extractLsb' 8 4 else p.key } }.answered
          c r rest 0 0 0 0)

/-- R22, R23, R25, R112: a RETIRE_POINT of a point without bindings. With no pending command the point is
FREE at the taking. A QUEUED or an ACCEPTED command ends RETIRED in its owner's done list, with the tag
of the ACCEPTED one abandoned, and the point is FREE too. A SENT command is marked abort-pending
RETIRED, unless it is marked ABORTED, and the point stays RETIRING, its forced view folded in, its
run 0 and its deadline stopped. -/
def Obligations.RetirePointHandsOverItsCommand : Prop :=
  ∀ (s : State) (c : ClientId) (r : Request) (rest : List Request) (p : Point),
    ReadyRequest s c r rest → r.kind = 0x15 → r.handle ≤ 1023 →
    s.points.find r.handle = some p → (p.key = 0 ∨ r.key = p.key.toNat) → p.state ≠ .retiring →
    p.bindings = [] →
    let h := r.handle
    let freed : State := { s with
      stations := s.stations.modify p.station (fun st =>
        { st with chain := st.chain.filter (fun x => x != h) })
      points := s.points.drop h }
    (p.pendingCmd = none →
      exec (.retirePoint c) s = .next (freed.answered c r rest 0 0 0 0)) ∧
    ∀ k slot, p.pendingCmd = some k → s.slots.find k = some slot → slot.point = h →
      let ended : State := { freed with
        slots := s.slots.put k { slot with
          state := .done
          tag := none
          abort := none
          deadline := none
          result := some .retired
          code := 0 }
        doneLists := s.doneLists.modify slot.client (fun d => d ++ [k])
        clients := s.clients.modify slot.client (fun w =>
          { w with sticky := { w.sticky with commandDone := true } }) }
      (slot.state = .queued → slot.tag = none →
        exec (.retirePoint c) s = .next ({ ended with
          cmdQueues := s.cmdQueues.map (fun q => q.filter (fun x => x != k)) }.answered
            c r rest 0 0 0 0)) ∧
      (∀ g, slot.state = .accepted → slot.tag = some g →
        exec (.retirePoint c) s = .next ({ ended with
          tagSets := s.tagSets.put slot.station ((s.tagSet slot.station).put g .abandoned)
            }.answered c r rest 0 0 0 0)) ∧
      (slot.state = .sent →
        exec (.retirePoint c) s = .next ({ s with
          slots := s.slots.put k { slot with
            abort := if slot.abort = some AbortPending.aborted then some .aborted else some .retired }
          points := s.points.put h { p with
            state := .retiring
            value := match p.forced with
              | some f => some f.value
              | none => p.value
            quality := match p.forced with
              | some _ => .good
              | none => p.quality
            stale := match p.forced with
              | some _ => none
              | none => p.stale
            forced := none
            deadline := none
            run := 0 } }.answered c r rest 0 (place 0 8 5) 0 0))

/-- R22 to R25, R54, R66, R112: at a RETIRE_POINT each ACTIVE binding of the point's chain becomes CLOSING and
is queued, keeping its place if it was queued; each SUSPENDED one becomes FREE; each DETACHING one stays.
A pending command that is QUEUED or ACCEPTED ends RETIRED in its owner's done list, with the tag of the
ACCEPTED one abandoned, and a SENT one is marked. The point keeps the bindings that are left and is
RETIRING, or it is FREE if none is left and no command is SENT. -/
def Obligations.RetirePointClosesItsBindings : Prop :=
  ∀ (s : State) (c : ClientId) (r : Request) (rest : List Request) (p : Point),
    ReadyRequest s c r rest → r.kind = 0x15 → r.handle ≤ 1023 →
    s.points.find r.handle = some p → (p.key = 0 ∨ r.key = p.key.toNat) → p.state ≠ .retiring →
    p.bindings.Nodup →
    (∀ b ∈ p.bindings, ∃ x, s.bindings.find b = some x ∧ x.point = r.handle ∧ x.state ≠ .closing) →
    (∀ b ∈ s.mirrorQueue, ∀ x, s.bindings.find b = some x → x.state ≠ .suspended) →
    (∀ k, p.pendingCmd = some k →
      ∃ slot, s.slots.find k = some slot ∧ slot.point = r.handle ∧ slot.state ≠ .done) →
    let isIn := fun (q : BindingState) (b : Nat) =>
      (s.bindings.find b).map (fun x => x.state) == some q
    let left := p.bindings.filter (fun b => !isIn .suspended b)
    let sent := ∃ k slot, p.pendingCmd = some k ∧ s.slots.find k = some slot ∧ slot.state = .sent
    ∃ t, exec (.retirePoint c) s = .next t ∧
      (∀ b ∈ p.bindings, ∀ x, s.bindings.find b = some x →
        (x.state = .active → t.bindings.find b = some { x with state := .closing }) ∧
        (x.state = .suspended → t.bindings.find b = none) ∧
        (x.state = .detaching → t.bindings.find b = some x)) ∧
      (∀ b, b ∉ p.bindings → t.bindings.find b = s.bindings.find b) ∧
      t.mirrorQueue = s.mirrorQueue ++
        p.bindings.filter (fun b => isIn .active b && !s.mirrorQueue.contains b) ∧
      (∀ k slot, p.pendingCmd = some k → s.slots.find k = some slot →
        (slot.state = .sent → t.slots.find k = some { slot with
          abort := if slot.abort = some AbortPending.aborted then some .aborted else some .retired }) ∧
        (slot.state = .queued ∨ slot.state = .accepted →
          t.slots.find k = some { slot with
            state := .done
            tag := none
            abort := none
            deadline := none
            result := some .retired
            code := 0 } ∧
          (∀ d, t.doneList d =
            if d = slot.client then s.doneList d ++ [k] else s.doneList d) ∧
          (t.client slot.client).sticky.commandDone = true) ∧
        (slot.state = .queued → ∀ l, t.cmdQueue l = (s.cmdQueue l).filter (fun x => x != k)) ∧
        (∀ g, slot.state = .accepted → slot.tag = some g →
          t.tagSets = s.tagSets.put slot.station ((s.tagSet slot.station).put g .abandoned))) ∧
      (∀ k, p.pendingCmd ≠ some k → t.slots.find k = s.slots.find k) ∧
      (left = [] → ¬sent → t.points.find r.handle = none ∧
        (t.client c).responses = (s.client c).responses ++ [responseRecord r 0 0 0 0]) ∧
      (left ≠ [] ∨ sent →
        (∃ q, t.points.find r.handle = some q ∧ q.state = .retiring ∧ q.bindings = left ∧
          q.deadline = none ∧ q.run = 0 ∧ (sent → q.pendingCmd = p.pendingCmd) ∧
          (¬sent → q.pendingCmd = none)) ∧
        (t.client c).responses =
          (s.client c).responses ++ [responseRecord r 0 (place 0 8 5) 0 0])

/-- R42, R43: FORCE_POINT saves the point's fields as the underlying ones and publishes the forced value as
a quality event; on a FORCED point it replaces the forced value as a value event, whatever the values,
and keeps the underlying fields. R46: RELEASE_POINT brings the underlying fields back, discards the forced
part, sets the notified value to the restored value if there is one, is a quality event and answers the
restored state. -/
def Obligations.ForceAndReleasePoint : Prop :=
  (∀ (s : State) (c : ClientId) (r : Request) (rest : List Request) (p : Point),
     ReadyRequest s c r rest → r.kind = 0x16 → r.handle ≤ 1023 →
     s.points.find r.handle = some p → (p.key = 0 ∨ r.key = p.key.toNat) →
     (∀ u : ReportedState, p.forced = none →
       p.state = (match u with
         | .awaiting => PointState.awaiting
         | .live => .live
         | .stale => .stale) →
       exec (.forcePoint c) s = .next ((pointEvent r.handle .quality { s with
         points := s.points.put r.handle { p with
           state := .forced
           value := some r.w2
           quality := .good
           stale := none
           notified := r.w2
           forced := some ⟨r.w2, ⟨u, p.value, p.quality, p.stale⟩⟩ } }).answered
             c r rest 0 0 0 0)) ∧
     (∀ f, p.state = .forced → p.forced = some f →
       exec (.forcePoint c) s = .next ((pointEvent r.handle .value { s with
         points := s.points.put r.handle { p with
           value := some r.w2
           notified := r.w2
           forced := some { f with value := r.w2 } } }).answered c r rest 0 0 0 0))) ∧
  ∀ (s : State) (c : ClientId) (r : Request) (rest : List Request) (p : Point) (f : ForcedPart),
    ReadyRequest s c r rest → r.kind = 0x17 → r.handle ≤ 1023 →
    s.points.find r.handle = some p → (p.key = 0 ∨ r.key = p.key.toNat) →
    p.state = .forced → p.forced = some f →
    exec (.releasePoint c) s = .next ((pointEvent r.handle .quality { s with
      points := s.points.put r.handle { p with
        state := match f.under.state with
          | .awaiting => .awaiting
          | .live => .live
          | .stale => .stale
        value := f.under.value
        quality := f.under.quality
        stale := f.under.stale
        notified := match f.under.value with
          | some v => v
          | none => p.notified
        forced := none } }).answered c r rest 0
          (place 0 8 (match f.under.state with
            | .awaiting => 1
            | .live => 2
            | .stale => 3)) 0 0)

/-! ## Value acceptance and freshness -/

/-- R28 to R32, R34, R36, Tables 2-1 and 2-4: an OK entry taken against a point in AWAITING, LIVE or STALE.
The candidate is updated first; a run below the confirm count changes only candidate, run, report count
and a LIVE point's deadline; an accepted value moves the point as Table 2-1 gives. R32: the deadband
test is made on the exact difference of two signed numbers, strictly greater. -/
def Obligations.OkEntryFollowsTheAcceptanceTable : Prop :=
  (∀ (p : Point) (u : ReportedState) (e : Entry) (now : BitVec 32),
     e.fault = false → p.forced = none →
     p.state = (match u with
       | .awaiting => PointState.awaiting
       | .live => .live
       | .stale => .stale) →
     let run := if 0 < p.run ∧ e.value = p.candidate then min (p.run + 1) p.confirm else 1
     let deadline := fun (live : Bool) =>
       if live = true ∧ p.period ≠ 0 then some ⟨now, p.period.toNat⟩ else p.deadline
     (run ≠ p.confirm → p.takeEntry e now =
       ({ p with
           reportCount := p.reportCount + 1
           candidate := e.value
           run := run
           deadline := deadline (u == .live) }, none)) ∧
     (run = p.confirm →
       let class_ : EventClass :=
         if u = .live ∧ p.quality = .good then
           (if beyondDeadband e.value p.notified p.deadband then .value else .plain)
         else .quality
       p.takeEntry e now =
         ({ p with
             reportCount := p.reportCount + 1
             candidate := e.value
             run := run
             state := .live
             value := some e.value
             quality := .good
             stale := none
             lastReport := some now
             notified := if class_ = .plain then p.notified else e.value
             deadline := deadline true }, some class_))) ∧
  (∀ (v n : Word) (deadband : BitVec 16),
    beyondDeadband v n deadband = true ↔
      (deadband.toNat : Int) < v.toInt - n.toInt ∨ (deadband.toNat : Int) < n.toInt - v.toInt) ∧
  (∀ v n : Word, beyondDeadband v n 0 = true ↔ v ≠ n) ∧
  ∀ deadband : BitVec 16, beyondDeadband 0x7FFFFFFF 0x80000000 deadband = true

/-- R28, R33, R44, Tables 2-2 and 2-8: a FAULT entry zeroes the run, makes the point LIVE with quality BAD
and keeps value, notified value and last report time; while FORCED an entry acts on the underlying
fields only, with no event class and the forced value as notified value. -/
def Obligations.FaultAndForcedEntries : Prop :=
  (∀ (p : Point) (u : ReportedState) (e : Entry) (now : BitVec 32),
    e.fault = true → p.forced = none →
    p.state = (match u with
      | .awaiting => PointState.awaiting
      | .live => .live
      | .stale => .stale) →
    p.takeEntry e now =
      ({ p with
          reportCount := p.reportCount + 1
          run := 0
          state := .live
          quality := .bad
          stale := none
          deadline := if p.period ≠ 0 then some ⟨now, p.period.toNat⟩ else p.deadline },
        some (if u = .live ∧ p.quality = .bad then .plain else .quality))) ∧
  ∀ (p : Point) (f : ForcedPart) (e : Entry) (now : BitVec 32),
    p.state = .forced → p.forced = some f →
    let run := if 0 < p.run ∧ e.value = p.candidate then min (p.run + 1) p.confirm else 1
    let deadline := fun (live : Bool) =>
      if live = true ∧ p.period ≠ 0 then some ⟨now, p.period.toNat⟩ else p.deadline
    (e.fault = true → p.takeEntry e now =
      ({ p with
          reportCount := p.reportCount + 1
          run := 0
          forced := some { f with under := ⟨.live, f.under.value, .bad, none⟩ }
          deadline := deadline true }, none)) ∧
    (e.fault = false → run = p.confirm → p.takeEntry e now =
      ({ p with
          reportCount := p.reportCount + 1
          candidate := e.value
          run := run
          lastReport := some now
          forced := some { f with under := ⟨.live, some e.value, .good, none⟩ }
          deadline := deadline true }, none)) ∧
    (e.fault = false → run ≠ p.confirm → p.takeEntry e now =
      ({ p with
          reportCount := p.reportCount + 1
          candidate := e.value
          run := run
          deadline := deadline (f.under.state == .live) }, none))

/-- R27, R26, R35: one entry of a REPORT is taken against the point of the station's chain with its number,
and the bindings of its event class are asked for; an entry for no point of the chain, or for a
RETIRING one, changes nothing. R35, R54, Table 2-3: a point event appends to the Mirror Update Queue, in
chain order, the ACTIVE bindings its class selects that are not in the queue; those that are keep their
place; nothing else changes. -/
def Obligations.ReportEntriesAndPointEvents : Prop :=
  (∀ (s : State) (sid : Nat) (st : Station) (e : Entry), s.stations.find sid = some st →
     ((∀ x ∈ st.chain, numberOf s x ≠ some e.number.toNat) → takeEntryAt sid s e = s) ∧
     ∀ before h after p, st.chain = before ++ h :: after →
       (∀ x ∈ before, numberOf s x ≠ some e.number.toNat) → s.points.find h = some p →
       p.number = e.number →
       (p.state = .retiring → takeEntryAt sid s e = s) ∧
       (p.state ≠ .retiring →
         takeEntryAt sid s e =
           let t := { s with points := s.points.put h (p.takeEntry e s.now).1 }
           match (p.takeEntry e s.now).2 with
           | none => t
           | some x => pointEvent h x t)) ∧
  ∀ (s : State) (h : Nat) (p : Point) (e : EventClass),
    s.points.find h = some p → p.bindings.Nodup →
    pointEvent h e s = { s with
      mirrorQueue := s.mirrorQueue ++ p.bindings.filter (fun b =>
        !s.mirrorQueue.contains b &&
        match s.bindings.find b with
        | none => false
        | some r => r.state == .active &&
          match e with
          | .quality => true
          | .value => r.trigger != .quality
          | .plain => r.trigger == .report) }

/-- R37, R45, R116, R158: a freshness deadline that is due makes a LIVE point STALE with EXPIRED as a
quality event, and a FORCED point's underlying state so with no event; a completion deadline that is
due ends an ACCEPTED slot TIMED_OUT, its tag abandoned; with the deadline stopped or not due nothing
changes (the model's inference, log 14). -/
def Obligations.MillisecondDeadlinesExpire : Prop :=
  (∀ (s : State) (h : Fin 1024) (p : Point), s.resetN = true → s.points.find h.val = some p →
    (deadlineDue p.deadline s.now = false → exec (.freshnessExpiry h) s = .next s) ∧
    (deadlineDue p.deadline s.now = true → p.state = .live → p.forced = none →
      exec (.freshnessExpiry h) s = .next (pointEvent h.val .quality { s with
        points := s.points.put h.val { p with
          state := .stale
          stale := some .expired
          run := 0
          deadline := none } })) ∧
    (∀ f, deadlineDue p.deadline s.now = true → p.state = .forced → p.forced = some f →
      f.under.state = .live →
      exec (.freshnessExpiry h) s = .next { s with
        points := s.points.put h.val { p with
          forced := some { f with under :=
            { f.under with state := .stale, stale := some .expired } }
          run := 0
          deadline := none } })) ∧
  ∀ (s : State) (h : Fin 32) (r : Slot), s.resetN = true → s.slots.find h.val = some r →
    (deadlineDue r.deadline s.now = false → exec (.completionDeadlineExpiry h) s = .next s) ∧
    (∀ g p, deadlineDue r.deadline s.now = true → r.state = .accepted → r.tag = some g →
      s.points.find r.point = some p → p.state ≠ .retiring →
      exec (.completionDeadlineExpiry h) s = .next (settle { s with
        tagSets := s.tagSets.put r.station ((s.tagSet r.station).put g .abandoned)
        slots := s.slots.put h.val { r with
          state := .done
          tag := none
          abort := none
          deadline := none
          result := some .timedOut
          code := 0 }
        points := s.points.put r.point { p with pendingCmd := none }
        doneLists := s.doneLists.modify r.client (fun d => d ++ [h.val])
        clients := s.clients.modify r.client (fun w =>
          { w with sticky := { w.sticky with commandDone := true } }) }))

/-! ## Bindings -/

/-- R51, R52, R54, R62: a BIND that is not refused allocates the lowest FREE binding for the requesting
client, ACTIVE with sequence 0, appends it to its point's chain and queues its initial write. R63, R55: an
UNBIND that is not refused takes the binding out of the queue; with its write in flight it becomes
DETACHING, and otherwise it is FREE and out of its point's chain. -/
def Obligations.BindAndUnbind : Prop :=
  (∀ (s : State) (c : ClientId) (r : Request) (rest : List Request) (p : Point) (b : Nat)
     (trigger : Trigger),
     ReadyRequest s c r rest → r.kind = 0x20 → r.handle ≤ 1023 → r.key ≤ 15 →
     fieldOf r.w2 0 4 = 0 →
     fieldOf r.w1 16 8 = (match trigger with
       | .change => 0
       | .report => 1
       | .quality => 2) →
     s.points.find r.handle = some p → p.state ≠ .retiring → p.bindings.length < 8 →
     IsLowestFree s.bindings 2048 b → b ∉ s.mirrorQueue →
     exec (.bind c) s = .next ({ s with
       points := s.points.put r.handle { p with bindings := p.bindings ++ [b] }
       bindings := s.bindings.put b {
         state := .active
         point := r.handle
         client := c
         key := BitVec.ofNat 4 r.key
         address := r.w2
         trigger := trigger
         inFlight := false
         sequence := 0
         fault := none }
       mirrorQueue := s.mirrorQueue ++ [b] }.answered c r rest 0 (place 0 16 b) 0 0)) ∧
  ∀ (s : State) (c : ClientId) (r : Request) (rest : List Request) (b : Binding),
    ReadyRequest s c r rest → r.kind = 0x21 → r.handle ≤ 2047 →
    s.bindings.find r.handle = some b → b.client = c → (b.state = .active ∨ b.state = .suspended) →
    let queue := s.mirrorQueue.filter (fun x => x != r.handle)
    (b.inFlight = true → exec (.unbind c) s = .next ({ s with
      mirrorQueue := queue
      bindings := s.bindings.put r.handle { b with state := .detaching, fault := none } }.answered
        c r rest 0 (place 0 8 4) 0 0)) ∧
    (∀ p, b.inFlight = false → s.points.find b.point = some p → p.state ≠ .retiring →
      exec (.unbind c) s = .next ({ s with
        mirrorQueue := queue
        bindings := s.bindings.drop r.handle
        points := s.points.put b.point
          { p with bindings := p.bindings.filter (fun x => x != r.handle) } }.answered
            c r rest 0 0 0 0))

/-- R64: a RESUME that is not refused makes the SUSPENDED binding ACTIVE with no fault and places it at the
tail of the Mirror Update Queue; the sequence is kept and MIRROR_FAULT is not cleared. Its refusals, in
their order. -/
def Obligations.ResumeQueuesTheBinding : Prop :=
  ∀ (s : State) (c : ClientId) (r : Request) (rest : List Request), ReadyRequest s c r rest →
    r.kind = 0x22 →
    (2047 < r.handle → exec (.resume c) s = .next (s.answered c r rest 2 0 0 0)) ∧
    (r.handle ≤ 2047 →
      (∀ b, s.bindings.find r.handle = some b → b.client ≠ c) →
      exec (.resume c) s = .next (s.answered c r rest 3 0 0 0)) ∧
    ∀ b, r.handle ≤ 2047 → s.bindings.find r.handle = some b → b.client = c →
      (b.state ≠ .suspended → exec (.resume c) s = .next (s.answered c r rest 7 0 0 0)) ∧
      (b.state = .suspended → r.handle ∉ s.mirrorQueue →
        exec (.resume c) s = .next ({ s with
          bindings := s.bindings.put r.handle { b with state := .active, fault := none }
          mirrorQueue := s.mirrorQueue ++ [r.handle] }.answered c r rest 0 0 0 0))

/-! ## Commands -/

/-- R109, R110, R113, R93: a SEND_COMMAND that is not refused allocates the lowest FREE slot, QUEUED at the
tail of the command queue of the station's link, and makes it the point's pending command; on a link in
GAP, with the burst counter below its limit, a new slot that is eligible is a decision point. That the
decision stays open for its start is the model's choice (log 2). -/
def Obligations.SendCommandQueuesASlot : Prop :=
  ∀ (s : State) (c : ClientId) (r : Request) (rest : List Request) (p : Point) (st : Station) (k : Nat),
    ReadyRequest s c r rest → r.kind = 0x30 → r.handle ≤ 1023 →
    s.points.find r.handle = some p → (p.key = 0 ∨ r.key = p.key.toNat) → p.state ≠ .retiring →
    s.stations.find p.station = some st → st.state = .present → 0 < st.capacity →
    p.pendingCmd = none → IsLowestFree s.slots 32 k → clientSlots s c < 16 →
    exec (.sendCommand c) s = .next ({ s with
      points := s.points.put r.handle { p with pendingCmd := some k }
      slots := s.slots.put k {
        state := .queued
        client := c
        hostTag := r.w0.extractLsb' 16 16
        point := r.handle
        station := p.station
        value := r.w2
        tag := none
        abort := none
        timeout := none
        deadline := none
        result := none
        code := 0 }
      cmdQueues := s.cmdQueues.modify st.link (fun q => q ++ [k])
      links := s.links.modify st.link (fun x =>
        if x.activity = Activity.gap ∧ x.burst < x.config.burstLimit.toNat ∧
            (s.tagSet p.station).rows.length < st.capacity then
          { x with activity := .deciding }
        else x) }.answered c r rest 0 (place 0 16 k) 0 0)

/-- R62 to R65: the refusals of the binding requests, first refusal first; another client's binding is as
FREE to UNBIND and RESUME. R113, R119: POINT_BUSY and NO_SLOT of SEND_COMMAND, and the refusals of
ABORT_COMMAND. -/
def Obligations.BindingAndCommandRefusals : Prop :=
  (∀ (s : State) (c : ClientId) (r : Request) (rest : List Request), ReadyRequest s c r rest →
     (r.kind = 0x20 →
       let good := r.handle ≤ 1023 ∧ fieldOf r.w2 0 4 = 0 ∧ fieldOf r.w1 16 8 ≤ 2 ∧ r.key ≤ 15
       (¬good → exec (.bind c) s = .next (s.answered c r rest 2 0 0 0)) ∧
       (good → s.points.find r.handle = none →
         exec (.bind c) s = .next (s.answered c r rest 3 0 0 0)) ∧
       ∀ p, good → s.points.find r.handle = some p →
         (p.state = .retiring → exec (.bind c) s = .next (s.answered c r rest 7 0 0 0)) ∧
         (p.state ≠ .retiring → 8 ≤ p.bindings.length →
           exec (.bind c) s = .next (s.answered c r rest 10 0 0 0)) ∧
         (p.state ≠ .retiring → p.bindings.length < 8 →
           (∀ b, b < 2048 → s.bindings.find b ≠ none) →
           exec (.bind c) s = .next (s.answered c r rest 5 0 0 0))) ∧
     (∀ i, (r.kind, i) ∈ [(0x21, Instr.unbind c), (0x22, .resume c), (0x23, .queryBinding c)] →
       (2047 < r.handle → exec i s = .next (s.answered c r rest 2 0 0 0)) ∧
       (r.handle ≤ 2047 → s.bindings.find r.handle = none →
         exec i s = .next (s.answered c r rest 3 0 0 0)) ∧
       ∀ b, r.handle ≤ 2047 → s.bindings.find r.handle = some b →
         (r.kind ≠ 0x23 → b.client ≠ c → exec i s = .next (s.answered c r rest 3 0 0 0)) ∧
         (r.kind = 0x21 → b.client = c → (b.state = .closing ∨ b.state = .detaching) →
           exec i s = .next (s.answered c r rest 7 0 0 0)) ∧
         (r.kind = 0x22 → b.client = c → b.state ≠ .suspended →
           exec i s = .next (s.answered c r rest 7 0 0 0)))) ∧
  ∀ (s : State) (c : ClientId) (r : Request) (rest : List Request), ReadyRequest s c r rest →
    (∀ p st, r.kind = 0x30 → r.handle ≤ 1023 → s.points.find r.handle = some p →
      (p.key = 0 ∨ r.key = p.key.toNat) → p.state ≠ .retiring →
      s.stations.find p.station = some st → st.state = .present → 0 < st.capacity →
      (p.pendingCmd ≠ none → exec (.sendCommand c) s = .next (s.answered c r rest 8 0 0 0)) ∧
      (p.pendingCmd = none → (16 ≤ clientSlots s c ∨ ∀ k, k < 32 → s.slots.find k ≠ none) →
        exec (.sendCommand c) s = .next (s.answered c r rest 11 0 0 0))) ∧
    (r.kind = 0x31 →
      (31 < r.handle → exec (.abortCommand c) s = .next (s.answered c r rest 2 0 0 0)) ∧
      (r.handle ≤ 31 → (∀ k, s.slots.find r.handle = some k → k.client ≠ c) →
        exec (.abortCommand c) s = .next (s.answered c r rest 3 0 0 0)) ∧
      (∀ k, r.handle ≤ 31 → s.slots.find r.handle = some k → k.client = c → k.state = .done →
        exec (.abortCommand c) s = .next (s.answered c r rest 7 0 0 0)))

/-- R119, R112: an ABORT_COMMAND that is not refused ends a QUEUED slot ABORTED, out of its queue; marks a
SENT one abort-pending ABORTED; ends an ACCEPTED one ABORTED with its tag abandoned. An ended slot joins
its owner's done list, sets COMMAND_DONE and is no longer its point's pending command. -/
def Obligations.AbortCommandEndsOrMarksTheSlot : Prop :=
  ∀ (s : State) (c : ClientId) (r : Request) (rest : List Request) (k : Slot),
    ReadyRequest s c r rest → r.kind = 0x31 → r.handle ≤ 31 →
    s.slots.find r.handle = some k → k.client = c →
    let ended := fun (p : Point) => ({ s with
      slots := s.slots.put r.handle { k with
        state := .done
        tag := none
        abort := none
        deadline := none
        result := some .aborted
        code := 0 }
      points := s.points.put k.point { p with pendingCmd := none }
      doneLists := s.doneLists.modify c (fun d => d ++ [r.handle])
      clients := s.clients.modify c (fun w =>
        { w with sticky := { w.sticky with commandDone := true } }) } : State)
    (∀ p, k.state = .queued → k.tag = none → s.points.find k.point = some p → p.state ≠ .retiring →
      exec (.abortCommand c) s = .next ({ ended p with
        cmdQueues := s.cmdQueues.map (fun q => q.filter (fun x => x != r.handle)) }.answered
          c r rest 0 (place 0 8 4) 0 0)) ∧
    (k.state = .sent → exec (.abortCommand c) s = .next ({ s with
      slots := s.slots.put r.handle { k with abort := some .aborted } }.answered
        c r rest 0 (place 0 8 2) 0 0)) ∧
    (∀ p g, k.state = .accepted → k.tag = some g → s.points.find k.point = some p →
      p.state ≠ .retiring →
      exec (.abortCommand c) s = .next ({ ended p with
        tagSets := s.tagSets.put k.station ((s.tagSet k.station).put g .abandoned) }.answered
          c r rest 0 (place 0 8 4) 0 0))

/-- R120: COLLECT is refused EMPTY when the client's done list is empty; otherwise the slot at its head
leaves the list, becomes FREE, and is answered with result, station code, point, slot and host tag. -/
def Obligations.CollectTakesTheOldestDoneSlot : Prop :=
  ∀ (s : State) (c : ClientId) (r : Request) (rest : List Request), ReadyRequest s c r rest →
    r.kind = 0x32 →
    (s.doneList c = [] → exec (.collect c) s = .next (s.answered c r rest 12 0 0 0)) ∧
    ∀ h more k, s.doneList c = h :: more → s.slots.find h = some k →
      exec (.collect c) s = .next ({ s with
        slots := s.slots.drop h
        doneLists := s.doneLists.set c more }.answered c r rest 0
          (place 0 16 k.point ||| place 16 8 h)
          (place 0 8 (match k.result with
              | none => 0
              | some .completedOk => 1
              | some .completedFail => 2
              | some .refused => 3
              | some .noResponse => 4
              | some .timedOut => 5
              | some .aborted => 6
              | some .retired => 7
              | some .stationLost => 8
              | some .stationRestarted => 9
              | some .linkDown => 10) |||
            place 8 8 k.code.toNat ||| place 16 16 k.hostTag.toNat) 0)

/-- R115, R112, Table 6-4: the end of a COMMAND exchange for the slot sent: ACCEPTED with its completion
deadline at an accepting ACK with no abort pending; DONE in every other cell, with the result, the
station code and the tag freed or abandoned as the table gives. R25, Table 1-8: a RETIRING point without
bindings becomes FREE when its command ends; any other point only has no pending command any more. -/
def Obligations.CommandAnswerTable : Prop :=
  ∀ (s : State) (h g : Nat) (r : Slot) (p : Point) (st : Station) (o : ExchangeOutcome),
    s.slots.find h = some r → r.state = .sent → r.tag = some g →
    s.points.find r.point = some p → s.stations.find r.station = some st →
    (s.link st.link).activity ≠ .gap →
    let set := s.tagSet r.station
    let gone := p.state = .retiring ∧ p.bindings = []
    let done := fun (result : CommandResult) (code : Byte) => ({ s with
      slots := s.slots.put h { r with
        state := .done
        tag := none
        abort := none
        deadline := none
        result := some result
        code := code }
      points :=
        if gone then s.points.drop r.point else s.points.put r.point { p with pendingCmd := none }
      stations :=
        if gone then s.stations.modify p.station (fun q =>
          { q with chain := q.chain.filter (fun x => x != r.point) })
        else s.stations
      doneLists := s.doneLists.modify r.client (fun d => d ++ [h])
      clients := s.clients.modify r.client (fun w =>
        { w with sticky := { w.sticky with commandDone := true } }) } : State)
    let abandoned := s.tagSets.put r.station (set.put g .abandoned)
    let freed :=
      if (set.drop g).rows = [] then s.tagSets.drop r.station
      else s.tagSets.put r.station (set.drop g)
    let noReply := o = .silent ∨ ∃ f, o = .damaged f
    (∀ timeout, r.abort = none → o = .answered (.ack 0) → r.timeout = some timeout →
      commandAnswer h o s = { s with slots := s.slots.put h { r with
        state := .accepted
        deadline := some ⟨s.now, timeout.toNat * 100⟩ } }) ∧
    (∀ code, r.abort = none → o = .answered (.ack code) → code ≠ 0 →
      commandAnswer h o s = { done .refused code with tagSets := freed }) ∧
    (r.abort = none → noReply →
      commandAnswer h o s = { done .noResponse 0 with tagSets := abandoned }) ∧
    ∀ result : CommandResult,
      (r.abort = some .aborted ∧ result = .aborted) ∨
        (r.abort = some .retired ∧ result = .retired) →
      (o = .answered (.ack 0) ∨ noReply →
        commandAnswer h o s = { done result 0 with tagSets := abandoned }) ∧
      (∀ code, o = .answered (.ack code) → code ≠ 0 →
        commandAnswer h o s = { done result code with tagSets := freed })

/-- R117, Table 6-5: one completion of a REPORT, against the tag it names. -/
def Obligations.CompletionTable : Prop :=
  ∀ (s : State) (sid : Nat) (l : LinkId) (st : Station) (x : Completion),
    s.stations.find sid = some st → (s.link st.link).activity ≠ .gap →
    let set := s.tagSet sid
    let freed :=
      if (set.drop x.tag.toNat).rows = [] then s.tagSets.drop sid
      else s.tagSets.put sid (set.drop x.tag.toNat)
    (set.find x.tag.toNat = none →
      takeCompletion sid l s x =
        s.modifyLink l (fun k => { k with status := k.status ||| 0x040#11 })) ∧
    (set.find x.tag.toNat = some .abandoned →
      takeCompletion sid l s x = { s with
        tagSets := freed
        links := s.links.modify l (fun k => { k with status := k.status ||| 0x080#11 }) }) ∧
    ∀ h r p, set.find x.tag.toNat = some (.held h) → s.slots.find h = some r →
      r.state = .accepted → r.station = sid → r.tag = some x.tag.toNat →
      s.points.find r.point = some p → p.state ≠ .retiring →
      takeCompletion sid l s x = { s with
        tagSets := freed
        slots := s.slots.put h { r with
          state := .done
          tag := none
          abort := none
          deadline := none
          result := some (if x.result = 0 then .completedOk else .completedFail)
          code := x.result }
        points := s.points.put r.point { p with pendingCmd := none }
        doneLists := s.doneLists.modify r.client (fun d => d ++ [h])
        clients := s.clients.modify r.client (fun w =>
          { w with sticky := { w.sticky with commandDone := true } }) }

/-- R121, R112: at a departure of a station, by silence or restart, or by link disable (R122), its QUEUED and
ACCEPTED slots end with the departure's result in ascending slot handle order, each in the done list of
its own client with COMMAND_DONE set, out of the command queues and no longer the pending command of its
point; every tag of the station is free. Nothing else changes. The station is not PRESENT any more, so
that its effective capacity is 0 (R2), and none of the slots is of a RETIRING point (R26). -/
def Obligations.StationCommandsEndAtADeparture : Prop :=
  ∀ (s : State) (sid : Nat) (st : Station) (result : CommandResult),
    s.stations.find sid = some st → st.capacity = 0 →
    let ending := (List.range 32).filter (fun h =>
      match s.slots.find h with
      | some r => r.station == sid && (r.state == .queued || r.state == .accepted)
      | none => false)
    (∀ h r p, h ∈ ending → s.slots.find h = some r → s.points.find r.point = some p →
      p.state ≠ .retiring) →
    let t := endStationCommands sid result s
    (∀ h r, s.slots.find h = some r → h ∈ ending → t.slots.find h = some { r with
      state := .done
      tag := none
      abort := none
      deadline := none
      result := some result
      code := 0 }) ∧
    (∀ h, h ∉ ending → t.slots.find h = s.slots.find h) ∧
    t.tagSets.find sid = none ∧
    (∀ k, k ≠ sid → t.tagSets.find k = s.tagSets.find k) ∧
    (∀ l, t.cmdQueue l = (s.cmdQueue l).filter (fun h => decide (h ∉ ending))) ∧
    (∀ c, t.doneList c = s.doneList c ++ ending.filter (fun h =>
      match s.slots.find h with
      | some r => r.client == c
      | none => false)) ∧
    (∀ c, (∃ h r, h ∈ ending ∧ s.slots.find h = some r ∧ r.client = c) →
      t.client c = { s.client c with sticky := { (s.client c).sticky with commandDone := true } }) ∧
    (∀ c, (∀ h r, h ∈ ending → s.slots.find h = some r → r.client ≠ c) →
      t.client c = s.client c) ∧
    (∀ h r p, h ∈ ending → s.slots.find h = some r → s.points.find r.point = some p →
      t.points.find r.point = some { p with pendingCmd := none }) ∧
    (∀ k, (∀ h r, h ∈ ending → s.slots.find h = some r → r.point ≠ k) →
      t.points.find k = s.points.find k) ∧
    t.stations = s.stations ∧ t.links = s.links ∧ t.bindings = s.bindings ∧
    t.mirrorQueue = s.mirrorQueue ∧ t.pollLists = s.pollLists ∧ t.mwm = s.mwm ∧ t.now = s.now ∧
    t.pending = s.pending ∧ t.resetN = s.resetN ∧ t.readData = s.readData ∧ t.bgnt = s.bgnt

/-! ## Links -/

/-- R101: LINK_ENABLE of a DISABLED link with a divisor starts the first round: counters 0, SILENT stations
of the poll list JOINING with miss count 0 and no stale cause, the round position at the head of the
list and a decision point, or IDLE with the list empty; with divisor 0 it sets CONFIG_ERROR; on a
RUNNING link nothing changes. That the decision stays open for its start is the model's choice (log 2). -/
def Obligations.LinkEnableStartsTheFirstRound : Prop :=
  ∀ (s : State) (l : LinkId), s.resetN = true →
    let rejoined := (s.pollList l).foldl (fun t sid => t.modify sid (fun st =>
      if st.state = .silent then { st with state := .joining, miss := 0, staleCause := none }
      else st)) s.stations
    ((s.link l).activity ≠ .disabled → exec (.linkEnable l) s = .next s) ∧
    ((s.link l).activity = .disabled → (s.link l).config.divisor = 0 →
      exec (.linkEnable l) s =
        .next (settle (s.modifyLink l (fun k => { k with status := k.status ||| 0x400#11 })))) ∧
    ((s.link l).activity = .disabled → (s.link l).config.divisor ≠ 0 → s.pollList l = [] →
      exec (.linkEnable l) s = .next (s.modifyLink l (fun k => { k with
        activity := .idle
        roundPos := none
        roundCounter := 0
        burst := 0
        pollGap := .stopped }))) ∧
    (∀ h more st, (s.link l).activity = .disabled → (s.link l).config.divisor ≠ 0 →
      s.pollList l = h :: more → s.stations.find h = some st → st.state ≠ .leaving →
      exec (.linkEnable l) s = .next ({ s with stations := rejoined }.modifyLink l (fun k => { k with
        activity := .deciding
        roundPos := some h
        roundCounter := 0
        burst := 0
        pollGap := .stopped })))

/-- R102, R85, R122, R40, R8: LINK_DISABLE of a RUNNING link makes it DISABLED, holding no exchange
state; the slot of a COMMAND exchange that is cut and every QUEUED or ACCEPTED slot of its JOINING and
PRESENT stations end LINK_DOWN; those stations become SILENT with LINK_OFF, miss count unchanged and
every tag free; their LIVE points become STALE with LINK_OFF, and the ACTIVE bindings of those points are
queued, the stations in poll list order. SILENT stations are unchanged (their point chains by the laws of
commands and tags, since no command of theirs can end) and LEAVING ones become FREE. No status flag and
no configuration changes. A DISABLED link is left unchanged. -/
def Obligations.LinkDisableTakesTheLinkOff : Prop :=
  ∀ (s : State) (l : LinkId), s.resetN = true →
    ((s.link l).activity = .disabled → exec (.linkDisable l) s = .next s) ∧
    ((s.link l).activity ≠ .disabled → DirectoryLaw s →
      ∃ t, exec (.linkDisable l) s = .next t ∧
        t.link l = { s.link l with
          activity := .disabled
          pollGap := .stopped
          roundPos := none
          inCharacter := false } ∧
        t.pollLists = s.pollLists ∧ t.mwm = s.mwm ∧ t.now = s.now ∧ t.bindings = s.bindings ∧
        t.mirrorQueue = askedFor s.mirrorQueue ((s.pollList l).flatMap (fun sid =>
          match s.stations.find sid with
          | none => []
          | some st =>
            if st.state = .joining ∨ st.state = .present then s.agedBindings st.chain else [])) ∧
        (∀ h r, (s.link l).sentSlot = some h → s.slots.find h = some r →
          t.slots.find h = some { r with
            state := .done
            tag := none
            abort := none
            deadline := none
            result := some .linkDown
            code := 0 }) ∧
        (∀ sid st, s.stations.find sid = some st → st.link = l →
          ((st.state = .joining ∨ st.state = .present) →
            (∃ st', t.stations.find sid = some st' ∧ st'.state = .silent ∧
              st'.staleCause = some .linkOff ∧ st'.capacity = 0 ∧ st'.miss = st.miss ∧
              st'.typeCode = st.typeCode) ∧
            t.tagSets.find sid = none ∧
            (∀ h r, h < 32 → s.slots.find h = some r → r.station = sid →
              (r.state = .queued ∨ r.state = .accepted) →
              t.slots.find h = some { r with
                state := .done
                tag := none
                abort := none
                deadline := none
                result := some .linkDown
                code := 0 }) ∧
            ∀ h p, s.points.find h = some p → p.station = sid → p.state = .live →
              p.forced = none → ∃ p', t.points.find h = some p' ∧ p'.state = .stale ∧ p'.stale = some .linkOff ∧
                p'.run = 0 ∧ p'.deadline = none ∧ p'.value = p.value ∧ p'.quality = p.quality) ∧
          (st.state = .silent →
            (∃ st', t.stations.find sid = some st' ∧ st' = { st with chain := st'.chain }) ∧
            (CommandLaw s → TagLaw s → t.stations.find sid = some st)) ∧
          (st.state = .leaving → t.stations.find sid = none)))

/-- R90, R93, R94, R77: at an open decision point where no command is chosen and no poll gap runs, the
visit goes to the first due station from the round position on: POLL to a PRESENT one, IDENT_REQ to a
JOINING or SILENT one; the position moves to the station that follows, the burst counter becomes 0, and
the frame and the settings are fixed. SILENT stations are due only with round counter 0. -/
def Obligations.VisitStartsAtTheFirstDueStation : Prop :=
  ∀ (s : State) (l : LinkId) (before skipped after : List Nat) (sid : Nat) (st : Station),
    s.resetN = true → (s.link l).activity = .deciding → (s.link l).pollGap = .stopped →
    ((s.link l).config.burstLimit.toNat ≤ (s.link l).burst ∨
      ∀ h ∈ s.cmdQueue l, s.eligible h = false) →
    s.pollList l = before ++ (skipped ++ sid :: after) → (s.pollList l).Nodup →
    (s.link l).roundPos = (skipped ++ sid :: after).head? →
    s.stations.find sid = some st →
    let due := fun (x : Station) => x.state = .joining ∨ x.state = .present ∨
      (x.state = .silent ∧ (s.link l).roundCounter = 0)
    due st → (∀ x ∈ skipped, ∀ st', s.stations.find x = some st' → ¬due st') →
    let kind : Byte := if st.state = .present then 0x10 else 0x11
    let sum := crc [st.address, 1, kind]
    exec (.visitStart l) s = .next (s.modifyLink l (fun k => { k with
      activity := .sending {
        kind := if st.state = .present then .poll else .identReq
        station := sid
        address := st.address
        frame := [st.address, 1, kind, sum.extractLsb' 8 8, sum.extractLsb' 0 8]
        divisor := k.config.divisor
        responseTimeout := k.config.responseTimeout
        missLimit := k.config.missLimit }
      roundPos := after.head?
      burst := 0
      inCharacter := false }))

/-- R93, R94, R111, R114, R77, R167: at an open decision point with the burst counter below its limit, the
oldest eligible slot of the link's queue, one whose station's tags in use number less than its
effective capacity, leaves the queue, takes the lowest free tag and the completion timeout and is SENT,
its COMMAND frame fixed with tag, point number and value; the burst counter rises by one and the round
position stays. -/
def Obligations.CommandExchangeTakesTheOldestEligibleSlot : Prop :=
  ∀ (s : State) (l : LinkId) (before after : List Nat) (h g : Nat) (r : Slot) (st : Station) (p : Point),
    s.resetN = true → (s.link l).activity = .deciding →
    (s.link l).burst < (s.link l).config.burstLimit.toNat →
    s.cmdQueue l = before ++ h :: after →
    (∀ x ∈ before, ∀ q qt, s.slots.find x = some q → s.stations.find q.station = some qt →
      q.state = .queued → qt.capacity ≤ (s.tagSet q.station).rows.length) →
    s.slots.find h = some r → r.state = .queued →
    s.stations.find r.station = some st → (s.tagSet r.station).rows.length < st.capacity →
    s.points.find r.point = some p → IsLowestFree (s.tagSet r.station) 16 g →
    let body : List Byte := [st.address, 7, 0x12, BitVec.ofNat 8 g, p.number,
      r.value.extractLsb' 24 8, r.value.extractLsb' 16 8, r.value.extractLsb' 8 8,
      r.value.extractLsb' 0 8]
    exec (.commandExchangeStart l) s = .next { s with
      cmdQueues := s.cmdQueues.map (fun q => q.filter (fun x => x != h))
      tagSets := s.tagSets.put r.station ((s.tagSet r.station).put g (.held h))
      slots := s.slots.put h { r with
        state := .sent
        tag := some g
        timeout := some (s.link l).config.completionTimeout }
      links := s.links.modify l (fun k => { k with
        activity := .sending {
          kind := .command h g
          station := r.station
          address := st.address
          frame := body ++ [(crc body).extractLsb' 8 8, (crc body).extractLsb' 0 8]
          divisor := k.config.divisor
          responseTimeout := k.config.responseTimeout
          missLimit := k.config.missLimit }
        burst := k.burst + 1
        inCharacter := false }) }

/-- R69, R77: while SENDING, a link asserts TXEN and drives the characters of its frame on TXD, each as a
start bit of 0, the eight data bits with the least significant first, a mark bit that is 1 on the address
character only, and a stop bit of 1; otherwise TXEN is deasserted and TXD held at 1. R77, R79, R71, R82:
FRAME_SENT enters AWAITING with the response deadline of the exchange's timeout; a recognized start bit
meets it and enters RECEIVING with a fresh receiver, or stops the gap deadline in RECEIVING; in IDLE, GAP
and QUIET, and at an open decision point, it starts a character that will be discarded; a false start
changes nothing, unless the response deadline has passed meanwhile; while SENDING or DISABLED, and within
a character, RXD is ignored. Deadlines are lengths in periods of REFCLK (log 4). That FRAME_SENT outside
SENDING changes nothing is the model's choice (log 3); the two facts a start bit carries, and that one
recognized acts so whatever the other says, are its reading (log 12). The pins are views, and the frame
is sent as one step (log 19). -/
def Obligations.FrameSentAndStartBits : Prop :=
  (∀ k : Link,
    (∀ x, k.activity = .sending x →
      k.txen = true ∧ k.txd.length = 11 * x.frame.length ∧
      ∀ (i : Nat) (b : Byte), x.frame[i]? = some b →
        k.txd[11 * i]? = some false ∧
        (∀ j, j < 8 → k.txd[11 * i + 1 + j]? = some (b.getLsbD j)) ∧
        k.txd[11 * i + 9]? = some (i == 0) ∧
        k.txd[11 * i + 10]? = some true) ∧
    ((∀ x, k.activity ≠ .sending x) → k.txen = false ∧ k.txd = [true])) ∧
  ∀ (s : State) (l : LinkId), s.resetN = true →
    (∀ x, (s.link l).activity = .sending x →
      exec (.frameSent l) s = .next (s.modifyLink l (fun k =>
        { k with activity := .awaiting x (x.responseTimeout.toNat * 2400) })) ∧
      ∀ a b, exec (.startBitDetected l a b) s = .next s) ∧
    ((∀ x, (s.link l).activity ≠ .sending x) → exec (.frameSent l) s = .next s) ∧
    ((s.link l).inCharacter = true ∨ (s.link l).activity = .disabled →
      ∀ a b, exec (.startBitDetected l a b) s = .next s) ∧
    ((s.link l).inCharacter = false →
      (∀ x d, (s.link l).activity = .awaiting x d →
        (∀ b, exec (.startBitDetected l true b) s = .next (s.modifyLink l (fun k => { k with
          activity := .receiving x {
            count := 0
            expected := none
            bytes := []
            crc := 0xFFFF
            fault := none
            gap := none }
          inCharacter := true }))) ∧
        exec (.startBitDetected l false false) s = .next s ∧
        exec (.startBitDetected l false true) s = exec (.responseDeadlineExpiry l) s) ∧
      ((s.link l).activity = .idle ∨ (s.link l).activity = .gap ∨ (s.link l).activity = .deciding ∨
        (∃ d, (s.link l).activity = .quiet d) → ∀ b,
        exec (.startBitDetected l true b) s =
          .next (s.modifyLink l (fun k => { k with inCharacter := true })) ∧
        exec (.startBitDetected l false b) s = .next s) ∧
      (∀ x rx, (s.link l).activity = .receiving x rx → ∀ b,
        exec (.startBitDetected l true b) s = .next (s.modifyLink l (fun k => { k with
          activity := .receiving x { rx with gap := none }
          inCharacter := true })) ∧
        exec (.startBitDetected l false b) s = .next s))

/-- R80, R82, R71: a character that completes in RECEIVING and does not close the frame is counted and
starts the gap deadline of 4 character times; with a fault pending nothing more is checked; its first
failing check, if any, is the pending fault; otherwise its byte is kept and, before the CRC characters,
added to the CRC. One that completes in AWAITING is the first of the reply, taken by a fresh receiver (the
model's reading, log 11). Outside AWAITING and RECEIVING a character is discarded. -/
def Obligations.CharactersAreCheckedAndCounted : Prop :=
  (∀ (s : State) (l : LinkId) (x : Exchange) (rx : Receiver) (data : Byte) (mark stop : Bool),
    s.resetN = true →
    ((s.link l).activity = .receiving x rx ∨
      ∃ d, (s.link l).activity = .awaiting x d ∧ rx = Receiver.fresh) →
    let n := rx.count + 1
    let found := if stop = false ∨ mark ≠ (n == 1) then some RxFault.frame
      else fieldCheck x.address rx.bytes n data
    let next : Receiver :=
      if rx.fault.isSome = true ∨ found.isSome = true then
        { rx with
          count := n
          fault := if rx.fault.isSome = true then rx.fault else found
          gap := some (4 * (176 * x.divisor.toNat)) }
      else
        { count := n
          expected := if n = 2 then some (data.toNat + 4) else rx.expected
          bytes := rx.bytes ++ [data]
          crc := match rx.expected with
            | none => crcByte rx.crc data
            | some m => if n + 2 ≤ m then crcByte rx.crc data else rx.crc
          fault := none
          gap := some (4 * (176 * x.divisor.toNat)) }
    (next.fault.isSome = true → n ≠ 64 →
      exec (.characterReceived l data mark stop) s = .next (s.modifyLink l (fun k =>
        { k with activity := .receiving x next, inCharacter := false }))) ∧
    (next.fault = none → next.expected ≠ some n →
      exec (.characterReceived l data mark stop) s = .next (s.modifyLink l (fun k =>
        { k with activity := .receiving x next, inCharacter := false })))) ∧
  ∀ (s : State) (l : LinkId) (data : Byte) (mark stop : Bool), s.resetN = true →
    ((s.link l).activity = .idle ∨ (s.link l).activity = .gap ∨ (s.link l).activity = .deciding ∨
      (∃ d, (s.link l).activity = .quiet d) →
      exec (.characterReceived l data mark stop) s =
        .next (s.modifyLink l (fun k => { k with inCharacter := false }))) ∧
    ((s.link l).activity = .disabled ∨ (∃ x, (s.link l).activity = .sending x) →
      exec (.characterReceived l data mark stop) s = .next s)

/-- R80, R81, Tables 4-4 and 4-5: which field check each character position has, and that LENGTH_ERROR or
ADDRESS_MISMATCH is found exactly when it fails; every other position has none. R82: with a fault pending
a character closes the frame only as the 64th, and the frame ends DAMAGED with that fault. R73, R83: the
check value of the CRC; and a frame at its expected length with no fault pending ends DAMAGED with
CRC_ERROR if its CRC characters differ from the running CRC, else with KIND_MISMATCH if its kind is not
the expected one or the ACK's tag not the tag sent, else ANSWERED. R75, R76, R86: what the answer
delivers: RESTARTED, entries and completions of a REPORT, each from its characters; type code and capacity
of an IDENT; the code of an ACK. -/
def Obligations.FrameChecksByPositionAndAtTheEnd : Prop :=
  (∀ (address data : Byte) (bs : List Byte),
     (fieldCheck address bs 1 data = if data = address then none else some .address) ∧
     (fieldCheck address bs 2 data =
       if 1 ≤ data.toNat ∧ data.toNat ≤ 60 then none else some .length) ∧
     (∀ a len : Byte, bs = [a, len] →
       (data = 0x10 ∨ data = 0x11 → (fieldCheck address bs 3 data = none ↔ len.toNat = 1)) ∧
       (data = 0x12 → (fieldCheck address bs 3 data = none ↔ len.toNat = 7)) ∧
       (data = 0x20 → (fieldCheck address bs 3 data = none ↔ 4 ≤ len.toNat ∧ len.toNat ≤ 60)) ∧
       (data = 0x21 → (fieldCheck address bs 3 data = none ↔ len.toNat = 5)) ∧
       (data = 0x22 → (fieldCheck address bs 3 data = none ↔ len.toNat = 3)) ∧
       (data ∉ [0x10#8, 0x11#8, 0x12#8, 0x20#8, 0x21#8, 0x22#8] →
         fieldCheck address bs 3 data = none) ∧
       ∀ f, fieldCheck address bs 3 data = some f → f = .length) ∧
     (∀ (a len kind : Byte) (more : List Byte) (n : Nat), bs = a :: len :: kind :: more → 4 ≤ n →
       (kind = 0x20 → n = 5 →
         (fieldCheck address bs n data = none ↔
           data.toNat ≤ 8 ∧ 4 + 6 * data.toNat ≤ len.toNat)) ∧
       (∀ e : Byte, kind = 0x20 → more[1]? = some e → n = 6 + 6 * e.toNat →
         (fieldCheck address bs n data = none ↔
           data.toNat ≤ 4 ∧ len.toNat = 4 + 6 * e.toNat + 2 * data.toNat)) ∧
       (kind = 0x20 → n = 4 → fieldCheck address bs n data = none) ∧
       (∀ e : Byte, kind = 0x20 → more[1]? = some e → 6 ≤ n → n ≠ 6 + 6 * e.toNat →
         fieldCheck address bs n data = none) ∧
       (kind = 0x21 → n ≠ 6 → fieldCheck address bs n data = none) ∧
       (kind = 0x21 → n = 6 → (fieldCheck address bs n data = none ↔ data.toNat ≤ 4)) ∧
       (kind ≠ 0x20 → kind ≠ 0x21 → fieldCheck address bs n data = none) ∧
       ∀ f, fieldCheck address bs n data = some f → f = .length)) ∧
  crc [0x31, 0x32, 0x33, 0x34, 0x35, 0x36, 0x37, 0x38, 0x39] = 0x29B1 ∧
  (∀ (k : ExchangeKind) (rx : Receiver) (f : RxFault), rx.fault = some f →
    rx.closure k = if rx.count = 64 then some (.damaged f) else none) ∧
  (∀ (k : ExchangeKind) (rx : Receiver), rx.fault = none → rx.expected ≠ some rx.count →
    rx.closure k = none) ∧
  ∀ (k : ExchangeKind) (rx : Receiver) (body : List Byte) (high low : Byte) (kind : Byte),
    rx.fault = none → rx.bytes = body ++ [high, low] → rx.count = body.length + 2 →
    rx.expected = some rx.count → body[2]? = some kind →
    let expected : Byte := match k with
      | .poll => 0x20
      | .identReq => 0x21
      | .command _ _ => 0x22
    (high ++ low ≠ rx.crc → rx.closure k = some (.damaged .crc)) ∧
    (high ++ low = rx.crc → kind ≠ expected → rx.closure k = some (.damaged .kind)) ∧
    (∀ h g, k = .command h g → high ++ low = rx.crc → kind = 0x22 →
      ∀ tag code : Byte, body[3]? = some tag → body[4]? = some code →
        (tag.toNat ≠ g → rx.closure k = some (.damaged .kind)) ∧
        (tag.toNat = g → rx.closure k = some (.answered (.ack code)))) ∧
    (∀ (a b cap : Byte), k = .identReq → high ++ low = rx.crc → kind = 0x21 →
      body[3]? = some a → body[4]? = some b → body[5]? = some cap →
      rx.closure k = some (.answered (.ident (a ++ b) cap.toNat))) ∧
    (∀ flags e c : Byte, k = .poll → high ++ low = rx.crc → kind = 0x20 →
      body[3]? = some flags → body[4]? = some e → body[5 + 6 * e.toNat]? = some c →
      body.length = 6 + 6 * e.toNat + 2 * c.toNat →
      ∃ entries completions,
        rx.closure k = some (.answered (.report (flags.getLsbD 0) entries completions)) ∧
        entries.length = e.toNat ∧ completions.length = c.toNat ∧
        (∀ (i : Nat) (number status v3 v2 v1 v0 : Byte), i < e.toNat →
          body[5 + 6 * i]? = some number → body[6 + 6 * i]? = some status →
          body[7 + 6 * i]? = some v3 → body[8 + 6 * i]? = some v2 →
          body[9 + 6 * i]? = some v1 → body[10 + 6 * i]? = some v0 →
          entries[i]? = some ⟨number, status != 0, v3 ++ v2 ++ v1 ++ v0⟩) ∧
        ∀ (j : Nat) (tag result : Byte), j < c.toNat →
          body[6 + 6 * e.toNat + 2 * j]? = some tag →
          body[7 + 6 * e.toNat + 2 * j]? = some result →
          completions[j]? = some ⟨tag, result⟩)

/-- R84, R89, R95 to R99: an exchange that ends ANSWERED acts at the station, and the link enters QUIET
for two character times. A LEAVING station becomes FREE. An IDENT brings the station to PRESENT; a REPORT
without RESTARTED clears the miss count and delivers its entries, then its completions; a REPORT with
RESTARTED makes the station JOINING and ends its commands STATION_RESTARTED; an ACK is taken by the slot
sent, and then clears the miss count. The character that closes a reply in AWAITING is read as log 11
says. -/
def Obligations.AnsweredExchangeActsAtTheStation : Prop :=
  ∀ (s u : State) (l : LinkId) (x : Exchange) (i : Instr) (reply : Reply) (st : Station),
    s.resetN = true → ExchangeEnds s l x i (.answered reply) u →
    s.stations.find x.station = some st →
    (st.state = .leaving →
      exec i s = .next ({ u with
        stations := s.stations.drop x.station
        tagSets := s.tagSets.drop x.station }.quieted l x)) ∧
    (∀ type cap, st.state ≠ .leaving → x.kind = .identReq → reply = .ident type cap →
      exec i s = .next (({ u with
        stations := s.stations.put x.station { st with
          typeCode := some type
          miss := 0
          state := .present
          capacity := min cap st.limit
          staleCause := none } }.modifyLink l (fun k =>
            { k with status := k.status ||| 0x200#11 })).quieted l x)) ∧
    (∀ es cs, st.state ≠ .leaving → x.kind = .poll → reply = .report false es cs →
      exec i s = .next ((takeCompletions x.station l cs (takeEntries x.station es
        { u with stations := s.stations.put x.station { st with miss := 0 } })).quieted l x)) ∧
    (∀ es cs, st.state ≠ .leaving → x.kind = .poll → reply = .report true es cs →
      exec i s = .next ((endStationCommands x.station .stationRestarted { u with
        stations := s.stations.put x.station { st with
          state := .joining
          miss := 0
          capacity := 0
          staleCause := none } }).quieted l x)) ∧
    ∀ h g code, st.state ≠ .leaving → x.kind = .command h g → reply = .ack code →
      exec i s = .next (((commandAnswer h (.answered (.ack code)) u).modifyStation x.station
        (fun q => { q with miss := 0 })).quieted l x)

/-- R79, R82 to R84, R95, R99, R100: an exchange that ends SILENT sets NO_RESPONSE, and one that ends
DAMAGED, by the gap deadline or by a character, sets the flag of its fault. The slot of a COMMAND
exchange takes the outcome first. Either counts one miss up to the limit fixed at the start; at the limit
a JOINING or PRESENT station becomes SILENT with STATION_SILENT, its commands end STATION_LOST and its
points age; at a LEAVING station the outcome is ignored and it becomes FREE. The link enters QUIET for
two character times. -/
def Obligations.MissesAreCountedToTheLimit : Prop :=
  ∀ (s u : State) (l : LinkId) (x : Exchange) (i : Instr) (o : ExchangeOutcome) (flag : BitVec 11)
    (st : Station),
    s.resetN = true → ExchangeEnds s l x i o u → s.stations.find x.station = some st →
    (o = .silent ∧ flag = 0x020#11) ∨
      (∃ f, o = .damaged f ∧ flag = match f with
        | .frame => 0x001#11
        | .crc => 0x002#11
        | .length => 0x004#11
        | .address => 0x008#11
        | .kind => 0x010#11) →
    let limit := x.missLimit.toNat
    let miss := min (st.miss + 1) limit
    let heard := u.modifyLink l (fun k => { k with status := k.status ||| flag })
    let told := match x.kind with
      | .command h _ => commandAnswer h o heard
      | .poll => heard
      | .identReq => heard
    (st.state = .leaving → exec i s = .next ({ heard with
      stations := s.stations.drop x.station
      tagSets := s.tagSets.drop x.station }.quieted l x)) ∧
    (st.state ≠ .leaving → (miss ≠ limit ∨ st.state = .silent) →
      exec i s = .next ((told.modifyStation x.station (fun q =>
        { q with miss := miss })).quieted l x)) ∧
    (miss = limit → (st.state = .joining ∨ st.state = .present) →
      exec i s = .next ((agePoints x.station .silent (endStationCommands x.station .stationLost
        ((told.modifyStation x.station (fun q => { q with
          miss := miss
          state := .silent
          capacity := 0
          staleCause := some .silent })).modifyLink l (fun k =>
            { k with status := k.status ||| 0x100#11 })))).quieted l x))

/-- R35, R40, R45, R54, Table 2-6: a station's silence reaches the points of its chain: a LIVE one
becomes STALE with the station's cause, run 0 and deadline stopped, value and quality kept; a FORCED one
with underlying LIVE changes so underneath; every other point, of this chain or not, is unchanged. Every
ACTIVE binding of the LIVE points is queued, in chain order of the points and within each in the order of
its binding chain, keeping its place if it is in the queue; none is for a point in any other state.
Nothing else changes. -/
def Obligations.SilenceReachesThePoints : Prop :=
  ∀ (s : State) (sid : Nat) (st : Station) (cause : StaleCause),
    s.stations.find sid = some st → st.chain.Nodup →
    let t := agePoints sid cause s
    (∀ h, h ∉ st.chain → t.points.find h = s.points.find h) ∧
    (∀ h p, h ∈ st.chain → s.points.find h = some p →
      (p.state = .live → p.forced = none → t.points.find h = some { p with
        state := .stale
        stale := some cause
        run := 0
        deadline := none }) ∧
      (∀ f, p.state = .forced → p.forced = some f →
        t.points.find h = some (if f.under.state = .live then
          { p with
            forced := some { f with under :=
              { f.under with state := .stale, stale := some cause } }
            run := 0
            deadline := none }
          else p)) ∧
      (p.state = .awaiting ∨ p.state = .stale ∨ p.state = .retiring →
        t.points.find h = some p)) ∧
    t.mirrorQueue = askedFor s.mirrorQueue (s.agedBindings st.chain) ∧
    t = { s with points := t.points, mirrorQueue := t.mirrorQueue }

/-- R89, R91, R93: what follows at the end of QUIET and at the expiry of the poll gap. A poll gap deadline
that expires during an exchange or QUIET waits for the next decision point, where it starts a round, as
its expiry in GAP does: from the head of the list, or to IDLE with the list empty. A command that is
ready, or else a due station, leaves the decision open for its start (log 2); with neither the round
ends: the counter rises, the poll gap starts, the link is in GAP; a gap still running keeps the link in
GAP. With a poll gap of 0 the next round begins at the same decision point: a JOINING or PRESENT station,
or at counter 0 a SILENT one, is due in it; rounds in which none is due pass, and with only SILENT
stations the counter stops at 0. That a poll gap deadline not due changes nothing is the model's inference
(log 14). -/
def Obligations.DecisionPointsFollowTheArbiter : Prop :=
  ∀ (s : State) (l : LinkId), s.resetN = true →
    let k := s.link l
    let ready := k.burst < k.config.burstLimit.toNat ∧ ∃ h ∈ s.cmdQueue l, s.eligible h = true
    let isDue := fun (counter : BitVec 3) (h : Nat) => ∃ st, s.stations.find h = some st ∧
      (st.state = .joining ∨ st.state = .present ∨ (st.state = .silent ∧ counter = 0))
    let due := ∃ h ∈ fromPosition (s.pollList l) k.roundPos, isDue k.roundCounter h
    let dueInList := ∃ h ∈ s.pollList l, isDue k.roundCounter h
    let dueNext := ∃ h ∈ s.pollList l, isDue (k.roundCounter + 1) h
    let allSilent := ∀ h ∈ s.pollList l, ∃ st, s.stations.find h = some st ∧ st.state = .silent
    let deciding := fun (h : Nat) (counter : BitVec 3) (x : Link) => ({ x with
      activity := .deciding
      pollGap := .stopped
      roundPos := some h
      roundCounter := counter } : Link)
    let waiting := fun (x : Link) => ({ x with
      activity := .gap
      roundPos := none
      roundCounter := x.roundCounter + 1
      pollGap := .running ⟨s.now, x.config.pollGap.toNat⟩ } : Link)
    let roundStarts := fun (i : Instr) =>
      (s.pollList l = [] → exec i s = .next (s.modifyLink l (fun x =>
        { x with pollGap := .stopped, roundPos := none, activity := .idle }))) ∧
      ∀ h more, s.pollList l = h :: more →
        (ready ∨ dueInList →
          exec i s = .next (s.modifyLink l (deciding h k.roundCounter))) ∧
        (¬ready → ¬dueInList → k.config.pollGap ≠ 0 → exec i s = .next (s.modifyLink l waiting)) ∧
        (¬ready → allSilent → k.roundCounter ≠ 0 → k.config.pollGap = 0 →
          exec i s = .next (s.modifyLink l (deciding h 0)))
    (∀ d, k.activity = .quiet d →
      (∀ g, k.pollGap = .running g → exec (.quietDeadlineExpiry l) s = .next (s.modifyLink l
        (fun x => { x with activity := if ready then Activity.deciding else Activity.gap }))) ∧
      (k.pollGap = .stopped → (ready ∨ due) → exec (.quietDeadlineExpiry l) s =
        .next (s.modifyLink l (fun x => { x with activity := .deciding }))) ∧
      (k.pollGap = .stopped → ¬ready → ¬due → k.config.pollGap ≠ 0 →
        exec (.quietDeadlineExpiry l) s = .next (s.modifyLink l waiting)) ∧
      (k.pollGap = .stopped → ¬ready → ¬due → k.config.pollGap = 0 →
        (s.pollList l = [] → exec (.quietDeadlineExpiry l) s = .next (s.modifyLink l (fun x =>
          { x with
            activity := .idle
            roundPos := none
            roundCounter := x.roundCounter + 1 }))) ∧
        ∀ h more, s.pollList l = h :: more →
          (dueNext → exec (.quietDeadlineExpiry l) s =
            .next (s.modifyLink l (deciding h (k.roundCounter + 1)))) ∧
          (allSilent → exec (.quietDeadlineExpiry l) s =
            .next (s.modifyLink l (deciding h 0)))) ∧
      (k.pollGap = .expired → roundStarts (.quietDeadlineExpiry l))) ∧
    (∀ g, k.pollGap = .running g → g.due s.now = true →
      (k.activity.busy = true → exec (.pollGapDeadlineExpiry l) s =
        .next (s.modifyLink l (fun x => { x with pollGap := .expired }))) ∧
      (k.activity = .gap ∨ k.activity = .deciding → roundStarts (.pollGapDeadlineExpiry l))) ∧
    (∀ g, k.pollGap = .running g → g.due s.now = false →
      exec (.pollGapDeadlineExpiry l) s = .next s)

/-! ## The local bus -/

/-- R56 to R58, R126, R128, R129, R154, R165: in IDLE a PENDING message starts first, the clients in
round-robin order after the last served, with its configuration as it stands; otherwise the binding at
the head of the queue: it leaves the queue, is in flight, its sequence rises by one, its record is
built from its point, and the write is marked final for a CLOSING binding. Table 11-4: the four words of
a mirror record, from the point's own fields, or from the forced value in FORCED. R130, R165: the write
driven, its words at ascending addresses, each word little-endian (of a message too, log 21). That the
choice is made at the start's own row is the model's (log 2), as is that a row whose start is not the
choice changes nothing (log 3), and the order of two arrivals brought by one command (log 24). -/
def Obligations.TransactionsStartInTheArbitersOrder : Prop :=
  (∀ s : State, s.resetN = true → s.mwm.phase = .idle →
     let wants := fun (c : ClientId) =>
       (s.client c).msgState = .pending ∧ (s.client c).msgInFlight = false
     (∀ (n : Fin 4), wants (s.mwm.lastClient + 1 + n) →
       (∀ m : Fin 4, m < n → ¬wants (s.mwm.lastClient + 1 + m)) →
       let c := s.mwm.lastClient + 1 + n
       exec .mirrorWriteStart s = .next s ∧
       exec .messageWriteStart s = .next { s with
         clients := s.clients.modify c (fun k => { k with msgInFlight := true })
         mwm := { s.mwm with
           lastClient := c
           phase := .request {
             owner := .message c
             address := (s.client c).msgAddr
             key := (s.client c).msgKey
             kind := .write
             data := [(s.client c).msgData]
             timeout := 12000
             ignored := false } } }) ∧
     ((∀ c, ¬wants c) → exec .messageWriteStart s = .next s) ∧
     (∀ b more r p, (∀ c, ¬wants c) → s.mirrorQueue = b :: more → b ∉ more →
       s.bindings.find b = some r → s.points.find r.point = some p →
       exec .mirrorWriteStart s = .next { s with
         mirrorQueue := more
         bindings := s.bindings.put b { r with inFlight := true, sequence := r.sequence + 1 }
         mwm := { s.mwm with
           phase := .request {
             owner := .mirror b (r.state == .closing)
             address := r.address
             key := r.key
             kind := if s.mwm.lineSize = .l16 then .writeLine else .write
             data := mirrorRecord r.point p (r.sequence + 1)
             timeout := 12000
             ignored := false } } }) ∧
     ((∀ c, ¬wants c) → s.mirrorQueue = [] → exec .mirrorWriteStart s = .next s)) ∧
  (∀ (h : Nat) (p : Point) (sequence : BitVec 16),
     let stale := fun (x : Option StaleCause) => match x with
       | none => 0
       | some .expired => 1
       | some .silent => 2
       | some .linkOff => 3
     let time := place 23 1 (if p.lastReport.isSome then 1 else 0)
     let counts := place 0 16 p.reportCount.toNat ||| place 16 16 sequence.toNat
     (p.forced = none → mirrorRecord h p sequence =
       [place 0 16 h |||
         place 16 3 (match p.state with
           | .awaiting => 1
           | .live => 2
           | .stale => 3
           | .forced => 4
           | .retiring => 5) |||
         place 19 1 (match p.quality with
           | .good => 0
           | .bad => 1) |||
         place 20 2 (stale p.stale) ||| place 22 1 (if p.value.isSome then 1 else 0) ||| time,
         p.value.getD 0, counts, p.lastReport.getD 0]) ∧
     (∀ f, p.forced = some f → mirrorRecord h p sequence =
       [place 0 16 h ||| place 16 3 4 ||| place 22 1 1 ||| time, f.value, counts,
         p.lastReport.getD 0])) ∧
  ∀ (s : State) (t : Transaction), s.mwm.phase = .drive t ∨ s.mwm.phase = .accepted t →
    s.busDriven = some (t.address, t.key, t.kind, t.data) ∧
    s.bytesDriven.length = 4 * t.data.length ∧
    ∀ (i : Nat) (w : Word), t.data[i]? = some w → ∀ j : Fin 4,
      s.bytesDriven[4 * i + j.val]? =
        some (t.address + BitVec.ofNat 32 (4 * i + j.val), w.extractLsb' (8 * j.val) 8)

/-- R130 to R132: a grant is an edge of BGNT_N while BREQ_N is asserted and enters DRIVE; an accept is
taken in DRIVE only; an end status is recognized in ACCEPTED, or together with the accept in DRIVE, and
nowhere else; there, and at the timeout in any phase of a transaction, the MWM enters IDLE, BREQ_N is
deasserted and the bus is released. BGNT_N's level is followed whatever the phase. R131 ignores an accept
in IDLE and in REQUEST; that one in ACCEPTED and a timeout in IDLE change nothing is the model's choice
(log 3). -/
def Obligations.GrantAcceptAndRecognition : Prop :=
  ∀ s : State,
    (s.bgnt = true → exec .busGrant s = .next s) ∧
    (∀ t, s.bgnt = false → s.mwm.phase = .request t → exec .busGrant s =
      .next { s with bgnt := true, mwm := { s.mwm with phase := .drive t } }) ∧
    (s.bgnt = false → (∀ t, s.mwm.phase ≠ .request t) →
      exec .busGrant s = .next { s with bgnt := true }) ∧
    exec .bgntNDeasserted s = .next { s with bgnt := false } ∧
    (s.resetN = true →
      (∀ t, s.mwm.phase = .drive t →
        exec .busAccept s = .next { s with mwm := { s.mwm with phase := .accepted t } } ∧
        ∀ e, exec (.busEndStatus false e) s = .next s) ∧
      ((∀ t, s.mwm.phase ≠ .drive t) → exec .busAccept s = .next s) ∧
      (∀ t, s.mwm.phase = .accepted t → ∀ a e, ∃ u, exec (.busEndStatus a e) s = .next u ∧
        u.mwm = { s.mwm with phase := .idle } ∧ u.breqAsserted = false ∧ u.busDriven = none) ∧
      (∀ t, s.mwm.phase = .drive t → ∀ e, ∃ u, exec (.busEndStatus true e) s = .next u ∧
        u.mwm = { s.mwm with phase := .idle } ∧ u.breqAsserted = false ∧ u.busDriven = none) ∧
      (∀ t, s.mwm.phase.transaction = some t → ∃ u, exec .busTimeout s = .next u ∧
        u.mwm = { s.mwm with phase := .idle } ∧ u.breqAsserted = false ∧ u.busDriven = none) ∧
      ((s.mwm.phase = .idle ∨ ∃ t, s.mwm.phase = .request t) →
        ∀ a e, exec (.busEndStatus a e) s = .next s) ∧
      (s.mwm.phase = .idle → exec .busTimeout s = .next s))

/-- R59, R60, R131 to R133, R135: the recognized end of a mirror write, or its timeout: the MWM is IDLE
and the binding's in-flight flag clear. An ACTIVE binding stays at OK, and at an error is SUSPENDED with
the end status as fault, out of the queue, with MIRROR_FAULT set for its client; a CLOSING binding is
FREE after its final write or any error; a DETACHING one is FREE; a CLOSING one after an ordinary OK
write stays. A RETIRING point without command is FREE with its last binding. With the outcome-ignored
mark of a soft reset's drain nothing is handed on, of a mirror write or of a message. R154: at the end of
a message write the in-flight mark is cleared; an ignored outcome leaves ARMED, OK leaves SENT, an error
leaves FAILED with MESSAGE_FAULT. -/
def Obligations.MirrorAndMessageWritesEnd : Prop :=
  (∀ (s : State) (t : Transaction) (b : Nat) (final : Bool) (i : Instr) (e : Option WriteError),
     s.resetN = true → t.owner = .mirror b final →
     ((∃ a x, s.mwm.phase = .accepted t ∧ i = .busEndStatus a x ∧ e = endError x) ∨
       (∃ x, s.mwm.phase = .drive t ∧ i = .busEndStatus true x ∧ e = endError x) ∨
       (s.mwm.phase.transaction = some t ∧ i = .busTimeout ∧ e = some .timeout)) →
     let idle : State := { s with mwm := { s.mwm with phase := .idle } }
     (t.ignored = true → exec i s = .next idle) ∧
     ∀ r p, t.ignored = false → s.bindings.find b = some r → s.points.find r.point = some p →
       let freed : State := { idle with
         mirrorQueue := s.mirrorQueue.filter (fun x => x != b)
         bindings := s.bindings.drop b
         points := s.points.put r.point
           { p with bindings := p.bindings.filter (fun x => x != b) } }
       (r.state = .active → e = none → exec i s = .next (settle { idle with
         bindings := s.bindings.put b { r with inFlight := false } })) ∧
       (∀ x, r.state = .active → e = some x → exec i s = .next (settle { idle with
         mirrorQueue := s.mirrorQueue.filter (fun y => y != b)
         bindings := s.bindings.put b
           { r with inFlight := false, state := .suspended, fault := some x }
         clients := s.clients.modify r.client (fun k =>
           { k with sticky := { k.sticky with mirrorFault := true } }) })) ∧
       (r.state = .closing → final = false → e = none → exec i s = .next (settle { idle with
         bindings := s.bindings.put b { r with inFlight := false } })) ∧
       ((r.state = .closing ∧ (final = true ∨ e ≠ none)) ∨ r.state = .detaching →
         (p.state ≠ .retiring ∨ p.pendingCmd ≠ none ∨ p.bindings.filter (fun x => x != b) ≠ []) →
         exec i s = .next (settle freed)) ∧
       ((r.state = .closing ∧ (final = true ∨ e ≠ none)) ∨ r.state = .detaching →
         p.state = .retiring → p.pendingCmd = none → p.bindings.filter (fun x => x != b) = [] →
         exec i s = .next (settle { freed with
           points := s.points.drop r.point
           stations := s.stations.modify p.station (fun st =>
             { st with chain := st.chain.filter (fun x => x != r.point) }) }))) ∧
  ∀ (s : State) (t : Transaction) (c : ClientId) (i : Instr) (e : Option WriteError),
    s.resetN = true → t.owner = .message c →
    ((∃ a x, s.mwm.phase = .accepted t ∧ i = .busEndStatus a x ∧ e = endError x) ∨
      (∃ x, s.mwm.phase = .drive t ∧ i = .busEndStatus true x ∧ e = endError x) ∨
      (s.mwm.phase.transaction = some t ∧ i = .busTimeout ∧ e = some .timeout)) →
    let idle : State := { s with mwm := { s.mwm with phase := .idle } }
    (t.ignored = true → exec i s = .next idle) ∧
    (t.ignored = false → (s.client c).msgIgnored = true → exec i s = .next (settle (idle.modifyClient c (fun k =>
      { k with msgInFlight := false, msgIgnored := false, msgState := .armed })))) ∧
    (t.ignored = false → (s.client c).msgIgnored = false → e = none → exec i s = .next (settle (idle.modifyClient c
      (fun k => { k with msgInFlight := false, msgState := .sent })))) ∧
    (t.ignored = false → (s.client c).msgIgnored = false → e ≠ none → exec i s = .next (settle (idle.modifyClient c
      (fun k => { k with
        msgInFlight := false
        msgState := .failed
        sticky := { k.sticky with messageFault := true } }))))

/-! ## Laws of the device -/

/-- The laws hold right after reset. -/
def Obligations.LawsHoldAtReset : Prop :=
  PointsLawful State.reset ∧ MirrorLaw State.reset ∧ WindowLaw State.reset ∧
    MessagesSettled State.reset ∧ LinksLawful State.reset ∧ TablesLaw State.reset ∧
    DirectoryLaw State.reset ∧ BindingChainLaw State.reset ∧ CommandLaw State.reset ∧
    TagLaw State.reset

/-- R29, R36, R39, R42: every step keeps the laws of the point records. -/
def Obligations.StepKeepsPointsLawful : Prop :=
  ∀ s t : State, PointsLawful s → step s = .next t → PointsLawful t

/-- R50, R53: every step keeps the laws of the bindings and of the Mirror Update Queue. -/
def Obligations.StepKeepsMirrorLaw : Prop :=
  ∀ s t : State, MirrorLaw s → step s = .next t → MirrorLaw t

/-- R125, R139, R140, R148, R156: every step keeps the laws of the Client Windows. And whenever a client
has a ready request, some client has one whose turn it is, so that the bound of R140 never holds all of
them. -/
def Obligations.StepKeepsWindowLaw : Prop :=
  (∀ s t : State, WindowLaw s → step s = .next t → WindowLaw t) ∧
  ∀ s : State, WindowLaw s → (∃ c, (s.client c).ready = true) →
    ∃ c, (s.client c).ready = true ∧ s.mayTake c = true

/-- R153: every step keeps that in MESSAGE mode no client is ARMED while one of its causes is raised. -/
def Obligations.StepKeepsMessagesSettled : Prop :=
  ∀ s t : State, MessagesSettled s → step s = .next t → MessagesSettled t

/-- R78 to R94, R103: every step keeps the laws of the links. -/
def Obligations.StepKeepsLinksLawful : Prop :=
  ∀ s t : State, LinksLawful s → step s = .next t → LinksLawful t

/-- R1, R10, R49, R107, R109, R161: every step keeps the tables canonical and within their sizes, and so the
OCCUPANCY counts of stations, points, bindings and slots within theirs. -/
def Obligations.StepKeepsTablesLaw : Prop :=
  (∀ s t : State, TablesLaw s → step s = .next t → TablesLaw t) ∧
  ∀ s : State, TablesLaw s →
    occupancy s 0 ≤ 256 ∧ occupancy s 1 ≤ 1024 ∧ occupancy s 2 ≤ 2048 ∧ occupancy s 3 ≤ 32

/-- R2, R3, R4, R12, R92: every step keeps the laws of stations, poll lists, round positions and point
chains. -/
def Obligations.StepKeepsDirectoryLaw : Prop :=
  ∀ s t : State, DirectoryLaw s → step s = .next t → DirectoryLaw t

/-- R26, R51: every step keeps the laws of the binding chains. -/
def Obligations.StepKeepsBindingChainLaw : Prop :=
  ∀ s t : State, BindingChainLaw s → step s = .next t → BindingChainLaw t

/-- R108 to R112: every step keeps the laws of command slots, queues and done lists. -/
def Obligations.StepKeepsCommandLaw : Prop :=
  ∀ s t : State, CommandLaw s → step s = .next t → CommandLaw t

/-- R26, R95, R110, R111: from a state that keeps the laws of the tables, of the directory and of the command
slots, every step keeps the law of tags, exchanges and command queues. The law of the tables bounds the
handles: a departure ends the commands of the slots 0-31 (R107), and there are no others. -/
def Obligations.StepKeepsTagLaw : Prop :=
  ∀ s t : State, TablesLaw s → DirectoryLaw s → CommandLaw s → TagLaw s → step s = .next t → TagLaw t
end

