-- ==== Sys2Proof/Laws/Tables.lean ====
section
/-! SUPPORT. The laws of tables and quads: read after write, canonical form, the lowest FREE handle, and
what a row of a changed table can be. -/

namespace Sys2Proof.Machine

variable {α β : Type}

/-! ## Rows -/

theorem findRow_putRow_same (rows : List (Nat × α)) (h : Nat) (a : α) :
    findRow (putRow rows h a) h = some a := by
  induction rows with
  | nil => simp [putRow, findRow]
  | cons r rows ih =>
    obtain ⟨k, v⟩ := r
    simp only [putRow]
    split
    · simp [findRow]
    · split
      · simp [findRow]
      · rename_i h1 h2
        simp only [findRow]
        rw [if_neg (fun e => h2 e.symm), ih]

theorem findRow_putRow_ne (rows : List (Nat × α)) {h k : Nat} (a : α) (hk : k ≠ h) :
    findRow (putRow rows h a) k = findRow rows k := by
  induction rows with
  | nil => simp [putRow, findRow, hk.symm]
  | cons r rows ih =>
    obtain ⟨k', v⟩ := r
    simp only [putRow]
    split
    · simp [findRow, hk.symm]
    · split
      · rename_i h2
        subst h2
        simp [findRow, hk.symm]
      · simp only [findRow, ih]

theorem findRow_mem {rows : List (Nat × α)} {h : Nat} {a : α} (hf : findRow rows h = some a) :
    (h, a) ∈ rows := by
  induction rows with
  | nil => simp [findRow] at hf
  | cons r rows ih =>
    obtain ⟨k, v⟩ := r
    simp only [findRow] at hf
    split at hf
    · rename_i hk
      subst hk
      simp_all
    · exact List.mem_cons_of_mem _ (ih hf)

theorem mem_putRow {rows : List (Nat × α)} {h : Nat} {a : α} {r : Nat × α}
    (hr : r ∈ putRow rows h a) : r = (h, a) ∨ r ∈ rows := by
  induction rows with
  | nil => simpa [putRow] using hr
  | cons x rows ih =>
    obtain ⟨k, v⟩ := x
    simp only [putRow] at hr
    split at hr
    · simpa using hr
    · split at hr
      · rcases List.mem_cons.mp hr with h1 | h1
        · exact .inl h1
        · exact .inr (List.mem_cons_of_mem _ h1)
      · rcases List.mem_cons.mp hr with h1 | h1
        · exact .inr (h1 ▸ List.mem_cons_self ..)
        · exact (ih h1).imp id (List.mem_cons_of_mem _)

theorem findRow_filter_ne (rows : List (Nat × α)) {h k : Nat} (hk : k ≠ h) :
    findRow (rows.filter (fun r => r.1 != h)) k = findRow rows k := by
  induction rows with
  | nil => rfl
  | cons x rows ih =>
    obtain ⟨k', v⟩ := x
    by_cases hx : k' = h
    · subst hx
      simp [findRow, hk.symm, ih]
    · simp [hx, findRow, ih]

theorem findRow_filter_same (rows : List (Nat × α)) (h : Nat) :
    findRow (rows.filter (fun r => r.1 != h)) h = none := by
  induction rows with
  | nil => rfl
  | cons x rows ih =>
    obtain ⟨k', v⟩ := x
    by_cases hx : k' = h
    · subst hx
      simp [ih]
    · simp [hx, findRow, ih]

/-! ## Tables -/

@[simp] theorem Table.find_put_same (t : Table α) (h : Nat) (a : α) :
    (t.put h a).find h = some a := findRow_putRow_same t.rows h a

theorem Table.find_put_ne (t : Table α) {h k : Nat} (a : α) (hk : k ≠ h) :
    (t.put h a).find k = t.find k := findRow_putRow_ne t.rows a hk

theorem Table.find_put (t : Table α) (h k : Nat) (a : α) :
    (t.put h a).find k = if k = h then some a else t.find k := by
  by_cases hk : k = h
  · subst hk; simp
  · rw [Table.find_put_ne t a hk, if_neg hk]

@[simp] theorem Table.find_drop_same (t : Table α) (h : Nat) : (t.drop h).find h = none :=
  findRow_filter_same t.rows h

theorem Table.find_drop_ne (t : Table α) {h k : Nat} (hk : k ≠ h) :
    (t.drop h).find k = t.find k := findRow_filter_ne t.rows hk

theorem Table.find_drop (t : Table α) (h k : Nat) :
    (t.drop h).find k = if k = h then none else t.find k := by
  by_cases hk : k = h
  · subst hk; simp
  · rw [Table.find_drop_ne t hk, if_neg hk]

theorem Table.find_modify (t : Table α) (h k : Nat) (f : α → α) :
    (t.modify h f).find k = if k = h then (t.find h).map f else t.find k := by
  unfold Table.modify
  cases hf : t.find h with
  | none =>
    by_cases hk : k = h
    · subst hk; simp [hf]
    · simp [hk]
  | some a => simp [Table.find_put]

@[simp] theorem Table.find_modify_same (t : Table α) (h : Nat) (f : α → α) :
    (t.modify h f).find h = (t.find h).map f := by simp [Table.find_modify]

theorem Table.find_modify_ne (t : Table α) {h k : Nat} (f : α → α) (hk : k ≠ h) :
    (t.modify h f).find k = t.find k := by simp [Table.find_modify, hk]

theorem Table.modify_none (t : Table α) {h : Nat} (f : α → α) (hf : t.find h = none) :
    t.modify h f = t := by simp [Table.modify, hf]

theorem Table.modify_some (t : Table α) {h : Nat} (f : α → α) {a : α} (hf : t.find h = some a) :
    t.modify h f = t.put h (f a) := by simp [Table.modify, hf]

theorem Table.mem_of_find {t : Table α} {h : Nat} {a : α} (hf : t.find h = some a) :
    (h, a) ∈ t.rows := findRow_mem hf

/-- Freeing a handle twice is freeing it once. -/
@[simp] theorem Table.drop_drop (t : Table α) (h : Nat) : (t.drop h).drop h = t.drop h := by
  simp [Table.drop]

/-- A free handle is dropped without effect. -/
theorem Table.drop_none (t : Table α) {h : Nat} (hf : t.find h = none) : t.drop h = t := by
  have : ∀ rows : List (Nat × α), findRow rows h = none →
      rows.filter (fun r => r.1 != h) = rows := by
    intro rows
    induction rows with
    | nil => intro _; rfl
    | cons x r ih =>
      intro hx
      obtain ⟨k, v⟩ := x
      simp only [findRow] at hx
      split at hx
      · cases hx
      · rename_i hk
        rw [List.filter_cons_of_pos (by simpa using hk), ih hx]
  obtain ⟨rows⟩ := t
  simp only [Table.drop, this rows hf]

/-- The last record written at a handle stands. -/
@[simp] theorem Table.put_put (t : Table α) (h : Nat) (a b : α) : (t.put h a).put h b = t.put h b := by
  have : ∀ rows : List (Nat × α), putRow (putRow rows h a) h b = putRow rows h b := by
    intro rows
    induction rows with
    | nil => simp [putRow]
    | cons x r ih =>
      obtain ⟨k, v⟩ := x
      simp only [putRow]
      by_cases h1 : h < k
      · simp [h1, putRow]
      · by_cases h2 : h = k
        · simp [h2, putRow]
        · simp [h1, h2, putRow, ih]
  simp only [Table.put, this]

/-- What a written record becomes when it is freed. -/
@[simp] theorem Table.drop_put (t : Table α) (h : Nat) (a : α) : (t.put h a).drop h = t.drop h := by
  have : ∀ rows : List (Nat × α),
      (putRow rows h a).filter (fun r => r.1 != h) = rows.filter (fun r => r.1 != h) := by
    intro rows
    induction rows with
    | nil => simp [putRow]
    | cons x r ih =>
      obtain ⟨k, v⟩ := x
      simp only [putRow]
      by_cases h1 : h < k
      · simp [h1]
      · by_cases h2 : h = k
        · simp [h2]
        · have h3 : k ≠ h := fun e => h2 e.symm
          simp [h1, h2, h3, ih]
  simp only [Table.put, Table.drop, this]

/-- Two updates of one record are one. -/
theorem Table.modify_modify (t : Table α) (h : Nat) (f g : α → α) :
    (t.modify h f).modify h g = t.modify h (fun a => g (f a)) := by
  cases hf : t.find h with
  | none => rw [Table.modify_none t f hf, Table.modify_none t g hf, Table.modify_none t _ hf]
  | some a =>
    rw [Table.modify_some t f hf, Table.modify_some _ g (Table.find_put_same t h (f a)),
      Table.put_put, Table.modify_some t _ hf]

/-! ## A property of every record -/

theorem Table.All.put {t : Table α} {P : Nat → α → Prop} (ht : t.All P) {h : Nat} {a : α}
    (ha : P h a) : (t.put h a).All P := by
  intro k b hb
  rw [Table.find_put] at hb
  split at hb
  · rename_i hk
    cases hb; subst hk; exact ha
  · exact ht k b hb

theorem Table.All.drop {t : Table α} {P : Nat → α → Prop} (ht : t.All P) (h : Nat) :
    (t.drop h).All P := by
  intro k b hb
  rw [Table.find_drop] at hb
  split at hb
  · cases hb
  · exact ht k b hb

theorem Table.All.modify {t : Table α} {P : Nat → α → Prop} (ht : t.All P) {h : Nat} {f : α → α}
    (hf : ∀ a, t.find h = some a → P h a → P h (f a)) : (t.modify h f).All P := by
  unfold Table.modify
  split
  · rename_i a ha
    exact ht.put (hf a ha (ht _ _ ha))
  · exact ht

theorem Table.All.mono {t : Table α} {P Q : Nat → α → Prop} (ht : t.All P)
    (h : ∀ k a, P k a → Q k a) : t.All Q := fun k a hf => h k a (ht k a hf)

theorem Table.All.empty (P : Nat → α → Prop) : (⟨[]⟩ : Table α).All P := by
  intro k a h; cases h

/-! ## Canonical form -/

theorem Table.Canonical.drop {t : Table α} (ht : t.Canonical) (h : Nat) : (t.drop h).Canonical :=
  List.Pairwise.filter _ ht

theorem putRow_pairwise {rows : List (Nat × α)} (hr : rows.Pairwise (fun a b => a.1 < b.1)) (h : Nat)
    (a : α) : (putRow rows h a).Pairwise (fun a b => a.1 < b.1) := by
  induction rows with
  | nil => simp [putRow]
  | cons x rows ih =>
    obtain ⟨k, v⟩ := x
    have h1 := (List.pairwise_cons.mp hr).1
    have h2 := (List.pairwise_cons.mp hr).2
    simp only [putRow]
    split
    · rename_i hk
      refine List.pairwise_cons.mpr ⟨?_, hr⟩
      intro b hb
      rcases List.mem_cons.mp hb with rfl | hb
      · exact hk
      · exact Nat.lt_trans hk (h1 b hb)
    · split
      · rename_i hk
        subst hk
        exact List.pairwise_cons.mpr ⟨h1, h2⟩
      · rename_i hlt hne
        refine List.pairwise_cons.mpr ⟨?_, ih h2⟩
        intro b hb
        rcases mem_putRow hb with rfl | hb
        · show k < h
          omega
        · exact h1 b hb

theorem Table.Canonical.put {t : Table α} (ht : t.Canonical) (h : Nat) (a : α) :
    (t.put h a).Canonical := putRow_pairwise ht h a

theorem Table.Canonical.modify {t : Table α} (ht : t.Canonical) (h : Nat) (f : α → α) :
    (t.modify h f).Canonical := by
  unfold Table.modify
  split
  · exact ht.put _ _
  · exact ht

theorem Table.canonical_empty : (⟨[]⟩ : Table α).Canonical := List.Pairwise.nil

/-! ## The lowest FREE handle -/

theorem Table.lowestFreeFrom_spec (t : Table α) :
    ∀ (n h k : Nat), t.lowestFreeFrom n h = some k →
      t.find k = none ∧ h ≤ k ∧ k < h + n ∧ ∀ j, h ≤ j → j < k → t.find j ≠ none := by
  intro n
  induction n with
  | zero => intro h k hk; simp [Table.lowestFreeFrom] at hk
  | succ n ih =>
    intro h k hk
    simp only [Table.lowestFreeFrom] at hk
    split at hk
    · rename_i hf
      cases hk
      refine ⟨by simpa using hf, Nat.le_refl _, by omega, ?_⟩
      intro j h1 h2; omega
    · rename_i hf
      obtain ⟨h1, h2, h3, h4⟩ := ih _ _ hk
      refine ⟨h1, by omega, by omega, ?_⟩
      intro j hj1 hj2
      by_cases hj : j = h
      · subst hj; simpa using hf
      · exact h4 j (by omega) hj2

theorem Table.lowestFreeFrom_none (t : Table α) :
    ∀ (n h : Nat), t.lowestFreeFrom n h = none → ∀ j, h ≤ j → j < h + n → t.find j ≠ none := by
  intro n
  induction n with
  | zero => intro h _ j h1 h2; omega
  | succ n ih =>
    intro h hk j h1 h2
    simp only [Table.lowestFreeFrom] at hk
    split at hk
    · cases hk
    · rename_i hf
      by_cases hj : j = h
      · subst hj; simpa using hf
      · exact ih _ hk j (by omega) (by omega)

/-- The lowest FREE handle is FREE, in range, and every lower one is in use. -/
theorem Table.lowestFree_spec {t : Table α} {n k : Nat} (hk : t.lowestFree n = some k) :
    t.find k = none ∧ k < n ∧ ∀ j, j < k → t.find j ≠ none := by
  obtain ⟨h1, _, h3, h4⟩ := Table.lowestFreeFrom_spec t n 0 k hk
  exact ⟨h1, by omega, fun j hj => h4 j (Nat.zero_le _) hj⟩

/-- With no FREE handle, every record is in use. -/
theorem Table.lowestFree_none {t : Table α} {n : Nat} (hk : t.lowestFree n = none) :
    ∀ j, j < n → t.find j ≠ none :=
  fun j hj => Table.lowestFreeFrom_none t n 0 hk j (Nat.zero_le _) (by omega)

/-- A FREE handle below which every handle is in use is the one allocated. -/
theorem Table.lowestFree_eq {t : Table α} {n k : Nat} (h1 : t.find k = none) (h2 : k < n)
    (h3 : ∀ j, j < k → t.find j ≠ none) : t.lowestFree n = some k := by
  cases hl : t.lowestFree n with
  | none => exact absurd h1 (Table.lowestFree_none hl k h2)
  | some m =>
    obtain ⟨g1, _, g3⟩ := Table.lowestFree_spec hl
    rcases Nat.lt_trichotomy k m with h | h | h
    · exact absurd h1 (g3 k h)
    · rw [h]
    · exact absurd g1 (h3 m h)

/-! ## Quads -/

@[simp] theorem Quad.get_set_same (q : Quad α) (i : Fin 4) (a : α) : (q.set i a).get i = a := by
  match i with
  | 0 => rfl
  | 1 => rfl
  | 2 => rfl
  | 3 => rfl

theorem Quad.get_set_ne (q : Quad α) {i j : Fin 4} (a : α) (h : j ≠ i) :
    (q.set i a).get j = q.get j := by
  match i, j, h with
  | 0, 0, h => exact absurd rfl h
  | 1, 1, h => exact absurd rfl h
  | 2, 2, h => exact absurd rfl h
  | 3, 3, h => exact absurd rfl h
  | 0, 1, _ => rfl
  | 0, 2, _ => rfl
  | 0, 3, _ => rfl
  | 1, 0, _ => rfl
  | 1, 2, _ => rfl
  | 1, 3, _ => rfl
  | 2, 0, _ => rfl
  | 2, 1, _ => rfl
  | 2, 3, _ => rfl
  | 3, 0, _ => rfl
  | 3, 1, _ => rfl
  | 3, 2, _ => rfl

theorem Quad.get_set (q : Quad α) (i j : Fin 4) (a : α) :
    (q.set i a).get j = if j = i then a else q.get j := by
  by_cases h : j = i
  · subst h; simp
  · rw [Quad.get_set_ne q a h, if_neg h]

@[simp] theorem Quad.get_modify_same (q : Quad α) (i : Fin 4) (f : α → α) :
    (q.modify i f).get i = f (q.get i) := by simp [Quad.modify]

theorem Quad.get_modify_ne (q : Quad α) {i j : Fin 4} (f : α → α) (h : j ≠ i) :
    (q.modify i f).get j = q.get j := Quad.get_set_ne q _ h

theorem Quad.get_modify (q : Quad α) (i j : Fin 4) (f : α → α) :
    (q.modify i f).get j = if j = i then f (q.get i) else q.get j := by
  simp [Quad.modify, Quad.get_set]

@[simp] theorem Quad.get_map (q : Quad α) (f : α → β) (i : Fin 4) : (q.map f).get i = f (q.get i) := by
  match i with
  | 0 => rfl
  | 1 => rfl
  | 2 => rfl
  | 3 => rfl

@[simp] theorem Quad.get_all (a : α) (i : Fin 4) : (Quad.all a).get i = a := by
  match i with
  | 0 => rfl
  | 1 => rfl
  | 2 => rfl
  | 3 => rfl

/-- Two quads with the same members are the same. -/
theorem Quad.ext_get {p q : Quad α} (h : ∀ i, p.get i = q.get i) : p = q := by
  obtain ⟨a, b, c, d⟩ := p
  obtain ⟨a', b', c', d'⟩ := q
  have h0 := h 0
  have h1 := h 1
  have h2 := h 2
  have h3 := h 3
  simp only [Quad.get] at h0 h1 h2 h3
  subst h0 h1 h2 h3
  rfl

theorem Quad.modify_modify (q : Quad α) (i : Fin 4) (f g : α → α) :
    (q.modify i f).modify i g = q.modify i (fun a => g (f a)) := by
  apply Quad.ext_get
  intro j
  by_cases h : j = i
  · subst h; simp
  · simp [Quad.get_modify, h]

end Sys2Proof.Machine
end

