-- ==== Sys2Proof/Laws/State.lean ====
section
/-! SUPPORT. One lemma per field of State for each named update: the field it changes and what it becomes,
and the fields it leaves alone. Generated by field; every proof is rfl. -/

namespace Sys2Proof.Machine

@[simp] theorem State.modifyLink_pending (s : State) (l : LinkId) (f : Link → Link) :
    (s.modifyLink l f).pending = s.pending := rfl

@[simp] theorem State.modifyLink_resetN (s : State) (l : LinkId) (f : Link → Link) :
    (s.modifyLink l f).resetN = s.resetN := rfl

@[simp] theorem State.modifyLink_now (s : State) (l : LinkId) (f : Link → Link) :
    (s.modifyLink l f).now = s.now := rfl

@[simp] theorem State.modifyLink_readData (s : State) (l : LinkId) (f : Link → Link) :
    (s.modifyLink l f).readData = s.readData := rfl

@[simp] theorem State.modifyLink_bgnt (s : State) (l : LinkId) (f : Link → Link) :
    (s.modifyLink l f).bgnt = s.bgnt := rfl

@[simp] theorem State.modifyLink_stations (s : State) (l : LinkId) (f : Link → Link) :
    (s.modifyLink l f).stations = s.stations := rfl

@[simp] theorem State.modifyLink_pollLists (s : State) (l : LinkId) (f : Link → Link) :
    (s.modifyLink l f).pollLists = s.pollLists := rfl

@[simp] theorem State.modifyLink_points (s : State) (l : LinkId) (f : Link → Link) :
    (s.modifyLink l f).points = s.points := rfl

@[simp] theorem State.modifyLink_bindings (s : State) (l : LinkId) (f : Link → Link) :
    (s.modifyLink l f).bindings = s.bindings := rfl

@[simp] theorem State.modifyLink_mirrorQueue (s : State) (l : LinkId) (f : Link → Link) :
    (s.modifyLink l f).mirrorQueue = s.mirrorQueue := rfl

@[simp] theorem State.modifyLink_slots (s : State) (l : LinkId) (f : Link → Link) :
    (s.modifyLink l f).slots = s.slots := rfl

@[simp] theorem State.modifyLink_cmdQueues (s : State) (l : LinkId) (f : Link → Link) :
    (s.modifyLink l f).cmdQueues = s.cmdQueues := rfl

@[simp] theorem State.modifyLink_tagSets (s : State) (l : LinkId) (f : Link → Link) :
    (s.modifyLink l f).tagSets = s.tagSets := rfl

@[simp] theorem State.modifyLink_doneLists (s : State) (l : LinkId) (f : Link → Link) :
    (s.modifyLink l f).doneLists = s.doneLists := rfl

@[simp] theorem State.modifyLink_links (s : State) (l : LinkId) (f : Link → Link) :
    (s.modifyLink l f).links = s.links.modify l f := rfl

@[simp] theorem State.modifyLink_mwm (s : State) (l : LinkId) (f : Link → Link) :
    (s.modifyLink l f).mwm = s.mwm := rfl

@[simp] theorem State.modifyLink_clients (s : State) (l : LinkId) (f : Link → Link) :
    (s.modifyLink l f).clients = s.clients := rfl

@[simp] theorem State.modifyClient_pending (s : State) (c : ClientId) (f : Client → Client) :
    (s.modifyClient c f).pending = s.pending := rfl

@[simp] theorem State.modifyClient_resetN (s : State) (c : ClientId) (f : Client → Client) :
    (s.modifyClient c f).resetN = s.resetN := rfl

@[simp] theorem State.modifyClient_now (s : State) (c : ClientId) (f : Client → Client) :
    (s.modifyClient c f).now = s.now := rfl

@[simp] theorem State.modifyClient_readData (s : State) (c : ClientId) (f : Client → Client) :
    (s.modifyClient c f).readData = s.readData := rfl

@[simp] theorem State.modifyClient_bgnt (s : State) (c : ClientId) (f : Client → Client) :
    (s.modifyClient c f).bgnt = s.bgnt := rfl

@[simp] theorem State.modifyClient_stations (s : State) (c : ClientId) (f : Client → Client) :
    (s.modifyClient c f).stations = s.stations := rfl

@[simp] theorem State.modifyClient_pollLists (s : State) (c : ClientId) (f : Client → Client) :
    (s.modifyClient c f).pollLists = s.pollLists := rfl

@[simp] theorem State.modifyClient_points (s : State) (c : ClientId) (f : Client → Client) :
    (s.modifyClient c f).points = s.points := rfl

@[simp] theorem State.modifyClient_bindings (s : State) (c : ClientId) (f : Client → Client) :
    (s.modifyClient c f).bindings = s.bindings := rfl

@[simp] theorem State.modifyClient_mirrorQueue (s : State) (c : ClientId) (f : Client → Client) :
    (s.modifyClient c f).mirrorQueue = s.mirrorQueue := rfl

@[simp] theorem State.modifyClient_slots (s : State) (c : ClientId) (f : Client → Client) :
    (s.modifyClient c f).slots = s.slots := rfl

@[simp] theorem State.modifyClient_cmdQueues (s : State) (c : ClientId) (f : Client → Client) :
    (s.modifyClient c f).cmdQueues = s.cmdQueues := rfl

@[simp] theorem State.modifyClient_tagSets (s : State) (c : ClientId) (f : Client → Client) :
    (s.modifyClient c f).tagSets = s.tagSets := rfl

@[simp] theorem State.modifyClient_doneLists (s : State) (c : ClientId) (f : Client → Client) :
    (s.modifyClient c f).doneLists = s.doneLists := rfl

@[simp] theorem State.modifyClient_links (s : State) (c : ClientId) (f : Client → Client) :
    (s.modifyClient c f).links = s.links := rfl

@[simp] theorem State.modifyClient_mwm (s : State) (c : ClientId) (f : Client → Client) :
    (s.modifyClient c f).mwm = s.mwm := rfl

@[simp] theorem State.modifyClient_clients (s : State) (c : ClientId) (f : Client → Client) :
    (s.modifyClient c f).clients = s.clients.modify c f := rfl

@[simp] theorem State.modifyStation_pending (s : State) (h : Nat) (f : Station → Station) :
    (s.modifyStation h f).pending = s.pending := rfl

@[simp] theorem State.modifyStation_resetN (s : State) (h : Nat) (f : Station → Station) :
    (s.modifyStation h f).resetN = s.resetN := rfl

@[simp] theorem State.modifyStation_now (s : State) (h : Nat) (f : Station → Station) :
    (s.modifyStation h f).now = s.now := rfl

@[simp] theorem State.modifyStation_readData (s : State) (h : Nat) (f : Station → Station) :
    (s.modifyStation h f).readData = s.readData := rfl

@[simp] theorem State.modifyStation_bgnt (s : State) (h : Nat) (f : Station → Station) :
    (s.modifyStation h f).bgnt = s.bgnt := rfl

@[simp] theorem State.modifyStation_stations (s : State) (h : Nat) (f : Station → Station) :
    (s.modifyStation h f).stations = s.stations.modify h f := rfl

@[simp] theorem State.modifyStation_pollLists (s : State) (h : Nat) (f : Station → Station) :
    (s.modifyStation h f).pollLists = s.pollLists := rfl

@[simp] theorem State.modifyStation_points (s : State) (h : Nat) (f : Station → Station) :
    (s.modifyStation h f).points = s.points := rfl

@[simp] theorem State.modifyStation_bindings (s : State) (h : Nat) (f : Station → Station) :
    (s.modifyStation h f).bindings = s.bindings := rfl

@[simp] theorem State.modifyStation_mirrorQueue (s : State) (h : Nat) (f : Station → Station) :
    (s.modifyStation h f).mirrorQueue = s.mirrorQueue := rfl

@[simp] theorem State.modifyStation_slots (s : State) (h : Nat) (f : Station → Station) :
    (s.modifyStation h f).slots = s.slots := rfl

@[simp] theorem State.modifyStation_cmdQueues (s : State) (h : Nat) (f : Station → Station) :
    (s.modifyStation h f).cmdQueues = s.cmdQueues := rfl

@[simp] theorem State.modifyStation_tagSets (s : State) (h : Nat) (f : Station → Station) :
    (s.modifyStation h f).tagSets = s.tagSets := rfl

@[simp] theorem State.modifyStation_doneLists (s : State) (h : Nat) (f : Station → Station) :
    (s.modifyStation h f).doneLists = s.doneLists := rfl

@[simp] theorem State.modifyStation_links (s : State) (h : Nat) (f : Station → Station) :
    (s.modifyStation h f).links = s.links := rfl

@[simp] theorem State.modifyStation_mwm (s : State) (h : Nat) (f : Station → Station) :
    (s.modifyStation h f).mwm = s.mwm := rfl

@[simp] theorem State.modifyStation_clients (s : State) (h : Nat) (f : Station → Station) :
    (s.modifyStation h f).clients = s.clients := rfl

@[simp] theorem State.modifyPoint_pending (s : State) (h : Nat) (f : Point → Point) :
    (s.modifyPoint h f).pending = s.pending := rfl

@[simp] theorem State.modifyPoint_resetN (s : State) (h : Nat) (f : Point → Point) :
    (s.modifyPoint h f).resetN = s.resetN := rfl

@[simp] theorem State.modifyPoint_now (s : State) (h : Nat) (f : Point → Point) :
    (s.modifyPoint h f).now = s.now := rfl

@[simp] theorem State.modifyPoint_readData (s : State) (h : Nat) (f : Point → Point) :
    (s.modifyPoint h f).readData = s.readData := rfl

@[simp] theorem State.modifyPoint_bgnt (s : State) (h : Nat) (f : Point → Point) :
    (s.modifyPoint h f).bgnt = s.bgnt := rfl

@[simp] theorem State.modifyPoint_stations (s : State) (h : Nat) (f : Point → Point) :
    (s.modifyPoint h f).stations = s.stations := rfl

@[simp] theorem State.modifyPoint_pollLists (s : State) (h : Nat) (f : Point → Point) :
    (s.modifyPoint h f).pollLists = s.pollLists := rfl

@[simp] theorem State.modifyPoint_points (s : State) (h : Nat) (f : Point → Point) :
    (s.modifyPoint h f).points = s.points.modify h f := rfl

@[simp] theorem State.modifyPoint_bindings (s : State) (h : Nat) (f : Point → Point) :
    (s.modifyPoint h f).bindings = s.bindings := rfl

@[simp] theorem State.modifyPoint_mirrorQueue (s : State) (h : Nat) (f : Point → Point) :
    (s.modifyPoint h f).mirrorQueue = s.mirrorQueue := rfl

@[simp] theorem State.modifyPoint_slots (s : State) (h : Nat) (f : Point → Point) :
    (s.modifyPoint h f).slots = s.slots := rfl

@[simp] theorem State.modifyPoint_cmdQueues (s : State) (h : Nat) (f : Point → Point) :
    (s.modifyPoint h f).cmdQueues = s.cmdQueues := rfl

@[simp] theorem State.modifyPoint_tagSets (s : State) (h : Nat) (f : Point → Point) :
    (s.modifyPoint h f).tagSets = s.tagSets := rfl

@[simp] theorem State.modifyPoint_doneLists (s : State) (h : Nat) (f : Point → Point) :
    (s.modifyPoint h f).doneLists = s.doneLists := rfl

@[simp] theorem State.modifyPoint_links (s : State) (h : Nat) (f : Point → Point) :
    (s.modifyPoint h f).links = s.links := rfl

@[simp] theorem State.modifyPoint_mwm (s : State) (h : Nat) (f : Point → Point) :
    (s.modifyPoint h f).mwm = s.mwm := rfl

@[simp] theorem State.modifyPoint_clients (s : State) (h : Nat) (f : Point → Point) :
    (s.modifyPoint h f).clients = s.clients := rfl

@[simp] theorem State.modifyBinding_pending (s : State) (h : Nat) (f : Binding → Binding) :
    (s.modifyBinding h f).pending = s.pending := rfl

@[simp] theorem State.modifyBinding_resetN (s : State) (h : Nat) (f : Binding → Binding) :
    (s.modifyBinding h f).resetN = s.resetN := rfl

@[simp] theorem State.modifyBinding_now (s : State) (h : Nat) (f : Binding → Binding) :
    (s.modifyBinding h f).now = s.now := rfl

@[simp] theorem State.modifyBinding_readData (s : State) (h : Nat) (f : Binding → Binding) :
    (s.modifyBinding h f).readData = s.readData := rfl

@[simp] theorem State.modifyBinding_bgnt (s : State) (h : Nat) (f : Binding → Binding) :
    (s.modifyBinding h f).bgnt = s.bgnt := rfl

@[simp] theorem State.modifyBinding_stations (s : State) (h : Nat) (f : Binding → Binding) :
    (s.modifyBinding h f).stations = s.stations := rfl

@[simp] theorem State.modifyBinding_pollLists (s : State) (h : Nat) (f : Binding → Binding) :
    (s.modifyBinding h f).pollLists = s.pollLists := rfl

@[simp] theorem State.modifyBinding_points (s : State) (h : Nat) (f : Binding → Binding) :
    (s.modifyBinding h f).points = s.points := rfl

@[simp] theorem State.modifyBinding_bindings (s : State) (h : Nat) (f : Binding → Binding) :
    (s.modifyBinding h f).bindings = s.bindings.modify h f := rfl

@[simp] theorem State.modifyBinding_mirrorQueue (s : State) (h : Nat) (f : Binding → Binding) :
    (s.modifyBinding h f).mirrorQueue = s.mirrorQueue := rfl

@[simp] theorem State.modifyBinding_slots (s : State) (h : Nat) (f : Binding → Binding) :
    (s.modifyBinding h f).slots = s.slots := rfl

@[simp] theorem State.modifyBinding_cmdQueues (s : State) (h : Nat) (f : Binding → Binding) :
    (s.modifyBinding h f).cmdQueues = s.cmdQueues := rfl

@[simp] theorem State.modifyBinding_tagSets (s : State) (h : Nat) (f : Binding → Binding) :
    (s.modifyBinding h f).tagSets = s.tagSets := rfl

@[simp] theorem State.modifyBinding_doneLists (s : State) (h : Nat) (f : Binding → Binding) :
    (s.modifyBinding h f).doneLists = s.doneLists := rfl

@[simp] theorem State.modifyBinding_links (s : State) (h : Nat) (f : Binding → Binding) :
    (s.modifyBinding h f).links = s.links := rfl

@[simp] theorem State.modifyBinding_mwm (s : State) (h : Nat) (f : Binding → Binding) :
    (s.modifyBinding h f).mwm = s.mwm := rfl

@[simp] theorem State.modifyBinding_clients (s : State) (h : Nat) (f : Binding → Binding) :
    (s.modifyBinding h f).clients = s.clients := rfl

@[simp] theorem State.modifySlot_pending (s : State) (h : Nat) (f : Slot → Slot) :
    (s.modifySlot h f).pending = s.pending := rfl

@[simp] theorem State.modifySlot_resetN (s : State) (h : Nat) (f : Slot → Slot) :
    (s.modifySlot h f).resetN = s.resetN := rfl

@[simp] theorem State.modifySlot_now (s : State) (h : Nat) (f : Slot → Slot) :
    (s.modifySlot h f).now = s.now := rfl

@[simp] theorem State.modifySlot_readData (s : State) (h : Nat) (f : Slot → Slot) :
    (s.modifySlot h f).readData = s.readData := rfl

@[simp] theorem State.modifySlot_bgnt (s : State) (h : Nat) (f : Slot → Slot) :
    (s.modifySlot h f).bgnt = s.bgnt := rfl

@[simp] theorem State.modifySlot_stations (s : State) (h : Nat) (f : Slot → Slot) :
    (s.modifySlot h f).stations = s.stations := rfl

@[simp] theorem State.modifySlot_pollLists (s : State) (h : Nat) (f : Slot → Slot) :
    (s.modifySlot h f).pollLists = s.pollLists := rfl

@[simp] theorem State.modifySlot_points (s : State) (h : Nat) (f : Slot → Slot) :
    (s.modifySlot h f).points = s.points := rfl

@[simp] theorem State.modifySlot_bindings (s : State) (h : Nat) (f : Slot → Slot) :
    (s.modifySlot h f).bindings = s.bindings := rfl

@[simp] theorem State.modifySlot_mirrorQueue (s : State) (h : Nat) (f : Slot → Slot) :
    (s.modifySlot h f).mirrorQueue = s.mirrorQueue := rfl

@[simp] theorem State.modifySlot_slots (s : State) (h : Nat) (f : Slot → Slot) :
    (s.modifySlot h f).slots = s.slots.modify h f := rfl

@[simp] theorem State.modifySlot_cmdQueues (s : State) (h : Nat) (f : Slot → Slot) :
    (s.modifySlot h f).cmdQueues = s.cmdQueues := rfl

@[simp] theorem State.modifySlot_tagSets (s : State) (h : Nat) (f : Slot → Slot) :
    (s.modifySlot h f).tagSets = s.tagSets := rfl

@[simp] theorem State.modifySlot_doneLists (s : State) (h : Nat) (f : Slot → Slot) :
    (s.modifySlot h f).doneLists = s.doneLists := rfl

@[simp] theorem State.modifySlot_links (s : State) (h : Nat) (f : Slot → Slot) :
    (s.modifySlot h f).links = s.links := rfl

@[simp] theorem State.modifySlot_mwm (s : State) (h : Nat) (f : Slot → Slot) :
    (s.modifySlot h f).mwm = s.mwm := rfl

@[simp] theorem State.modifySlot_clients (s : State) (h : Nat) (f : Slot → Slot) :
    (s.modifySlot h f).clients = s.clients := rfl

/-! ## The accessors after an update -/

@[simp] theorem State.link_modifyLink_same (s : State) (l : LinkId) (f : Link → Link) :
    (s.modifyLink l f).link l = f (s.link l) := by simp [State.link]

theorem State.link_modifyLink (s : State) (l m : LinkId) (f : Link → Link) :
    (s.modifyLink l f).link m = if m = l then f (s.link l) else s.link m := by
  simp [State.link, Quad.get_modify]

@[simp] theorem State.client_modifyClient_same (s : State) (c : ClientId) (f : Client → Client) :
    (s.modifyClient c f).client c = f (s.client c) := by simp [State.client]

theorem State.client_modifyClient (s : State) (c d : ClientId) (f : Client → Client) :
    (s.modifyClient c f).client d = if d = c then f (s.client c) else s.client d := by
  simp [State.client, Quad.get_modify]

@[simp] theorem State.client_modifyLink (s : State) (l : LinkId) (f : Link → Link) (c : ClientId) :
    (s.modifyLink l f).client c = s.client c := rfl

@[simp] theorem State.link_modifyClient (s : State) (c : ClientId) (f : Client → Client) (l : LinkId) :
    (s.modifyClient c f).link l = s.link l := rfl

/-- Two updates of one window are one. -/
theorem State.modifyClient_modifyClient (s : State) (c : ClientId) (f g : Client → Client) :
    (s.modifyClient c f).modifyClient c g = s.modifyClient c (fun k => g (f k)) := by
  simp [State.modifyClient, Quad.modify_modify]

/-- Two updates of one link are one. -/
theorem State.modifyLink_modifyLink (s : State) (l : LinkId) (f g : Link → Link) :
    (s.modifyLink l f).modifyLink l g = s.modifyLink l (fun k => g (f k)) := by
  simp [State.modifyLink, Quad.modify_modify]

/-- An update of a link depends only on what it makes of that link. -/
theorem State.modifyLink_congr {s : State} {l : LinkId} {f g : Link → Link}
    (h : f (s.link l) = g (s.link l)) : s.modifyLink l f = s.modifyLink l g := by
  show { s with links := s.links.set l (f (s.link l)) } = _
  rw [h]
  rfl

/-- An update of a window depends only on what it makes of that window. -/
theorem State.modifyClient_congr {s : State} {c : ClientId} {f g : Client → Client}
    (h : f (s.client c) = g (s.client c)) : s.modifyClient c f = s.modifyClient c g := by
  show { s with clients := s.clients.set c (f (s.client c)) } = _
  rw [h]
  rfl

/-- A property of the state that no member of a list disturbs survives the whole list. -/
theorem foldl_keeps {α β : Type} (π : State → β) (f : State → α → State) (h : ∀ s a, π (f s a) = π s)
    (xs : List α) (s : State) : π (xs.foldl f s) = π s := by
  induction xs generalizing s with
  | nil => rfl
  | cons x r ih => rw [List.foldl_cons, ih, h]

/-- An invariant that each member of a list keeps is kept by the whole list. -/
theorem foldl_invariant {α : Type} (P : State → Prop) (f : State → α → State)
    (h : ∀ s a, P s → P (f s a)) (xs : List α) (s : State) (hs : P s) : P (xs.foldl f s) := by
  induction xs generalizing s with
  | nil => exact hs
  | cons x r ih => exact ih _ (h s x hs)

end Sys2Proof.Machine
end

