-- ==== Sys2Proof/Laws/Frames.lean ====
section
/-! SUPPORT. What each shared operation leaves unchanged: for every operation one lemma that names all the
fields of State it does not touch. Tagged simp, so that no later proof unfolds an operation to see that
a field is not its business. -/

set_option linter.unusedTactic false
set_option linter.unreachableTactic false

namespace Sys2Proof.Machine

@[simp] theorem setLinkFlag_frame (l : LinkId) (f : LinkFlag) (s : State) :
    (setLinkFlag l f s).pending = s.pending ∧
      (setLinkFlag l f s).resetN = s.resetN ∧
      (setLinkFlag l f s).now = s.now ∧
      (setLinkFlag l f s).readData = s.readData ∧
      (setLinkFlag l f s).bgnt = s.bgnt ∧
      (setLinkFlag l f s).stations = s.stations ∧
      (setLinkFlag l f s).pollLists = s.pollLists ∧
      (setLinkFlag l f s).points = s.points ∧
      (setLinkFlag l f s).bindings = s.bindings ∧
      (setLinkFlag l f s).mirrorQueue = s.mirrorQueue ∧
      (setLinkFlag l f s).slots = s.slots ∧
      (setLinkFlag l f s).cmdQueues = s.cmdQueues ∧
      (setLinkFlag l f s).tagSets = s.tagSets ∧
      (setLinkFlag l f s).doneLists = s.doneLists ∧
      (setLinkFlag l f s).mwm = s.mwm ∧
      (setLinkFlag l f s).clients = s.clients := by
  unfold setLinkFlag
  refine ⟨?_, ?_, ?_, ?_, ?_, ?_, ?_, ?_, ?_, ?_, ?_, ?_, ?_, ?_, ?_, ?_⟩ <;> (try dsimp only) <;> (repeat' split) <;> simp

@[simp] theorem setSticky_frame (c : ClientId) (x : StickyCause) (s : State) :
    (setSticky c x s).pending = s.pending ∧
      (setSticky c x s).resetN = s.resetN ∧
      (setSticky c x s).now = s.now ∧
      (setSticky c x s).readData = s.readData ∧
      (setSticky c x s).bgnt = s.bgnt ∧
      (setSticky c x s).stations = s.stations ∧
      (setSticky c x s).pollLists = s.pollLists ∧
      (setSticky c x s).points = s.points ∧
      (setSticky c x s).bindings = s.bindings ∧
      (setSticky c x s).mirrorQueue = s.mirrorQueue ∧
      (setSticky c x s).slots = s.slots ∧
      (setSticky c x s).cmdQueues = s.cmdQueues ∧
      (setSticky c x s).tagSets = s.tagSets ∧
      (setSticky c x s).doneLists = s.doneLists ∧
      (setSticky c x s).links = s.links ∧
      (setSticky c x s).mwm = s.mwm := by
  unfold setSticky
  refine ⟨?_, ?_, ?_, ?_, ?_, ?_, ?_, ?_, ?_, ?_, ?_, ?_, ?_, ?_, ?_, ?_⟩ <;> (try dsimp only) <;> (repeat' split) <;> simp

@[simp] theorem settle_frame  (s : State) :
    (settle s).pending = s.pending ∧
      (settle s).resetN = s.resetN ∧
      (settle s).now = s.now ∧
      (settle s).readData = s.readData ∧
      (settle s).bgnt = s.bgnt ∧
      (settle s).stations = s.stations ∧
      (settle s).pollLists = s.pollLists ∧
      (settle s).points = s.points ∧
      (settle s).bindings = s.bindings ∧
      (settle s).mirrorQueue = s.mirrorQueue ∧
      (settle s).slots = s.slots ∧
      (settle s).cmdQueues = s.cmdQueues ∧
      (settle s).tagSets = s.tagSets ∧
      (settle s).doneLists = s.doneLists ∧
      (settle s).links = s.links ∧
      (settle s).mwm = s.mwm := by
  unfold settle
  refine ⟨?_, ?_, ?_, ?_, ?_, ?_, ?_, ?_, ?_, ?_, ?_, ?_, ?_, ?_, ?_, ?_⟩ <;> (try dsimp only) <;> (repeat' split) <;> simp

@[simp] theorem queueBinding_frame (b : Nat) (s : State) :
    (queueBinding b s).pending = s.pending ∧
      (queueBinding b s).resetN = s.resetN ∧
      (queueBinding b s).now = s.now ∧
      (queueBinding b s).readData = s.readData ∧
      (queueBinding b s).bgnt = s.bgnt ∧
      (queueBinding b s).stations = s.stations ∧
      (queueBinding b s).pollLists = s.pollLists ∧
      (queueBinding b s).points = s.points ∧
      (queueBinding b s).bindings = s.bindings ∧
      (queueBinding b s).slots = s.slots ∧
      (queueBinding b s).cmdQueues = s.cmdQueues ∧
      (queueBinding b s).tagSets = s.tagSets ∧
      (queueBinding b s).doneLists = s.doneLists ∧
      (queueBinding b s).links = s.links ∧
      (queueBinding b s).mwm = s.mwm ∧
      (queueBinding b s).clients = s.clients := by
  unfold queueBinding
  refine ⟨?_, ?_, ?_, ?_, ?_, ?_, ?_, ?_, ?_, ?_, ?_, ?_, ?_, ?_, ?_, ?_⟩ <;> (try dsimp only) <;> (repeat' split) <;> simp

@[simp] theorem unqueueBinding_frame (b : Nat) (s : State) :
    (unqueueBinding b s).pending = s.pending ∧
      (unqueueBinding b s).resetN = s.resetN ∧
      (unqueueBinding b s).now = s.now ∧
      (unqueueBinding b s).readData = s.readData ∧
      (unqueueBinding b s).bgnt = s.bgnt ∧
      (unqueueBinding b s).stations = s.stations ∧
      (unqueueBinding b s).pollLists = s.pollLists ∧
      (unqueueBinding b s).points = s.points ∧
      (unqueueBinding b s).bindings = s.bindings ∧
      (unqueueBinding b s).slots = s.slots ∧
      (unqueueBinding b s).cmdQueues = s.cmdQueues ∧
      (unqueueBinding b s).tagSets = s.tagSets ∧
      (unqueueBinding b s).doneLists = s.doneLists ∧
      (unqueueBinding b s).links = s.links ∧
      (unqueueBinding b s).mwm = s.mwm ∧
      (unqueueBinding b s).clients = s.clients := by
  unfold unqueueBinding
  refine ⟨?_, ?_, ?_, ?_, ?_, ?_, ?_, ?_, ?_, ?_, ?_, ?_, ?_, ?_, ?_, ?_⟩ <;> (try dsimp only) <;> (repeat' split) <;> simp

@[simp] theorem freePoint_frame (h : Nat) (p : Point) (s : State) :
    (freePoint h p s).pending = s.pending ∧
      (freePoint h p s).resetN = s.resetN ∧
      (freePoint h p s).now = s.now ∧
      (freePoint h p s).readData = s.readData ∧
      (freePoint h p s).bgnt = s.bgnt ∧
      (freePoint h p s).pollLists = s.pollLists ∧
      (freePoint h p s).bindings = s.bindings ∧
      (freePoint h p s).mirrorQueue = s.mirrorQueue ∧
      (freePoint h p s).slots = s.slots ∧
      (freePoint h p s).cmdQueues = s.cmdQueues ∧
      (freePoint h p s).tagSets = s.tagSets ∧
      (freePoint h p s).doneLists = s.doneLists ∧
      (freePoint h p s).links = s.links ∧
      (freePoint h p s).mwm = s.mwm ∧
      (freePoint h p s).clients = s.clients := by
  unfold freePoint
  refine ⟨?_, ?_, ?_, ?_, ?_, ?_, ?_, ?_, ?_, ?_, ?_, ?_, ?_, ?_, ?_⟩ <;> (try dsimp only) <;> (repeat' split) <;> simp

@[simp] theorem testFree_frame (h : Nat) (s : State) :
    (testFree h s).pending = s.pending ∧
      (testFree h s).resetN = s.resetN ∧
      (testFree h s).now = s.now ∧
      (testFree h s).readData = s.readData ∧
      (testFree h s).bgnt = s.bgnt ∧
      (testFree h s).pollLists = s.pollLists ∧
      (testFree h s).bindings = s.bindings ∧
      (testFree h s).mirrorQueue = s.mirrorQueue ∧
      (testFree h s).slots = s.slots ∧
      (testFree h s).cmdQueues = s.cmdQueues ∧
      (testFree h s).tagSets = s.tagSets ∧
      (testFree h s).doneLists = s.doneLists ∧
      (testFree h s).links = s.links ∧
      (testFree h s).mwm = s.mwm ∧
      (testFree h s).clients = s.clients := by
  unfold testFree
  refine ⟨?_, ?_, ?_, ?_, ?_, ?_, ?_, ?_, ?_, ?_, ?_, ?_, ?_, ?_, ?_⟩ <;> (try dsimp only) <;> (repeat' split) <;> simp

@[simp] theorem freeBinding_frame (b : Nat) (s : State) :
    (freeBinding b s).pending = s.pending ∧
      (freeBinding b s).resetN = s.resetN ∧
      (freeBinding b s).now = s.now ∧
      (freeBinding b s).readData = s.readData ∧
      (freeBinding b s).bgnt = s.bgnt ∧
      (freeBinding b s).pollLists = s.pollLists ∧
      (freeBinding b s).slots = s.slots ∧
      (freeBinding b s).cmdQueues = s.cmdQueues ∧
      (freeBinding b s).tagSets = s.tagSets ∧
      (freeBinding b s).doneLists = s.doneLists ∧
      (freeBinding b s).links = s.links ∧
      (freeBinding b s).mwm = s.mwm ∧
      (freeBinding b s).clients = s.clients := by
  unfold freeBinding
  refine ⟨?_, ?_, ?_, ?_, ?_, ?_, ?_, ?_, ?_, ?_, ?_, ?_, ?_⟩ <;> (try dsimp only) <;> (repeat' split) <;> simp

@[simp] theorem queueIfSelected_frame (e : EventClass) (b : Nat) (s : State) :
    (queueIfSelected e s b).pending = s.pending ∧
      (queueIfSelected e s b).resetN = s.resetN ∧
      (queueIfSelected e s b).now = s.now ∧
      (queueIfSelected e s b).readData = s.readData ∧
      (queueIfSelected e s b).bgnt = s.bgnt ∧
      (queueIfSelected e s b).stations = s.stations ∧
      (queueIfSelected e s b).pollLists = s.pollLists ∧
      (queueIfSelected e s b).points = s.points ∧
      (queueIfSelected e s b).bindings = s.bindings ∧
      (queueIfSelected e s b).slots = s.slots ∧
      (queueIfSelected e s b).cmdQueues = s.cmdQueues ∧
      (queueIfSelected e s b).tagSets = s.tagSets ∧
      (queueIfSelected e s b).doneLists = s.doneLists ∧
      (queueIfSelected e s b).links = s.links ∧
      (queueIfSelected e s b).mwm = s.mwm ∧
      (queueIfSelected e s b).clients = s.clients := by
  unfold queueIfSelected
  refine ⟨?_, ?_, ?_, ?_, ?_, ?_, ?_, ?_, ?_, ?_, ?_, ?_, ?_, ?_, ?_, ?_⟩ <;> (try dsimp only) <;> (repeat' split) <;> simp

@[simp] theorem pointEvent_frame (h : Nat) (e : EventClass) (s : State) :
    (pointEvent h e s).pending = s.pending ∧
      (pointEvent h e s).resetN = s.resetN ∧
      (pointEvent h e s).now = s.now ∧
      (pointEvent h e s).readData = s.readData ∧
      (pointEvent h e s).bgnt = s.bgnt ∧
      (pointEvent h e s).stations = s.stations ∧
      (pointEvent h e s).pollLists = s.pollLists ∧
      (pointEvent h e s).points = s.points ∧
      (pointEvent h e s).bindings = s.bindings ∧
      (pointEvent h e s).slots = s.slots ∧
      (pointEvent h e s).cmdQueues = s.cmdQueues ∧
      (pointEvent h e s).tagSets = s.tagSets ∧
      (pointEvent h e s).doneLists = s.doneLists ∧
      (pointEvent h e s).links = s.links ∧
      (pointEvent h e s).mwm = s.mwm ∧
      (pointEvent h e s).clients = s.clients := by
  unfold pointEvent
  refine ⟨?_, ?_, ?_, ?_, ?_, ?_, ?_, ?_, ?_, ?_, ?_, ?_, ?_, ?_, ?_, ?_⟩ <;> (repeat' split) <;> first | rfl | (refine (foldl_keeps (fun s => _) _ ?_ _ _).trans ?_ <;> simp)

@[simp] theorem closeBinding_frame (b : Nat) (s : State) :
    (closeBinding s b).pending = s.pending ∧
      (closeBinding s b).resetN = s.resetN ∧
      (closeBinding s b).now = s.now ∧
      (closeBinding s b).readData = s.readData ∧
      (closeBinding s b).bgnt = s.bgnt ∧
      (closeBinding s b).pollLists = s.pollLists ∧
      (closeBinding s b).slots = s.slots ∧
      (closeBinding s b).cmdQueues = s.cmdQueues ∧
      (closeBinding s b).tagSets = s.tagSets ∧
      (closeBinding s b).doneLists = s.doneLists ∧
      (closeBinding s b).links = s.links ∧
      (closeBinding s b).mwm = s.mwm ∧
      (closeBinding s b).clients = s.clients := by
  unfold closeBinding
  refine ⟨?_, ?_, ?_, ?_, ?_, ?_, ?_, ?_, ?_, ?_, ?_, ?_, ?_⟩ <;> (try dsimp only) <;> (repeat' split) <;> simp

@[simp] theorem closeBindings_frame (h : Nat) (s : State) :
    (closeBindings h s).pending = s.pending ∧
      (closeBindings h s).resetN = s.resetN ∧
      (closeBindings h s).now = s.now ∧
      (closeBindings h s).readData = s.readData ∧
      (closeBindings h s).bgnt = s.bgnt ∧
      (closeBindings h s).pollLists = s.pollLists ∧
      (closeBindings h s).slots = s.slots ∧
      (closeBindings h s).cmdQueues = s.cmdQueues ∧
      (closeBindings h s).tagSets = s.tagSets ∧
      (closeBindings h s).doneLists = s.doneLists ∧
      (closeBindings h s).links = s.links ∧
      (closeBindings h s).mwm = s.mwm ∧
      (closeBindings h s).clients = s.clients := by
  unfold closeBindings
  refine ⟨?_, ?_, ?_, ?_, ?_, ?_, ?_, ?_, ?_, ?_, ?_, ?_, ?_⟩ <;> (repeat' split) <;> first | rfl | (refine (foldl_keeps (fun s => _) _ ?_ _ _).trans ?_ <;> simp)

@[simp] theorem announce_frame (h : Nat) (e : Option EventClass) (s : State) :
    (announce h e s).pending = s.pending ∧
      (announce h e s).resetN = s.resetN ∧
      (announce h e s).now = s.now ∧
      (announce h e s).readData = s.readData ∧
      (announce h e s).bgnt = s.bgnt ∧
      (announce h e s).stations = s.stations ∧
      (announce h e s).pollLists = s.pollLists ∧
      (announce h e s).points = s.points ∧
      (announce h e s).bindings = s.bindings ∧
      (announce h e s).slots = s.slots ∧
      (announce h e s).cmdQueues = s.cmdQueues ∧
      (announce h e s).tagSets = s.tagSets ∧
      (announce h e s).doneLists = s.doneLists ∧
      (announce h e s).links = s.links ∧
      (announce h e s).mwm = s.mwm ∧
      (announce h e s).clients = s.clients := by
  unfold announce
  refine ⟨?_, ?_, ?_, ?_, ?_, ?_, ?_, ?_, ?_, ?_, ?_, ?_, ?_, ?_, ?_, ?_⟩ <;> (try dsimp only) <;> (repeat' split) <;> simp

@[simp] theorem takeEntryAt_frame (sid : Nat) (e : Entry) (s : State) :
    (takeEntryAt sid s e).pending = s.pending ∧
      (takeEntryAt sid s e).resetN = s.resetN ∧
      (takeEntryAt sid s e).now = s.now ∧
      (takeEntryAt sid s e).readData = s.readData ∧
      (takeEntryAt sid s e).bgnt = s.bgnt ∧
      (takeEntryAt sid s e).stations = s.stations ∧
      (takeEntryAt sid s e).pollLists = s.pollLists ∧
      (takeEntryAt sid s e).bindings = s.bindings ∧
      (takeEntryAt sid s e).slots = s.slots ∧
      (takeEntryAt sid s e).cmdQueues = s.cmdQueues ∧
      (takeEntryAt sid s e).tagSets = s.tagSets ∧
      (takeEntryAt sid s e).doneLists = s.doneLists ∧
      (takeEntryAt sid s e).links = s.links ∧
      (takeEntryAt sid s e).mwm = s.mwm ∧
      (takeEntryAt sid s e).clients = s.clients := by
  unfold takeEntryAt
  refine ⟨?_, ?_, ?_, ?_, ?_, ?_, ?_, ?_, ?_, ?_, ?_, ?_, ?_, ?_, ?_⟩ <;> (try dsimp only) <;> (repeat' split) <;> simp

@[simp] theorem takeEntries_frame (sid : Nat) (es : List Entry) (s : State) :
    (takeEntries sid es s).pending = s.pending ∧
      (takeEntries sid es s).resetN = s.resetN ∧
      (takeEntries sid es s).now = s.now ∧
      (takeEntries sid es s).readData = s.readData ∧
      (takeEntries sid es s).bgnt = s.bgnt ∧
      (takeEntries sid es s).stations = s.stations ∧
      (takeEntries sid es s).pollLists = s.pollLists ∧
      (takeEntries sid es s).bindings = s.bindings ∧
      (takeEntries sid es s).slots = s.slots ∧
      (takeEntries sid es s).cmdQueues = s.cmdQueues ∧
      (takeEntries sid es s).tagSets = s.tagSets ∧
      (takeEntries sid es s).doneLists = s.doneLists ∧
      (takeEntries sid es s).links = s.links ∧
      (takeEntries sid es s).mwm = s.mwm ∧
      (takeEntries sid es s).clients = s.clients := by
  unfold takeEntries
  refine ⟨?_, ?_, ?_, ?_, ?_, ?_, ?_, ?_, ?_, ?_, ?_, ?_, ?_, ?_, ?_⟩ <;> (repeat' split) <;> first | rfl | (refine (foldl_keeps (fun s => _) _ ?_ _ _).trans ?_ <;> simp)

@[simp] theorem agePoint_frame (x : StaleCause) (h : Nat) (s : State) :
    (agePoint x s h).pending = s.pending ∧
      (agePoint x s h).resetN = s.resetN ∧
      (agePoint x s h).now = s.now ∧
      (agePoint x s h).readData = s.readData ∧
      (agePoint x s h).bgnt = s.bgnt ∧
      (agePoint x s h).stations = s.stations ∧
      (agePoint x s h).pollLists = s.pollLists ∧
      (agePoint x s h).bindings = s.bindings ∧
      (agePoint x s h).slots = s.slots ∧
      (agePoint x s h).cmdQueues = s.cmdQueues ∧
      (agePoint x s h).tagSets = s.tagSets ∧
      (agePoint x s h).doneLists = s.doneLists ∧
      (agePoint x s h).links = s.links ∧
      (agePoint x s h).mwm = s.mwm ∧
      (agePoint x s h).clients = s.clients := by
  unfold agePoint
  refine ⟨?_, ?_, ?_, ?_, ?_, ?_, ?_, ?_, ?_, ?_, ?_, ?_, ?_, ?_, ?_⟩ <;> (try dsimp only) <;> (repeat' split) <;> simp

@[simp] theorem agePoints_frame (sid : Nat) (x : StaleCause) (s : State) :
    (agePoints sid x s).pending = s.pending ∧
      (agePoints sid x s).resetN = s.resetN ∧
      (agePoints sid x s).now = s.now ∧
      (agePoints sid x s).readData = s.readData ∧
      (agePoints sid x s).bgnt = s.bgnt ∧
      (agePoints sid x s).stations = s.stations ∧
      (agePoints sid x s).pollLists = s.pollLists ∧
      (agePoints sid x s).bindings = s.bindings ∧
      (agePoints sid x s).slots = s.slots ∧
      (agePoints sid x s).cmdQueues = s.cmdQueues ∧
      (agePoints sid x s).tagSets = s.tagSets ∧
      (agePoints sid x s).doneLists = s.doneLists ∧
      (agePoints sid x s).links = s.links ∧
      (agePoints sid x s).mwm = s.mwm ∧
      (agePoints sid x s).clients = s.clients := by
  unfold agePoints
  refine ⟨?_, ?_, ?_, ?_, ?_, ?_, ?_, ?_, ?_, ?_, ?_, ?_, ?_, ?_, ?_⟩ <;> (repeat' split) <;> first | rfl | (refine (foldl_keeps (fun s => _) _ ?_ _ _).trans ?_ <;> simp)

@[simp] theorem expirePoint_frame (h : Nat) (s : State) :
    (expirePoint h s).pending = s.pending ∧
      (expirePoint h s).resetN = s.resetN ∧
      (expirePoint h s).now = s.now ∧
      (expirePoint h s).readData = s.readData ∧
      (expirePoint h s).bgnt = s.bgnt ∧
      (expirePoint h s).stations = s.stations ∧
      (expirePoint h s).pollLists = s.pollLists ∧
      (expirePoint h s).bindings = s.bindings ∧
      (expirePoint h s).slots = s.slots ∧
      (expirePoint h s).cmdQueues = s.cmdQueues ∧
      (expirePoint h s).tagSets = s.tagSets ∧
      (expirePoint h s).doneLists = s.doneLists ∧
      (expirePoint h s).links = s.links ∧
      (expirePoint h s).mwm = s.mwm ∧
      (expirePoint h s).clients = s.clients := by
  unfold expirePoint
  refine ⟨?_, ?_, ?_, ?_, ?_, ?_, ?_, ?_, ?_, ?_, ?_, ?_, ?_, ?_, ?_⟩ <;> (try dsimp only) <;> (repeat' split) <;> simp

@[simp] theorem State.setTagSet_frame (s : State) (sid : Nat) (t : Table TagUse) :
    (s.setTagSet sid t).pending = s.pending ∧
      (s.setTagSet sid t).resetN = s.resetN ∧
      (s.setTagSet sid t).now = s.now ∧
      (s.setTagSet sid t).readData = s.readData ∧
      (s.setTagSet sid t).bgnt = s.bgnt ∧
      (s.setTagSet sid t).stations = s.stations ∧
      (s.setTagSet sid t).pollLists = s.pollLists ∧
      (s.setTagSet sid t).points = s.points ∧
      (s.setTagSet sid t).bindings = s.bindings ∧
      (s.setTagSet sid t).mirrorQueue = s.mirrorQueue ∧
      (s.setTagSet sid t).slots = s.slots ∧
      (s.setTagSet sid t).cmdQueues = s.cmdQueues ∧
      (s.setTagSet sid t).doneLists = s.doneLists ∧
      (s.setTagSet sid t).links = s.links ∧
      (s.setTagSet sid t).mwm = s.mwm ∧
      (s.setTagSet sid t).clients = s.clients := by
  unfold State.setTagSet
  refine ⟨?_, ?_, ?_, ?_, ?_, ?_, ?_, ?_, ?_, ?_, ?_, ?_, ?_, ?_, ?_, ?_⟩ <;> (try dsimp only) <;> (repeat' split) <;> simp

@[simp] theorem noticeFreedTag_frame (sid : Nat) (b : Bool) (s : State) :
    (noticeFreedTag sid b s).pending = s.pending ∧
      (noticeFreedTag sid b s).resetN = s.resetN ∧
      (noticeFreedTag sid b s).now = s.now ∧
      (noticeFreedTag sid b s).readData = s.readData ∧
      (noticeFreedTag sid b s).bgnt = s.bgnt ∧
      (noticeFreedTag sid b s).stations = s.stations ∧
      (noticeFreedTag sid b s).pollLists = s.pollLists ∧
      (noticeFreedTag sid b s).points = s.points ∧
      (noticeFreedTag sid b s).bindings = s.bindings ∧
      (noticeFreedTag sid b s).mirrorQueue = s.mirrorQueue ∧
      (noticeFreedTag sid b s).slots = s.slots ∧
      (noticeFreedTag sid b s).cmdQueues = s.cmdQueues ∧
      (noticeFreedTag sid b s).tagSets = s.tagSets ∧
      (noticeFreedTag sid b s).doneLists = s.doneLists ∧
      (noticeFreedTag sid b s).mwm = s.mwm ∧
      (noticeFreedTag sid b s).clients = s.clients := by
  unfold noticeFreedTag
  refine ⟨?_, ?_, ?_, ?_, ?_, ?_, ?_, ?_, ?_, ?_, ?_, ?_, ?_, ?_, ?_, ?_⟩ <;> (try dsimp only) <;> (repeat' split) <;> simp

@[simp] theorem freeTag_frame (sid tag : Nat) (s : State) :
    (freeTag sid tag s).pending = s.pending ∧
      (freeTag sid tag s).resetN = s.resetN ∧
      (freeTag sid tag s).now = s.now ∧
      (freeTag sid tag s).readData = s.readData ∧
      (freeTag sid tag s).bgnt = s.bgnt ∧
      (freeTag sid tag s).stations = s.stations ∧
      (freeTag sid tag s).pollLists = s.pollLists ∧
      (freeTag sid tag s).points = s.points ∧
      (freeTag sid tag s).bindings = s.bindings ∧
      (freeTag sid tag s).mirrorQueue = s.mirrorQueue ∧
      (freeTag sid tag s).slots = s.slots ∧
      (freeTag sid tag s).cmdQueues = s.cmdQueues ∧
      (freeTag sid tag s).doneLists = s.doneLists ∧
      (freeTag sid tag s).mwm = s.mwm ∧
      (freeTag sid tag s).clients = s.clients := by
  unfold freeTag
  refine ⟨?_, ?_, ?_, ?_, ?_, ?_, ?_, ?_, ?_, ?_, ?_, ?_, ?_, ?_, ?_⟩ <;> (try dsimp only) <;> (repeat' split) <;> simp

@[simp] theorem freeAllTags_frame (sid : Nat) (s : State) :
    (freeAllTags sid s).pending = s.pending ∧
      (freeAllTags sid s).resetN = s.resetN ∧
      (freeAllTags sid s).now = s.now ∧
      (freeAllTags sid s).readData = s.readData ∧
      (freeAllTags sid s).bgnt = s.bgnt ∧
      (freeAllTags sid s).stations = s.stations ∧
      (freeAllTags sid s).pollLists = s.pollLists ∧
      (freeAllTags sid s).points = s.points ∧
      (freeAllTags sid s).bindings = s.bindings ∧
      (freeAllTags sid s).mirrorQueue = s.mirrorQueue ∧
      (freeAllTags sid s).slots = s.slots ∧
      (freeAllTags sid s).cmdQueues = s.cmdQueues ∧
      (freeAllTags sid s).doneLists = s.doneLists ∧
      (freeAllTags sid s).mwm = s.mwm ∧
      (freeAllTags sid s).clients = s.clients := by
  unfold freeAllTags
  refine ⟨?_, ?_, ?_, ?_, ?_, ?_, ?_, ?_, ?_, ?_, ?_, ?_, ?_, ?_, ?_⟩ <;> (try dsimp only) <;> (repeat' split) <;> simp

@[simp] theorem abandonTag_frame (sid tag : Nat) (s : State) :
    (abandonTag sid tag s).pending = s.pending ∧
      (abandonTag sid tag s).resetN = s.resetN ∧
      (abandonTag sid tag s).now = s.now ∧
      (abandonTag sid tag s).readData = s.readData ∧
      (abandonTag sid tag s).bgnt = s.bgnt ∧
      (abandonTag sid tag s).stations = s.stations ∧
      (abandonTag sid tag s).pollLists = s.pollLists ∧
      (abandonTag sid tag s).points = s.points ∧
      (abandonTag sid tag s).bindings = s.bindings ∧
      (abandonTag sid tag s).mirrorQueue = s.mirrorQueue ∧
      (abandonTag sid tag s).slots = s.slots ∧
      (abandonTag sid tag s).cmdQueues = s.cmdQueues ∧
      (abandonTag sid tag s).doneLists = s.doneLists ∧
      (abandonTag sid tag s).links = s.links ∧
      (abandonTag sid tag s).mwm = s.mwm ∧
      (abandonTag sid tag s).clients = s.clients := by
  unfold abandonTag
  refine ⟨?_, ?_, ?_, ?_, ?_, ?_, ?_, ?_, ?_, ?_, ?_, ?_, ?_, ?_, ?_, ?_⟩ <;> (try dsimp only) <;> (repeat' split) <;> simp

@[simp] theorem releaseTag_frame (r : Slot) (x : TagFate) (s : State) :
    (releaseTag r x s).pending = s.pending ∧
      (releaseTag r x s).resetN = s.resetN ∧
      (releaseTag r x s).now = s.now ∧
      (releaseTag r x s).readData = s.readData ∧
      (releaseTag r x s).bgnt = s.bgnt ∧
      (releaseTag r x s).stations = s.stations ∧
      (releaseTag r x s).pollLists = s.pollLists ∧
      (releaseTag r x s).points = s.points ∧
      (releaseTag r x s).bindings = s.bindings ∧
      (releaseTag r x s).mirrorQueue = s.mirrorQueue ∧
      (releaseTag r x s).slots = s.slots ∧
      (releaseTag r x s).cmdQueues = s.cmdQueues ∧
      (releaseTag r x s).doneLists = s.doneLists ∧
      (releaseTag r x s).mwm = s.mwm ∧
      (releaseTag r x s).clients = s.clients := by
  unfold releaseTag
  refine ⟨?_, ?_, ?_, ?_, ?_, ?_, ?_, ?_, ?_, ?_, ?_, ?_, ?_, ?_, ?_⟩ <;> (try dsimp only) <;> (repeat' split) <;> simp

@[simp] theorem dequeue_frame (h : Nat) (s : State) :
    (dequeue h s).pending = s.pending ∧
      (dequeue h s).resetN = s.resetN ∧
      (dequeue h s).now = s.now ∧
      (dequeue h s).readData = s.readData ∧
      (dequeue h s).bgnt = s.bgnt ∧
      (dequeue h s).stations = s.stations ∧
      (dequeue h s).pollLists = s.pollLists ∧
      (dequeue h s).points = s.points ∧
      (dequeue h s).bindings = s.bindings ∧
      (dequeue h s).mirrorQueue = s.mirrorQueue ∧
      (dequeue h s).slots = s.slots ∧
      (dequeue h s).tagSets = s.tagSets ∧
      (dequeue h s).doneLists = s.doneLists ∧
      (dequeue h s).links = s.links ∧
      (dequeue h s).mwm = s.mwm ∧
      (dequeue h s).clients = s.clients := by
  unfold dequeue
  refine ⟨?_, ?_, ?_, ?_, ?_, ?_, ?_, ?_, ?_, ?_, ?_, ?_, ?_, ?_, ?_, ?_⟩ <;> (try dsimp only) <;> (repeat' split) <;> simp

@[simp] theorem finishSlot_frame (h : Nat) (x : CommandResult) (n : Byte) (f : TagFate) (s : State) :
    (finishSlot h x n f s).pending = s.pending ∧
      (finishSlot h x n f s).resetN = s.resetN ∧
      (finishSlot h x n f s).now = s.now ∧
      (finishSlot h x n f s).readData = s.readData ∧
      (finishSlot h x n f s).bgnt = s.bgnt ∧
      (finishSlot h x n f s).pollLists = s.pollLists ∧
      (finishSlot h x n f s).bindings = s.bindings ∧
      (finishSlot h x n f s).mirrorQueue = s.mirrorQueue ∧
      (finishSlot h x n f s).cmdQueues = s.cmdQueues ∧
      (finishSlot h x n f s).mwm = s.mwm := by
  unfold finishSlot
  refine ⟨?_, ?_, ?_, ?_, ?_, ?_, ?_, ?_, ?_, ?_⟩ <;> (try dsimp only) <;> (repeat' split) <;> simp

@[simp] theorem commandAnswer_frame (h : Nat) (x : ExchangeOutcome) (s : State) :
    (commandAnswer h x s).pending = s.pending ∧
      (commandAnswer h x s).resetN = s.resetN ∧
      (commandAnswer h x s).now = s.now ∧
      (commandAnswer h x s).readData = s.readData ∧
      (commandAnswer h x s).bgnt = s.bgnt ∧
      (commandAnswer h x s).pollLists = s.pollLists ∧
      (commandAnswer h x s).bindings = s.bindings ∧
      (commandAnswer h x s).mirrorQueue = s.mirrorQueue ∧
      (commandAnswer h x s).cmdQueues = s.cmdQueues ∧
      (commandAnswer h x s).mwm = s.mwm := by
  unfold commandAnswer
  refine ⟨?_, ?_, ?_, ?_, ?_, ?_, ?_, ?_, ?_, ?_⟩ <;> (try dsimp only) <;> (repeat' split) <;> simp

@[simp] theorem takeCompletion_frame (sid : Nat) (l : LinkId) (c : Completion) (s : State) :
    (takeCompletion sid l s c).pending = s.pending ∧
      (takeCompletion sid l s c).resetN = s.resetN ∧
      (takeCompletion sid l s c).now = s.now ∧
      (takeCompletion sid l s c).readData = s.readData ∧
      (takeCompletion sid l s c).bgnt = s.bgnt ∧
      (takeCompletion sid l s c).pollLists = s.pollLists ∧
      (takeCompletion sid l s c).bindings = s.bindings ∧
      (takeCompletion sid l s c).mirrorQueue = s.mirrorQueue ∧
      (takeCompletion sid l s c).cmdQueues = s.cmdQueues ∧
      (takeCompletion sid l s c).mwm = s.mwm := by
  unfold takeCompletion
  refine ⟨?_, ?_, ?_, ?_, ?_, ?_, ?_, ?_, ?_, ?_⟩ <;> (try dsimp only) <;> (repeat' split) <;> simp

@[simp] theorem takeCompletions_frame (sid : Nat) (l : LinkId) (cs : List Completion) (s : State) :
    (takeCompletions sid l cs s).pending = s.pending ∧
      (takeCompletions sid l cs s).resetN = s.resetN ∧
      (takeCompletions sid l cs s).now = s.now ∧
      (takeCompletions sid l cs s).readData = s.readData ∧
      (takeCompletions sid l cs s).bgnt = s.bgnt ∧
      (takeCompletions sid l cs s).pollLists = s.pollLists ∧
      (takeCompletions sid l cs s).bindings = s.bindings ∧
      (takeCompletions sid l cs s).mirrorQueue = s.mirrorQueue ∧
      (takeCompletions sid l cs s).cmdQueues = s.cmdQueues ∧
      (takeCompletions sid l cs s).mwm = s.mwm := by
  unfold takeCompletions
  refine ⟨?_, ?_, ?_, ?_, ?_, ?_, ?_, ?_, ?_, ?_⟩ <;> (repeat' split) <;> first | rfl | (refine (foldl_keeps (fun s => _) _ ?_ _ _).trans ?_ <;> simp)

@[simp] theorem endSlot_frame (x : CommandResult) (h : Nat) (s : State) :
    (endSlot x s h).pending = s.pending ∧
      (endSlot x s h).resetN = s.resetN ∧
      (endSlot x s h).now = s.now ∧
      (endSlot x s h).readData = s.readData ∧
      (endSlot x s h).bgnt = s.bgnt ∧
      (endSlot x s h).pollLists = s.pollLists ∧
      (endSlot x s h).bindings = s.bindings ∧
      (endSlot x s h).mirrorQueue = s.mirrorQueue ∧
      (endSlot x s h).mwm = s.mwm := by
  unfold endSlot
  refine ⟨?_, ?_, ?_, ?_, ?_, ?_, ?_, ?_, ?_⟩ <;> (try dsimp only) <;> (repeat' split) <;> simp

@[simp] theorem endStationCommands_frame (sid : Nat) (x : CommandResult) (s : State) :
    (endStationCommands sid x s).pending = s.pending ∧
      (endStationCommands sid x s).resetN = s.resetN ∧
      (endStationCommands sid x s).now = s.now ∧
      (endStationCommands sid x s).readData = s.readData ∧
      (endStationCommands sid x s).bgnt = s.bgnt ∧
      (endStationCommands sid x s).pollLists = s.pollLists ∧
      (endStationCommands sid x s).bindings = s.bindings ∧
      (endStationCommands sid x s).mirrorQueue = s.mirrorQueue ∧
      (endStationCommands sid x s).mwm = s.mwm := by
  unfold endStationCommands
  refine ⟨?_, ?_, ?_, ?_, ?_, ?_, ?_, ?_, ?_⟩ <;> (try simp only [freeAllTags_frame]) <;> (refine (foldl_keeps (fun s => _) _ ?_ _ _).trans ?_ <;> simp)

@[simp] theorem retireCommand_frame (h : Nat) (s : State) :
    (retireCommand h s).pending = s.pending ∧
      (retireCommand h s).resetN = s.resetN ∧
      (retireCommand h s).now = s.now ∧
      (retireCommand h s).readData = s.readData ∧
      (retireCommand h s).bgnt = s.bgnt ∧
      (retireCommand h s).pollLists = s.pollLists ∧
      (retireCommand h s).bindings = s.bindings ∧
      (retireCommand h s).mirrorQueue = s.mirrorQueue ∧
      (retireCommand h s).mwm = s.mwm := by
  unfold retireCommand
  refine ⟨?_, ?_, ?_, ?_, ?_, ?_, ?_, ?_, ?_⟩ <;> (try dsimp only) <;> (repeat' split) <;> simp

@[simp] theorem expireSlot_frame (h : Nat) (s : State) :
    (expireSlot h s).pending = s.pending ∧
      (expireSlot h s).resetN = s.resetN ∧
      (expireSlot h s).now = s.now ∧
      (expireSlot h s).readData = s.readData ∧
      (expireSlot h s).bgnt = s.bgnt ∧
      (expireSlot h s).pollLists = s.pollLists ∧
      (expireSlot h s).bindings = s.bindings ∧
      (expireSlot h s).mirrorQueue = s.mirrorQueue ∧
      (expireSlot h s).cmdQueues = s.cmdQueues ∧
      (expireSlot h s).mwm = s.mwm := by
  unfold expireSlot
  refine ⟨?_, ?_, ?_, ?_, ?_, ?_, ?_, ?_, ?_, ?_⟩ <;> (try dsimp only) <;> (repeat' split) <;> simp

@[simp] theorem decisionPoint_frame (l : LinkId) (s : State) :
    (decisionPoint l s).pending = s.pending ∧
      (decisionPoint l s).resetN = s.resetN ∧
      (decisionPoint l s).now = s.now ∧
      (decisionPoint l s).readData = s.readData ∧
      (decisionPoint l s).bgnt = s.bgnt ∧
      (decisionPoint l s).stations = s.stations ∧
      (decisionPoint l s).pollLists = s.pollLists ∧
      (decisionPoint l s).points = s.points ∧
      (decisionPoint l s).bindings = s.bindings ∧
      (decisionPoint l s).mirrorQueue = s.mirrorQueue ∧
      (decisionPoint l s).slots = s.slots ∧
      (decisionPoint l s).cmdQueues = s.cmdQueues ∧
      (decisionPoint l s).tagSets = s.tagSets ∧
      (decisionPoint l s).doneLists = s.doneLists ∧
      (decisionPoint l s).mwm = s.mwm ∧
      (decisionPoint l s).clients = s.clients := by
  unfold decisionPoint
  refine ⟨?_, ?_, ?_, ?_, ?_, ?_, ?_, ?_, ?_, ?_, ?_, ?_, ?_, ?_, ?_, ?_⟩ <;> (try dsimp only) <;> (repeat' split) <;> simp

@[simp] theorem visitStart_frame (l : LinkId) (s : State) :
    (visitStart l s).pending = s.pending ∧
      (visitStart l s).resetN = s.resetN ∧
      (visitStart l s).now = s.now ∧
      (visitStart l s).readData = s.readData ∧
      (visitStart l s).bgnt = s.bgnt ∧
      (visitStart l s).stations = s.stations ∧
      (visitStart l s).pollLists = s.pollLists ∧
      (visitStart l s).points = s.points ∧
      (visitStart l s).bindings = s.bindings ∧
      (visitStart l s).mirrorQueue = s.mirrorQueue ∧
      (visitStart l s).slots = s.slots ∧
      (visitStart l s).cmdQueues = s.cmdQueues ∧
      (visitStart l s).tagSets = s.tagSets ∧
      (visitStart l s).doneLists = s.doneLists ∧
      (visitStart l s).mwm = s.mwm ∧
      (visitStart l s).clients = s.clients := by
  unfold visitStart
  refine ⟨?_, ?_, ?_, ?_, ?_, ?_, ?_, ?_, ?_, ?_, ?_, ?_, ?_, ?_, ?_, ?_⟩ <;> (try dsimp only) <;> (repeat' split) <;> simp

@[simp] theorem startCommand_frame (l : LinkId) (h : Nat) (s : State) :
    (startCommand l h s).pending = s.pending ∧
      (startCommand l h s).resetN = s.resetN ∧
      (startCommand l h s).now = s.now ∧
      (startCommand l h s).readData = s.readData ∧
      (startCommand l h s).bgnt = s.bgnt ∧
      (startCommand l h s).stations = s.stations ∧
      (startCommand l h s).pollLists = s.pollLists ∧
      (startCommand l h s).points = s.points ∧
      (startCommand l h s).bindings = s.bindings ∧
      (startCommand l h s).mirrorQueue = s.mirrorQueue ∧
      (startCommand l h s).doneLists = s.doneLists ∧
      (startCommand l h s).mwm = s.mwm ∧
      (startCommand l h s).clients = s.clients := by
  unfold startCommand
  refine ⟨?_, ?_, ?_, ?_, ?_, ?_, ?_, ?_, ?_, ?_, ?_, ?_, ?_⟩ <;> (try dsimp only) <;> (repeat' split) <;> simp

@[simp] theorem commandExchangeStart_frame (l : LinkId) (s : State) :
    (commandExchangeStart l s).pending = s.pending ∧
      (commandExchangeStart l s).resetN = s.resetN ∧
      (commandExchangeStart l s).now = s.now ∧
      (commandExchangeStart l s).readData = s.readData ∧
      (commandExchangeStart l s).bgnt = s.bgnt ∧
      (commandExchangeStart l s).stations = s.stations ∧
      (commandExchangeStart l s).pollLists = s.pollLists ∧
      (commandExchangeStart l s).points = s.points ∧
      (commandExchangeStart l s).bindings = s.bindings ∧
      (commandExchangeStart l s).mirrorQueue = s.mirrorQueue ∧
      (commandExchangeStart l s).doneLists = s.doneLists ∧
      (commandExchangeStart l s).mwm = s.mwm ∧
      (commandExchangeStart l s).clients = s.clients := by
  unfold commandExchangeStart
  refine ⟨?_, ?_, ?_, ?_, ?_, ?_, ?_, ?_, ?_, ?_, ?_, ?_, ?_⟩ <;> (try dsimp only) <;> (repeat' split) <;> simp

@[simp] theorem frameSent_frame (l : LinkId) (s : State) :
    (frameSent l s).pending = s.pending ∧
      (frameSent l s).resetN = s.resetN ∧
      (frameSent l s).now = s.now ∧
      (frameSent l s).readData = s.readData ∧
      (frameSent l s).bgnt = s.bgnt ∧
      (frameSent l s).stations = s.stations ∧
      (frameSent l s).pollLists = s.pollLists ∧
      (frameSent l s).points = s.points ∧
      (frameSent l s).bindings = s.bindings ∧
      (frameSent l s).mirrorQueue = s.mirrorQueue ∧
      (frameSent l s).slots = s.slots ∧
      (frameSent l s).cmdQueues = s.cmdQueues ∧
      (frameSent l s).tagSets = s.tagSets ∧
      (frameSent l s).doneLists = s.doneLists ∧
      (frameSent l s).mwm = s.mwm ∧
      (frameSent l s).clients = s.clients := by
  unfold frameSent
  refine ⟨?_, ?_, ?_, ?_, ?_, ?_, ?_, ?_, ?_, ?_, ?_, ?_, ?_, ?_, ?_, ?_⟩ <;> (try dsimp only) <;> (repeat' split) <;> simp

@[simp] theorem freeStation_frame (sid : Nat) (s : State) :
    (freeStation sid s).pending = s.pending ∧
      (freeStation sid s).resetN = s.resetN ∧
      (freeStation sid s).now = s.now ∧
      (freeStation sid s).readData = s.readData ∧
      (freeStation sid s).bgnt = s.bgnt ∧
      (freeStation sid s).pollLists = s.pollLists ∧
      (freeStation sid s).points = s.points ∧
      (freeStation sid s).bindings = s.bindings ∧
      (freeStation sid s).mirrorQueue = s.mirrorQueue ∧
      (freeStation sid s).slots = s.slots ∧
      (freeStation sid s).cmdQueues = s.cmdQueues ∧
      (freeStation sid s).doneLists = s.doneLists ∧
      (freeStation sid s).links = s.links ∧
      (freeStation sid s).mwm = s.mwm ∧
      (freeStation sid s).clients = s.clients := by
  unfold freeStation
  refine ⟨?_, ?_, ?_, ?_, ?_, ?_, ?_, ?_, ?_, ?_, ?_, ?_, ?_, ?_, ?_⟩ <;> (try dsimp only) <;> (repeat' split) <;> simp

@[simp] theorem identAnswer_frame (sid : Nat) (l : LinkId) (t : BitVec 16) (n : Nat) (s : State) :
    (identAnswer sid l t n s).pending = s.pending ∧
      (identAnswer sid l t n s).resetN = s.resetN ∧
      (identAnswer sid l t n s).now = s.now ∧
      (identAnswer sid l t n s).readData = s.readData ∧
      (identAnswer sid l t n s).bgnt = s.bgnt ∧
      (identAnswer sid l t n s).pollLists = s.pollLists ∧
      (identAnswer sid l t n s).points = s.points ∧
      (identAnswer sid l t n s).bindings = s.bindings ∧
      (identAnswer sid l t n s).mirrorQueue = s.mirrorQueue ∧
      (identAnswer sid l t n s).slots = s.slots ∧
      (identAnswer sid l t n s).cmdQueues = s.cmdQueues ∧
      (identAnswer sid l t n s).tagSets = s.tagSets ∧
      (identAnswer sid l t n s).doneLists = s.doneLists ∧
      (identAnswer sid l t n s).mwm = s.mwm ∧
      (identAnswer sid l t n s).clients = s.clients := by
  unfold identAnswer
  refine ⟨?_, ?_, ?_, ?_, ?_, ?_, ?_, ?_, ?_, ?_, ?_, ?_, ?_, ?_, ?_⟩ <;> (try dsimp only) <;> (repeat' split) <;> simp

@[simp] theorem restartDeparture_frame (sid : Nat) (s : State) :
    (restartDeparture sid s).pending = s.pending ∧
      (restartDeparture sid s).resetN = s.resetN ∧
      (restartDeparture sid s).now = s.now ∧
      (restartDeparture sid s).readData = s.readData ∧
      (restartDeparture sid s).bgnt = s.bgnt ∧
      (restartDeparture sid s).pollLists = s.pollLists ∧
      (restartDeparture sid s).bindings = s.bindings ∧
      (restartDeparture sid s).mirrorQueue = s.mirrorQueue ∧
      (restartDeparture sid s).mwm = s.mwm := by
  unfold restartDeparture
  refine ⟨?_, ?_, ?_, ?_, ?_, ?_, ?_, ?_, ?_⟩ <;> (try dsimp only) <;> (repeat' split) <;> simp

@[simp] theorem clearMiss_frame (sid : Nat) (s : State) :
    (clearMiss sid s).pending = s.pending ∧
      (clearMiss sid s).resetN = s.resetN ∧
      (clearMiss sid s).now = s.now ∧
      (clearMiss sid s).readData = s.readData ∧
      (clearMiss sid s).bgnt = s.bgnt ∧
      (clearMiss sid s).pollLists = s.pollLists ∧
      (clearMiss sid s).points = s.points ∧
      (clearMiss sid s).bindings = s.bindings ∧
      (clearMiss sid s).mirrorQueue = s.mirrorQueue ∧
      (clearMiss sid s).slots = s.slots ∧
      (clearMiss sid s).cmdQueues = s.cmdQueues ∧
      (clearMiss sid s).tagSets = s.tagSets ∧
      (clearMiss sid s).doneLists = s.doneLists ∧
      (clearMiss sid s).links = s.links ∧
      (clearMiss sid s).mwm = s.mwm ∧
      (clearMiss sid s).clients = s.clients := by
  unfold clearMiss
  refine ⟨?_, ?_, ?_, ?_, ?_, ?_, ?_, ?_, ?_, ?_, ?_, ?_, ?_, ?_, ?_, ?_⟩ <;> (try dsimp only) <;> (repeat' split) <;> simp

@[simp] theorem silenceDeparture_frame (sid : Nat) (l : LinkId) (s : State) :
    (silenceDeparture sid l s).pending = s.pending ∧
      (silenceDeparture sid l s).resetN = s.resetN ∧
      (silenceDeparture sid l s).now = s.now ∧
      (silenceDeparture sid l s).readData = s.readData ∧
      (silenceDeparture sid l s).bgnt = s.bgnt ∧
      (silenceDeparture sid l s).pollLists = s.pollLists ∧
      (silenceDeparture sid l s).bindings = s.bindings ∧
      (silenceDeparture sid l s).mwm = s.mwm := by
  unfold silenceDeparture
  refine ⟨?_, ?_, ?_, ?_, ?_, ?_, ?_, ?_⟩ <;> (try dsimp only) <;> (repeat' split) <;> simp

@[simp] theorem countMiss_frame (sid : Nat) (l : LinkId) (n : Nat) (s : State) :
    (countMiss sid l n s).pending = s.pending ∧
      (countMiss sid l n s).resetN = s.resetN ∧
      (countMiss sid l n s).now = s.now ∧
      (countMiss sid l n s).readData = s.readData ∧
      (countMiss sid l n s).bgnt = s.bgnt ∧
      (countMiss sid l n s).pollLists = s.pollLists ∧
      (countMiss sid l n s).bindings = s.bindings ∧
      (countMiss sid l n s).mwm = s.mwm := by
  unfold countMiss
  refine ⟨?_, ?_, ?_, ?_, ?_, ?_, ?_, ?_⟩ <;> (try dsimp only) <;> (repeat' split) <;> simp

@[simp] theorem applyOutcome_frame (sid : Nat) (l : LinkId) (n : Nat) (x : ExchangeOutcome) (s : State) :
    (applyOutcome sid l n x s).pending = s.pending ∧
      (applyOutcome sid l n x s).resetN = s.resetN ∧
      (applyOutcome sid l n x s).now = s.now ∧
      (applyOutcome sid l n x s).readData = s.readData ∧
      (applyOutcome sid l n x s).bgnt = s.bgnt ∧
      (applyOutcome sid l n x s).pollLists = s.pollLists ∧
      (applyOutcome sid l n x s).bindings = s.bindings ∧
      (applyOutcome sid l n x s).mwm = s.mwm := by
  unfold applyOutcome
  refine ⟨?_, ?_, ?_, ?_, ?_, ?_, ?_, ?_⟩ <;> (try dsimp only) <;> (repeat' split) <;> simp

@[simp] theorem receiveFlag_frame (l : LinkId) (x : ExchangeOutcome) (s : State) :
    (receiveFlag l x s).pending = s.pending ∧
      (receiveFlag l x s).resetN = s.resetN ∧
      (receiveFlag l x s).now = s.now ∧
      (receiveFlag l x s).readData = s.readData ∧
      (receiveFlag l x s).bgnt = s.bgnt ∧
      (receiveFlag l x s).stations = s.stations ∧
      (receiveFlag l x s).pollLists = s.pollLists ∧
      (receiveFlag l x s).points = s.points ∧
      (receiveFlag l x s).bindings = s.bindings ∧
      (receiveFlag l x s).mirrorQueue = s.mirrorQueue ∧
      (receiveFlag l x s).slots = s.slots ∧
      (receiveFlag l x s).cmdQueues = s.cmdQueues ∧
      (receiveFlag l x s).tagSets = s.tagSets ∧
      (receiveFlag l x s).doneLists = s.doneLists ∧
      (receiveFlag l x s).mwm = s.mwm ∧
      (receiveFlag l x s).clients = s.clients := by
  unfold receiveFlag
  refine ⟨?_, ?_, ?_, ?_, ?_, ?_, ?_, ?_, ?_, ?_, ?_, ?_, ?_, ?_, ?_, ?_⟩ <;> (try dsimp only) <;> (repeat' split) <;> simp

@[simp] theorem slotOutcome_frame (k : ExchangeKind) (x : ExchangeOutcome) (s : State) :
    (slotOutcome k x s).pending = s.pending ∧
      (slotOutcome k x s).resetN = s.resetN ∧
      (slotOutcome k x s).now = s.now ∧
      (slotOutcome k x s).readData = s.readData ∧
      (slotOutcome k x s).bgnt = s.bgnt ∧
      (slotOutcome k x s).pollLists = s.pollLists ∧
      (slotOutcome k x s).bindings = s.bindings ∧
      (slotOutcome k x s).mirrorQueue = s.mirrorQueue ∧
      (slotOutcome k x s).cmdQueues = s.cmdQueues ∧
      (slotOutcome k x s).mwm = s.mwm := by
  unfold slotOutcome
  refine ⟨?_, ?_, ?_, ?_, ?_, ?_, ?_, ?_, ?_, ?_⟩ <;> (try dsimp only) <;> (repeat' split) <;> simp

@[simp] theorem stationOutcome_frame (l : LinkId) (e : Exchange) (x : ExchangeOutcome) (s : State) :
    (stationOutcome l e x s).pending = s.pending ∧
      (stationOutcome l e x s).resetN = s.resetN ∧
      (stationOutcome l e x s).now = s.now ∧
      (stationOutcome l e x s).readData = s.readData ∧
      (stationOutcome l e x s).bgnt = s.bgnt ∧
      (stationOutcome l e x s).pollLists = s.pollLists ∧
      (stationOutcome l e x s).bindings = s.bindings ∧
      (stationOutcome l e x s).mwm = s.mwm := by
  unfold stationOutcome
  refine ⟨?_, ?_, ?_, ?_, ?_, ?_, ?_, ?_⟩ <;> (try dsimp only) <;> (repeat' split) <;> simp

@[simp] theorem endExchange_frame (l : LinkId) (e : Exchange) (x : ExchangeOutcome) (s : State) :
    (endExchange l e x s).pending = s.pending ∧
      (endExchange l e x s).resetN = s.resetN ∧
      (endExchange l e x s).now = s.now ∧
      (endExchange l e x s).readData = s.readData ∧
      (endExchange l e x s).bgnt = s.bgnt ∧
      (endExchange l e x s).pollLists = s.pollLists ∧
      (endExchange l e x s).bindings = s.bindings ∧
      (endExchange l e x s).mwm = s.mwm := by
  unfold endExchange
  refine ⟨?_, ?_, ?_, ?_, ?_, ?_, ?_, ?_⟩ <;> (try dsimp only) <;> (repeat' split) <;> simp

@[simp] theorem responseExpiry_frame (l : LinkId) (s : State) :
    (responseExpiry l s).pending = s.pending ∧
      (responseExpiry l s).resetN = s.resetN ∧
      (responseExpiry l s).now = s.now ∧
      (responseExpiry l s).readData = s.readData ∧
      (responseExpiry l s).bgnt = s.bgnt ∧
      (responseExpiry l s).pollLists = s.pollLists ∧
      (responseExpiry l s).bindings = s.bindings ∧
      (responseExpiry l s).mwm = s.mwm := by
  unfold responseExpiry
  refine ⟨?_, ?_, ?_, ?_, ?_, ?_, ?_, ?_⟩ <;> (try dsimp only) <;> (repeat' split) <;> simp

@[simp] theorem startBit_frame (l : LinkId) (r d : Bool) (s : State) :
    (startBit l r d s).pending = s.pending ∧
      (startBit l r d s).resetN = s.resetN ∧
      (startBit l r d s).now = s.now ∧
      (startBit l r d s).readData = s.readData ∧
      (startBit l r d s).bgnt = s.bgnt ∧
      (startBit l r d s).pollLists = s.pollLists ∧
      (startBit l r d s).bindings = s.bindings ∧
      (startBit l r d s).mwm = s.mwm := by
  unfold startBit
  refine ⟨?_, ?_, ?_, ?_, ?_, ?_, ?_, ?_⟩ <;> (try dsimp only) <;> (repeat' split) <;> simp

@[simp] theorem receiveCharacter_frame (l : LinkId) (x : Exchange) (rx : Receiver) (b : Byte) (m p : Bool) (s : State) :
    (receiveCharacter l x rx b m p s).pending = s.pending ∧
      (receiveCharacter l x rx b m p s).resetN = s.resetN ∧
      (receiveCharacter l x rx b m p s).now = s.now ∧
      (receiveCharacter l x rx b m p s).readData = s.readData ∧
      (receiveCharacter l x rx b m p s).bgnt = s.bgnt ∧
      (receiveCharacter l x rx b m p s).pollLists = s.pollLists ∧
      (receiveCharacter l x rx b m p s).bindings = s.bindings ∧
      (receiveCharacter l x rx b m p s).mwm = s.mwm := by
  unfold receiveCharacter
  refine ⟨?_, ?_, ?_, ?_, ?_, ?_, ?_, ?_⟩ <;> (try dsimp only) <;> (repeat' split) <;> simp

@[simp] theorem characterReceived_frame (l : LinkId) (b : Byte) (m p : Bool) (s : State) :
    (characterReceived l b m p s).pending = s.pending ∧
      (characterReceived l b m p s).resetN = s.resetN ∧
      (characterReceived l b m p s).now = s.now ∧
      (characterReceived l b m p s).readData = s.readData ∧
      (characterReceived l b m p s).bgnt = s.bgnt ∧
      (characterReceived l b m p s).pollLists = s.pollLists ∧
      (characterReceived l b m p s).bindings = s.bindings ∧
      (characterReceived l b m p s).mwm = s.mwm := by
  unfold characterReceived
  refine ⟨?_, ?_, ?_, ?_, ?_, ?_, ?_, ?_⟩ <;> (try dsimp only) <;> (repeat' split) <;> simp

@[simp] theorem gapExpiry_frame (l : LinkId) (s : State) :
    (gapExpiry l s).pending = s.pending ∧
      (gapExpiry l s).resetN = s.resetN ∧
      (gapExpiry l s).now = s.now ∧
      (gapExpiry l s).readData = s.readData ∧
      (gapExpiry l s).bgnt = s.bgnt ∧
      (gapExpiry l s).pollLists = s.pollLists ∧
      (gapExpiry l s).bindings = s.bindings ∧
      (gapExpiry l s).mwm = s.mwm := by
  unfold gapExpiry
  refine ⟨?_, ?_, ?_, ?_, ?_, ?_, ?_, ?_⟩ <;> (try dsimp only) <;> (repeat' split) <;> simp

@[simp] theorem quietExpiry_frame (l : LinkId) (s : State) :
    (quietExpiry l s).pending = s.pending ∧
      (quietExpiry l s).resetN = s.resetN ∧
      (quietExpiry l s).now = s.now ∧
      (quietExpiry l s).readData = s.readData ∧
      (quietExpiry l s).bgnt = s.bgnt ∧
      (quietExpiry l s).stations = s.stations ∧
      (quietExpiry l s).pollLists = s.pollLists ∧
      (quietExpiry l s).points = s.points ∧
      (quietExpiry l s).bindings = s.bindings ∧
      (quietExpiry l s).mirrorQueue = s.mirrorQueue ∧
      (quietExpiry l s).slots = s.slots ∧
      (quietExpiry l s).cmdQueues = s.cmdQueues ∧
      (quietExpiry l s).tagSets = s.tagSets ∧
      (quietExpiry l s).doneLists = s.doneLists ∧
      (quietExpiry l s).mwm = s.mwm ∧
      (quietExpiry l s).clients = s.clients := by
  unfold quietExpiry
  refine ⟨?_, ?_, ?_, ?_, ?_, ?_, ?_, ?_, ?_, ?_, ?_, ?_, ?_, ?_, ?_, ?_⟩ <;> (try dsimp only) <;> (repeat' split) <;> simp

@[simp] theorem pollGapExpiry_frame (l : LinkId) (s : State) :
    (pollGapExpiry l s).pending = s.pending ∧
      (pollGapExpiry l s).resetN = s.resetN ∧
      (pollGapExpiry l s).now = s.now ∧
      (pollGapExpiry l s).readData = s.readData ∧
      (pollGapExpiry l s).bgnt = s.bgnt ∧
      (pollGapExpiry l s).stations = s.stations ∧
      (pollGapExpiry l s).pollLists = s.pollLists ∧
      (pollGapExpiry l s).points = s.points ∧
      (pollGapExpiry l s).bindings = s.bindings ∧
      (pollGapExpiry l s).mirrorQueue = s.mirrorQueue ∧
      (pollGapExpiry l s).slots = s.slots ∧
      (pollGapExpiry l s).cmdQueues = s.cmdQueues ∧
      (pollGapExpiry l s).tagSets = s.tagSets ∧
      (pollGapExpiry l s).doneLists = s.doneLists ∧
      (pollGapExpiry l s).mwm = s.mwm ∧
      (pollGapExpiry l s).clients = s.clients := by
  unfold pollGapExpiry
  refine ⟨?_, ?_, ?_, ?_, ?_, ?_, ?_, ?_, ?_, ?_, ?_, ?_, ?_, ?_, ?_, ?_⟩ <;> (try dsimp only) <;> (repeat' split) <;> simp

@[simp] theorem enableLink_frame (l : LinkId) (s : State) :
    (enableLink l s).pending = s.pending ∧
      (enableLink l s).resetN = s.resetN ∧
      (enableLink l s).now = s.now ∧
      (enableLink l s).readData = s.readData ∧
      (enableLink l s).bgnt = s.bgnt ∧
      (enableLink l s).pollLists = s.pollLists ∧
      (enableLink l s).points = s.points ∧
      (enableLink l s).bindings = s.bindings ∧
      (enableLink l s).mirrorQueue = s.mirrorQueue ∧
      (enableLink l s).slots = s.slots ∧
      (enableLink l s).cmdQueues = s.cmdQueues ∧
      (enableLink l s).tagSets = s.tagSets ∧
      (enableLink l s).doneLists = s.doneLists ∧
      (enableLink l s).mwm = s.mwm := by
  unfold enableLink
  refine ⟨?_, ?_, ?_, ?_, ?_, ?_, ?_, ?_, ?_, ?_, ?_, ?_, ?_, ?_⟩ <;> dsimp only <;> (repeat' split) <;> first | rfl | (simp; done) | (simp only [State.modifyLink]; exact foldl_keeps _ _ (by simp) _ _)

@[simp] theorem cutCommand_frame (k : Link) (s : State) :
    (cutCommand k s).pending = s.pending ∧
      (cutCommand k s).resetN = s.resetN ∧
      (cutCommand k s).now = s.now ∧
      (cutCommand k s).readData = s.readData ∧
      (cutCommand k s).bgnt = s.bgnt ∧
      (cutCommand k s).pollLists = s.pollLists ∧
      (cutCommand k s).bindings = s.bindings ∧
      (cutCommand k s).mirrorQueue = s.mirrorQueue ∧
      (cutCommand k s).cmdQueues = s.cmdQueues ∧
      (cutCommand k s).mwm = s.mwm := by
  unfold cutCommand
  refine ⟨?_, ?_, ?_, ?_, ?_, ?_, ?_, ?_, ?_, ?_⟩ <;> (try dsimp only) <;> (repeat' split) <;> simp

@[simp] theorem stationLinkOff_frame (sid : Nat) (s : State) :
    (stationLinkOff s sid).pending = s.pending ∧
      (stationLinkOff s sid).resetN = s.resetN ∧
      (stationLinkOff s sid).now = s.now ∧
      (stationLinkOff s sid).readData = s.readData ∧
      (stationLinkOff s sid).bgnt = s.bgnt ∧
      (stationLinkOff s sid).pollLists = s.pollLists ∧
      (stationLinkOff s sid).bindings = s.bindings ∧
      (stationLinkOff s sid).mwm = s.mwm := by
  unfold stationLinkOff
  refine ⟨?_, ?_, ?_, ?_, ?_, ?_, ?_, ?_⟩ <;> (try dsimp only) <;> (repeat' split) <;> simp

@[simp] theorem disableLink_frame (l : LinkId) (s : State) :
    (disableLink l s).pending = s.pending ∧
      (disableLink l s).resetN = s.resetN ∧
      (disableLink l s).now = s.now ∧
      (disableLink l s).readData = s.readData ∧
      (disableLink l s).bgnt = s.bgnt ∧
      (disableLink l s).pollLists = s.pollLists ∧
      (disableLink l s).bindings = s.bindings ∧
      (disableLink l s).mwm = s.mwm := by
  unfold disableLink
  refine ⟨?_, ?_, ?_, ?_, ?_, ?_, ?_, ?_⟩ <;> (dsimp only; split) <;>
    first
      | rfl
      | (simp only [settle_frame]
         refine (foldl_keeps (fun s => _) _ ?_ _ _).trans ?_
         · simp
         · refine (foldl_keeps (fun s => _) _ ?_ _ _).trans ?_ <;> simp)

@[simp] theorem appendedWhileIdle_frame (l : LinkId) (h : Nat) (s : State) :
    (appendedWhileIdle l h s).pending = s.pending ∧
      (appendedWhileIdle l h s).resetN = s.resetN ∧
      (appendedWhileIdle l h s).now = s.now ∧
      (appendedWhileIdle l h s).readData = s.readData ∧
      (appendedWhileIdle l h s).bgnt = s.bgnt ∧
      (appendedWhileIdle l h s).stations = s.stations ∧
      (appendedWhileIdle l h s).pollLists = s.pollLists ∧
      (appendedWhileIdle l h s).points = s.points ∧
      (appendedWhileIdle l h s).bindings = s.bindings ∧
      (appendedWhileIdle l h s).mirrorQueue = s.mirrorQueue ∧
      (appendedWhileIdle l h s).slots = s.slots ∧
      (appendedWhileIdle l h s).cmdQueues = s.cmdQueues ∧
      (appendedWhileIdle l h s).tagSets = s.tagSets ∧
      (appendedWhileIdle l h s).doneLists = s.doneLists ∧
      (appendedWhileIdle l h s).mwm = s.mwm ∧
      (appendedWhileIdle l h s).clients = s.clients := by
  unfold appendedWhileIdle
  refine ⟨?_, ?_, ?_, ?_, ?_, ?_, ?_, ?_, ?_, ?_, ?_, ?_, ?_, ?_, ?_, ?_⟩ <;> (try dsimp only) <;> (repeat' split) <;> simp

@[simp] theorem placeStation_frame (h : Nat) (st : Station) (s : State) :
    (placeStation h st s).pending = s.pending ∧
      (placeStation h st s).resetN = s.resetN ∧
      (placeStation h st s).now = s.now ∧
      (placeStation h st s).readData = s.readData ∧
      (placeStation h st s).bgnt = s.bgnt ∧
      (placeStation h st s).points = s.points ∧
      (placeStation h st s).bindings = s.bindings ∧
      (placeStation h st s).mirrorQueue = s.mirrorQueue ∧
      (placeStation h st s).slots = s.slots ∧
      (placeStation h st s).cmdQueues = s.cmdQueues ∧
      (placeStation h st s).tagSets = s.tagSets ∧
      (placeStation h st s).doneLists = s.doneLists ∧
      (placeStation h st s).mwm = s.mwm ∧
      (placeStation h st s).clients = s.clients := by
  unfold placeStation
  refine ⟨?_, ?_, ?_, ?_, ?_, ?_, ?_, ?_, ?_, ?_, ?_, ?_, ?_, ?_⟩ <;> (try dsimp only) <;> (repeat' split) <;> simp

@[simp] theorem leavePollList_frame (h : Nat) (l : LinkId) (s : State) :
    (leavePollList h l s).pending = s.pending ∧
      (leavePollList h l s).resetN = s.resetN ∧
      (leavePollList h l s).now = s.now ∧
      (leavePollList h l s).readData = s.readData ∧
      (leavePollList h l s).bgnt = s.bgnt ∧
      (leavePollList h l s).stations = s.stations ∧
      (leavePollList h l s).points = s.points ∧
      (leavePollList h l s).bindings = s.bindings ∧
      (leavePollList h l s).mirrorQueue = s.mirrorQueue ∧
      (leavePollList h l s).slots = s.slots ∧
      (leavePollList h l s).cmdQueues = s.cmdQueues ∧
      (leavePollList h l s).tagSets = s.tagSets ∧
      (leavePollList h l s).doneLists = s.doneLists ∧
      (leavePollList h l s).mwm = s.mwm ∧
      (leavePollList h l s).clients = s.clients := by
  unfold leavePollList
  refine ⟨?_, ?_, ?_, ?_, ?_, ?_, ?_, ?_, ?_, ?_, ?_, ?_, ?_, ?_, ?_⟩ <;> (try dsimp only) <;> (repeat' split) <;> simp

@[simp] theorem removeRecord_frame (h : Nat) (st : Station) (s : State) :
    (removeRecord h st s).pending = s.pending ∧
      (removeRecord h st s).resetN = s.resetN ∧
      (removeRecord h st s).now = s.now ∧
      (removeRecord h st s).readData = s.readData ∧
      (removeRecord h st s).bgnt = s.bgnt ∧
      (removeRecord h st s).points = s.points ∧
      (removeRecord h st s).bindings = s.bindings ∧
      (removeRecord h st s).mirrorQueue = s.mirrorQueue ∧
      (removeRecord h st s).slots = s.slots ∧
      (removeRecord h st s).cmdQueues = s.cmdQueues ∧
      (removeRecord h st s).doneLists = s.doneLists ∧
      (removeRecord h st s).mwm = s.mwm ∧
      (removeRecord h st s).clients = s.clients := by
  unfold removeRecord
  refine ⟨?_, ?_, ?_, ?_, ?_, ?_, ?_, ?_, ?_, ?_, ?_, ?_, ?_⟩ <;> (try dsimp only) <;> (repeat' split) <;> simp

@[simp] theorem placePoint_frame (h : Nat) (p : Point) (s : State) :
    (placePoint h p s).pending = s.pending ∧
      (placePoint h p s).resetN = s.resetN ∧
      (placePoint h p s).now = s.now ∧
      (placePoint h p s).readData = s.readData ∧
      (placePoint h p s).bgnt = s.bgnt ∧
      (placePoint h p s).pollLists = s.pollLists ∧
      (placePoint h p s).bindings = s.bindings ∧
      (placePoint h p s).mirrorQueue = s.mirrorQueue ∧
      (placePoint h p s).slots = s.slots ∧
      (placePoint h p s).cmdQueues = s.cmdQueues ∧
      (placePoint h p s).tagSets = s.tagSets ∧
      (placePoint h p s).doneLists = s.doneLists ∧
      (placePoint h p s).links = s.links ∧
      (placePoint h p s).mwm = s.mwm ∧
      (placePoint h p s).clients = s.clients := by
  unfold placePoint
  refine ⟨?_, ?_, ?_, ?_, ?_, ?_, ?_, ?_, ?_, ?_, ?_, ?_, ?_, ?_, ?_⟩ <;> (try dsimp only) <;> (repeat' split) <;> simp

@[simp] theorem retireRecord_frame (h : Nat) (p : Point) (s : State) :
    (retireRecord h p s).pending = s.pending ∧
      (retireRecord h p s).resetN = s.resetN ∧
      (retireRecord h p s).now = s.now ∧
      (retireRecord h p s).readData = s.readData ∧
      (retireRecord h p s).bgnt = s.bgnt ∧
      (retireRecord h p s).pollLists = s.pollLists ∧
      (retireRecord h p s).mwm = s.mwm := by
  unfold retireRecord
  refine ⟨?_, ?_, ?_, ?_, ?_, ?_, ?_⟩ <;> (try dsimp only) <;> (repeat' split) <;> simp

@[simp] theorem placeBinding_frame (b : Nat) (r : Binding) (s : State) :
    (placeBinding b r s).pending = s.pending ∧
      (placeBinding b r s).resetN = s.resetN ∧
      (placeBinding b r s).now = s.now ∧
      (placeBinding b r s).readData = s.readData ∧
      (placeBinding b r s).bgnt = s.bgnt ∧
      (placeBinding b r s).stations = s.stations ∧
      (placeBinding b r s).pollLists = s.pollLists ∧
      (placeBinding b r s).slots = s.slots ∧
      (placeBinding b r s).cmdQueues = s.cmdQueues ∧
      (placeBinding b r s).tagSets = s.tagSets ∧
      (placeBinding b r s).doneLists = s.doneLists ∧
      (placeBinding b r s).links = s.links ∧
      (placeBinding b r s).mwm = s.mwm ∧
      (placeBinding b r s).clients = s.clients := by
  unfold placeBinding
  refine ⟨?_, ?_, ?_, ?_, ?_, ?_, ?_, ?_, ?_, ?_, ?_, ?_, ?_, ?_⟩ <;> (try dsimp only) <;> (repeat' split) <;> simp

@[simp] theorem noticeNewSlot_frame (l : LinkId) (h : Nat) (s : State) :
    (noticeNewSlot l h s).pending = s.pending ∧
      (noticeNewSlot l h s).resetN = s.resetN ∧
      (noticeNewSlot l h s).now = s.now ∧
      (noticeNewSlot l h s).readData = s.readData ∧
      (noticeNewSlot l h s).bgnt = s.bgnt ∧
      (noticeNewSlot l h s).stations = s.stations ∧
      (noticeNewSlot l h s).pollLists = s.pollLists ∧
      (noticeNewSlot l h s).points = s.points ∧
      (noticeNewSlot l h s).bindings = s.bindings ∧
      (noticeNewSlot l h s).mirrorQueue = s.mirrorQueue ∧
      (noticeNewSlot l h s).slots = s.slots ∧
      (noticeNewSlot l h s).cmdQueues = s.cmdQueues ∧
      (noticeNewSlot l h s).tagSets = s.tagSets ∧
      (noticeNewSlot l h s).doneLists = s.doneLists ∧
      (noticeNewSlot l h s).mwm = s.mwm ∧
      (noticeNewSlot l h s).clients = s.clients := by
  unfold noticeNewSlot
  refine ⟨?_, ?_, ?_, ?_, ?_, ?_, ?_, ?_, ?_, ?_, ?_, ?_, ?_, ?_, ?_, ?_⟩ <;> (try dsimp only) <;> (repeat' split) <;> simp

@[simp] theorem placeSlot_frame (h : Nat) (r : Slot) (l : LinkId) (s : State) :
    (placeSlot h r l s).pending = s.pending ∧
      (placeSlot h r l s).resetN = s.resetN ∧
      (placeSlot h r l s).now = s.now ∧
      (placeSlot h r l s).readData = s.readData ∧
      (placeSlot h r l s).bgnt = s.bgnt ∧
      (placeSlot h r l s).stations = s.stations ∧
      (placeSlot h r l s).pollLists = s.pollLists ∧
      (placeSlot h r l s).bindings = s.bindings ∧
      (placeSlot h r l s).mirrorQueue = s.mirrorQueue ∧
      (placeSlot h r l s).tagSets = s.tagSets ∧
      (placeSlot h r l s).doneLists = s.doneLists ∧
      (placeSlot h r l s).mwm = s.mwm ∧
      (placeSlot h r l s).clients = s.clients := by
  unfold placeSlot
  refine ⟨?_, ?_, ?_, ?_, ?_, ?_, ?_, ?_, ?_, ?_, ?_, ?_, ?_⟩ <;> (try dsimp only) <;> (repeat' split) <;> simp

@[simp] theorem setPhase_frame (p : Phase) (s : State) :
    (setPhase p s).pending = s.pending ∧
      (setPhase p s).resetN = s.resetN ∧
      (setPhase p s).now = s.now ∧
      (setPhase p s).readData = s.readData ∧
      (setPhase p s).bgnt = s.bgnt ∧
      (setPhase p s).stations = s.stations ∧
      (setPhase p s).pollLists = s.pollLists ∧
      (setPhase p s).points = s.points ∧
      (setPhase p s).bindings = s.bindings ∧
      (setPhase p s).mirrorQueue = s.mirrorQueue ∧
      (setPhase p s).slots = s.slots ∧
      (setPhase p s).cmdQueues = s.cmdQueues ∧
      (setPhase p s).tagSets = s.tagSets ∧
      (setPhase p s).doneLists = s.doneLists ∧
      (setPhase p s).links = s.links ∧
      (setPhase p s).clients = s.clients := by
  unfold setPhase
  refine ⟨?_, ?_, ?_, ?_, ?_, ?_, ?_, ?_, ?_, ?_, ?_, ?_, ?_, ?_, ?_, ?_⟩ <;> (try dsimp only) <;> (repeat' split) <;> simp

@[simp] theorem startTransaction_frame (o : Owner) (a : Word) (k : BitVec 4) (w : WriteKind) (d : List Word) (s : State) :
    (startTransaction o a k w d s).pending = s.pending ∧
      (startTransaction o a k w d s).resetN = s.resetN ∧
      (startTransaction o a k w d s).now = s.now ∧
      (startTransaction o a k w d s).readData = s.readData ∧
      (startTransaction o a k w d s).bgnt = s.bgnt ∧
      (startTransaction o a k w d s).stations = s.stations ∧
      (startTransaction o a k w d s).pollLists = s.pollLists ∧
      (startTransaction o a k w d s).points = s.points ∧
      (startTransaction o a k w d s).bindings = s.bindings ∧
      (startTransaction o a k w d s).mirrorQueue = s.mirrorQueue ∧
      (startTransaction o a k w d s).slots = s.slots ∧
      (startTransaction o a k w d s).cmdQueues = s.cmdQueues ∧
      (startTransaction o a k w d s).tagSets = s.tagSets ∧
      (startTransaction o a k w d s).doneLists = s.doneLists ∧
      (startTransaction o a k w d s).links = s.links ∧
      (startTransaction o a k w d s).clients = s.clients := by
  unfold startTransaction
  refine ⟨?_, ?_, ?_, ?_, ?_, ?_, ?_, ?_, ?_, ?_, ?_, ?_, ?_, ?_, ?_, ?_⟩ <;> (try dsimp only) <;> (repeat' split) <;> simp

@[simp] theorem startMirror_frame (b : Nat) (r : Binding) (p : Point) (s : State) :
    (startMirror b r p s).pending = s.pending ∧
      (startMirror b r p s).resetN = s.resetN ∧
      (startMirror b r p s).now = s.now ∧
      (startMirror b r p s).readData = s.readData ∧
      (startMirror b r p s).bgnt = s.bgnt ∧
      (startMirror b r p s).stations = s.stations ∧
      (startMirror b r p s).pollLists = s.pollLists ∧
      (startMirror b r p s).points = s.points ∧
      (startMirror b r p s).slots = s.slots ∧
      (startMirror b r p s).cmdQueues = s.cmdQueues ∧
      (startMirror b r p s).tagSets = s.tagSets ∧
      (startMirror b r p s).doneLists = s.doneLists ∧
      (startMirror b r p s).links = s.links ∧
      (startMirror b r p s).clients = s.clients := by
  unfold startMirror
  refine ⟨?_, ?_, ?_, ?_, ?_, ?_, ?_, ?_, ?_, ?_, ?_, ?_, ?_, ?_⟩ <;> (try dsimp only) <;> (repeat' split) <;> simp

@[simp] theorem mirrorWriteStart_frame  (s : State) :
    (mirrorWriteStart s).pending = s.pending ∧
      (mirrorWriteStart s).resetN = s.resetN ∧
      (mirrorWriteStart s).now = s.now ∧
      (mirrorWriteStart s).readData = s.readData ∧
      (mirrorWriteStart s).bgnt = s.bgnt ∧
      (mirrorWriteStart s).stations = s.stations ∧
      (mirrorWriteStart s).pollLists = s.pollLists ∧
      (mirrorWriteStart s).points = s.points ∧
      (mirrorWriteStart s).slots = s.slots ∧
      (mirrorWriteStart s).cmdQueues = s.cmdQueues ∧
      (mirrorWriteStart s).tagSets = s.tagSets ∧
      (mirrorWriteStart s).doneLists = s.doneLists ∧
      (mirrorWriteStart s).links = s.links ∧
      (mirrorWriteStart s).clients = s.clients := by
  unfold mirrorWriteStart
  refine ⟨?_, ?_, ?_, ?_, ?_, ?_, ?_, ?_, ?_, ?_, ?_, ?_, ?_, ?_⟩ <;> (try dsimp only) <;> (repeat' split) <;> simp

@[simp] theorem messageWriteStart_frame  (s : State) :
    (messageWriteStart s).pending = s.pending ∧
      (messageWriteStart s).resetN = s.resetN ∧
      (messageWriteStart s).now = s.now ∧
      (messageWriteStart s).readData = s.readData ∧
      (messageWriteStart s).bgnt = s.bgnt ∧
      (messageWriteStart s).stations = s.stations ∧
      (messageWriteStart s).pollLists = s.pollLists ∧
      (messageWriteStart s).points = s.points ∧
      (messageWriteStart s).bindings = s.bindings ∧
      (messageWriteStart s).mirrorQueue = s.mirrorQueue ∧
      (messageWriteStart s).slots = s.slots ∧
      (messageWriteStart s).cmdQueues = s.cmdQueues ∧
      (messageWriteStart s).tagSets = s.tagSets ∧
      (messageWriteStart s).doneLists = s.doneLists ∧
      (messageWriteStart s).links = s.links := by
  unfold messageWriteStart
  refine ⟨?_, ?_, ?_, ?_, ?_, ?_, ?_, ?_, ?_, ?_, ?_, ?_, ?_, ?_, ?_⟩ <;> (try dsimp only) <;> (repeat' split) <;> simp

@[simp] theorem mirrorEndOk_frame (b : Nat) (f : Bool) (s : State) :
    (mirrorEndOk b f s).pending = s.pending ∧
      (mirrorEndOk b f s).resetN = s.resetN ∧
      (mirrorEndOk b f s).now = s.now ∧
      (mirrorEndOk b f s).readData = s.readData ∧
      (mirrorEndOk b f s).bgnt = s.bgnt ∧
      (mirrorEndOk b f s).pollLists = s.pollLists ∧
      (mirrorEndOk b f s).slots = s.slots ∧
      (mirrorEndOk b f s).cmdQueues = s.cmdQueues ∧
      (mirrorEndOk b f s).tagSets = s.tagSets ∧
      (mirrorEndOk b f s).doneLists = s.doneLists ∧
      (mirrorEndOk b f s).links = s.links ∧
      (mirrorEndOk b f s).mwm = s.mwm ∧
      (mirrorEndOk b f s).clients = s.clients := by
  unfold mirrorEndOk
  refine ⟨?_, ?_, ?_, ?_, ?_, ?_, ?_, ?_, ?_, ?_, ?_, ?_, ?_⟩ <;> (try dsimp only) <;> (repeat' split) <;> simp

@[simp] theorem mirrorEndError_frame (b : Nat) (e : WriteError) (s : State) :
    (mirrorEndError b e s).pending = s.pending ∧
      (mirrorEndError b e s).resetN = s.resetN ∧
      (mirrorEndError b e s).now = s.now ∧
      (mirrorEndError b e s).readData = s.readData ∧
      (mirrorEndError b e s).bgnt = s.bgnt ∧
      (mirrorEndError b e s).pollLists = s.pollLists ∧
      (mirrorEndError b e s).slots = s.slots ∧
      (mirrorEndError b e s).cmdQueues = s.cmdQueues ∧
      (mirrorEndError b e s).tagSets = s.tagSets ∧
      (mirrorEndError b e s).doneLists = s.doneLists ∧
      (mirrorEndError b e s).links = s.links ∧
      (mirrorEndError b e s).mwm = s.mwm := by
  unfold mirrorEndError
  refine ⟨?_, ?_, ?_, ?_, ?_, ?_, ?_, ?_, ?_, ?_, ?_, ?_⟩ <;> (try dsimp only) <;> (repeat' split) <;> simp

@[simp] theorem handOn_frame (o : Owner) (e : Option WriteError) (s : State) :
    (handOn o e s).pending = s.pending ∧
      (handOn o e s).resetN = s.resetN ∧
      (handOn o e s).now = s.now ∧
      (handOn o e s).readData = s.readData ∧
      (handOn o e s).bgnt = s.bgnt ∧
      (handOn o e s).pollLists = s.pollLists ∧
      (handOn o e s).slots = s.slots ∧
      (handOn o e s).cmdQueues = s.cmdQueues ∧
      (handOn o e s).tagSets = s.tagSets ∧
      (handOn o e s).doneLists = s.doneLists ∧
      (handOn o e s).links = s.links ∧
      (handOn o e s).mwm = s.mwm := by
  unfold handOn
  refine ⟨?_, ?_, ?_, ?_, ?_, ?_, ?_, ?_, ?_, ?_, ?_, ?_⟩ <;> (try dsimp only) <;> (repeat' split) <;> simp

@[simp] theorem endTransaction_frame (t : Transaction) (e : Option WriteError) (s : State) :
    (endTransaction t e s).pending = s.pending ∧
      (endTransaction t e s).resetN = s.resetN ∧
      (endTransaction t e s).now = s.now ∧
      (endTransaction t e s).readData = s.readData ∧
      (endTransaction t e s).bgnt = s.bgnt ∧
      (endTransaction t e s).pollLists = s.pollLists ∧
      (endTransaction t e s).slots = s.slots ∧
      (endTransaction t e s).cmdQueues = s.cmdQueues ∧
      (endTransaction t e s).tagSets = s.tagSets ∧
      (endTransaction t e s).doneLists = s.doneLists ∧
      (endTransaction t e s).links = s.links := by
  unfold endTransaction
  refine ⟨?_, ?_, ?_, ?_, ?_, ?_, ?_, ?_, ?_, ?_, ?_⟩ <;> (try dsimp only) <;> (repeat' split) <;> simp

@[simp] theorem busGrant_frame  (s : State) :
    (busGrant s).pending = s.pending ∧
      (busGrant s).resetN = s.resetN ∧
      (busGrant s).now = s.now ∧
      (busGrant s).readData = s.readData ∧
      (busGrant s).stations = s.stations ∧
      (busGrant s).pollLists = s.pollLists ∧
      (busGrant s).points = s.points ∧
      (busGrant s).bindings = s.bindings ∧
      (busGrant s).mirrorQueue = s.mirrorQueue ∧
      (busGrant s).slots = s.slots ∧
      (busGrant s).cmdQueues = s.cmdQueues ∧
      (busGrant s).tagSets = s.tagSets ∧
      (busGrant s).doneLists = s.doneLists ∧
      (busGrant s).links = s.links ∧
      (busGrant s).clients = s.clients := by
  unfold busGrant
  refine ⟨?_, ?_, ?_, ?_, ?_, ?_, ?_, ?_, ?_, ?_, ?_, ?_, ?_, ?_, ?_⟩ <;> (try dsimp only) <;> (repeat' split) <;> simp

@[simp] theorem busAccept_frame  (s : State) :
    (busAccept s).pending = s.pending ∧
      (busAccept s).resetN = s.resetN ∧
      (busAccept s).now = s.now ∧
      (busAccept s).readData = s.readData ∧
      (busAccept s).bgnt = s.bgnt ∧
      (busAccept s).stations = s.stations ∧
      (busAccept s).pollLists = s.pollLists ∧
      (busAccept s).points = s.points ∧
      (busAccept s).bindings = s.bindings ∧
      (busAccept s).mirrorQueue = s.mirrorQueue ∧
      (busAccept s).slots = s.slots ∧
      (busAccept s).cmdQueues = s.cmdQueues ∧
      (busAccept s).tagSets = s.tagSets ∧
      (busAccept s).doneLists = s.doneLists ∧
      (busAccept s).links = s.links ∧
      (busAccept s).clients = s.clients := by
  unfold busAccept
  refine ⟨?_, ?_, ?_, ?_, ?_, ?_, ?_, ?_, ?_, ?_, ?_, ?_, ?_, ?_, ?_, ?_⟩ <;> (try dsimp only) <;> (repeat' split) <;> simp

@[simp] theorem busEnd_frame (a : Bool) (e : EndStatus) (s : State) :
    (busEnd a e s).pending = s.pending ∧
      (busEnd a e s).resetN = s.resetN ∧
      (busEnd a e s).now = s.now ∧
      (busEnd a e s).readData = s.readData ∧
      (busEnd a e s).bgnt = s.bgnt ∧
      (busEnd a e s).pollLists = s.pollLists ∧
      (busEnd a e s).slots = s.slots ∧
      (busEnd a e s).cmdQueues = s.cmdQueues ∧
      (busEnd a e s).tagSets = s.tagSets ∧
      (busEnd a e s).doneLists = s.doneLists ∧
      (busEnd a e s).links = s.links := by
  unfold busEnd
  refine ⟨?_, ?_, ?_, ?_, ?_, ?_, ?_, ?_, ?_, ?_, ?_⟩ <;> (try dsimp only) <;> (repeat' split) <;> simp

@[simp] theorem busTimeout_frame  (s : State) :
    (busTimeout s).pending = s.pending ∧
      (busTimeout s).resetN = s.resetN ∧
      (busTimeout s).now = s.now ∧
      (busTimeout s).readData = s.readData ∧
      (busTimeout s).bgnt = s.bgnt ∧
      (busTimeout s).pollLists = s.pollLists ∧
      (busTimeout s).slots = s.slots ∧
      (busTimeout s).cmdQueues = s.cmdQueues ∧
      (busTimeout s).tagSets = s.tagSets ∧
      (busTimeout s).doneLists = s.doneLists ∧
      (busTimeout s).links = s.links := by
  unfold busTimeout
  refine ⟨?_, ?_, ?_, ?_, ?_, ?_, ?_, ?_, ?_, ?_, ?_⟩ <;> (try dsimp only) <;> (repeat' split) <;> simp

end Sys2Proof.Machine
end

