-- ==== Sys2Proof/Laws/Commands.lean ====
section
/-! SUPPORT. What the Command Tracker's shared operations do, said once: the tag operations, the entry of a
slot into DONE as one equation of the state, and the test of a point for freeing. -/

namespace Sys2Proof.Machine

/-! ## States by their fields -/

/-- An operation that touches only tag sets and links, as an equation of the state. -/
theorem eq_with_tags_links (s t : State) (h : t.pending = s.pending ∧ t.resetN = s.resetN ∧
    t.now = s.now ∧ t.readData = s.readData ∧ t.bgnt = s.bgnt ∧ t.stations = s.stations ∧
    t.pollLists = s.pollLists ∧ t.points = s.points ∧ t.bindings = s.bindings ∧
    t.mirrorQueue = s.mirrorQueue ∧ t.slots = s.slots ∧ t.cmdQueues = s.cmdQueues ∧
    t.doneLists = s.doneLists ∧ t.mwm = s.mwm ∧ t.clients = s.clients) :
    t = { s with tagSets := t.tagSets, links := t.links } := by
  obtain ⟨h1, h2, h3, h4, h5, h6, h7, h8, h9, h10, h11, h12, h13, h14, h15⟩ := h
  cases s
  cases t
  simp_all

/-! ## Tags -/

@[simp] theorem Link.openInGap_of_ne (k : Link) (h : k.activity ≠ .gap) : k.openInGap = k := by
  simp [Link.openInGap, h]

/-- R93: where the station's link is not in GAP, a freed tag is noticed by nothing. -/
theorem noticeFreedTag_quiet (sid : Nat) (before : Bool) (s : State)
    (h : ∀ st, s.stations.find sid = some st → (s.link st.link).activity ≠ .gap) :
    noticeFreedTag sid before s = s := by
  unfold noticeFreedTag
  split
  · rfl
  · rename_i st hst
    split
    · have hk : (s.links.get st.link).openInGap = s.links.get st.link :=
        Link.openInGap_of_ne _ (h st hst)
      have hq : s.links.modify st.link Link.openInGap = s.links := by
        apply Quad.ext_get
        intro i
        rw [Quad.get_modify]
        split
        · rename_i hi
          rw [hi, hk]
        · rfl
      show { s with links := s.links.modify st.link Link.openInGap } = s
      rw [hq]
    · rfl

/-- R93: where the station already had room, a freed tag makes no slot eligible that was not. -/
theorem noticeFreedTag_hadRoom (sid : Nat) (s : State) : noticeFreedTag sid true s = s := by
  unfold noticeFreedTag
  split
  · rfl
  · simp

/-- R111: tag sets are read back as they were set. -/
@[simp] theorem State.tagSet_setTagSet_same (s : State) (sid : Nat) (t : Table TagUse) :
    (s.setTagSet sid t).tagSet sid = t := by
  unfold State.tagSet State.setTagSet
  cases ht : t.rows with
  | nil =>
    simp
    cases t
    simp_all
  | cons => simp

theorem State.tagSet_setTagSet_ne (s : State) {sid sid' : Nat} (t : Table TagUse) (h : sid' ≠ sid) :
    (s.setTagSet sid t).tagSet sid' = s.tagSet sid' := by
  unfold State.tagSet State.setTagSet
  split
  · simp [Table.find_drop_ne _ h]
  · simp [Table.find_put_ne _ _ h]

/-! ## DONE (R112) -/

/-- R112: the entry of a slot into DONE as one equation; the last step tests the point for freeing. -/
theorem finishSlot_eq {s : State} {h : Nat} {r : Slot} (hr : s.slots.find h = some r)
    (result : CommandResult) (code : Byte) (fate : TagFate) :
    finishSlot h result code fate s = testFree r.point { s with
      tagSets := (releaseTag r fate s).tagSets
      links := (releaseTag r fate s).links
      slots := s.slots.put h (r.finish result code)
      points := s.points.modify r.point (fun p => { p with pendingCmd := none })
      doneLists := s.doneLists.modify r.client (fun d => d ++ [h])
      clients := s.clients.modify r.client (fun k =>
        { k with sticky := k.sticky.raise .commandDone }) } := by
  unfold finishSlot
  rw [hr]
  have e := eq_with_tags_links s (releaseTag r fate s) (by simp)
  dsimp only
  generalize releaseTag r fate s = t at e ⊢
  rw [e]
  rfl

/-- A FREE slot does not enter DONE. -/
theorem finishSlot_free {s : State} {h : Nat} (hr : s.slots.find h = none) (result : CommandResult)
    (code : Byte) (fate : TagFate) : finishSlot h result code fate s = s := by
  simp [finishSlot, hr]

/-- R112: the windows after a slot's entry into DONE: COMMAND_DONE is raised for its owner. -/
theorem finishSlot_clients {s : State} {h : Nat} {r : Slot} (hr : s.slots.find h = some r)
    (result : CommandResult) (code : Byte) (fate : TagFate) :
    (finishSlot h result code fate s).clients = s.clients.modify r.client (fun k =>
      { k with sticky := k.sticky.raise .commandDone }) := by
  rw [finishSlot_eq hr]
  simp

/-- R112: the slots after a slot's entry into DONE. -/
theorem finishSlot_slots {s : State} {h : Nat} {r : Slot} (hr : s.slots.find h = some r)
    (result : CommandResult) (code : Byte) (fate : TagFate) :
    (finishSlot h result code fate s).slots = s.slots.put h (r.finish result code) := by
  rw [finishSlot_eq hr]
  simp

/-- R112: the done lists after a slot's entry into DONE. -/
theorem finishSlot_doneLists {s : State} {h : Nat} {r : Slot} (hr : s.slots.find h = some r)
    (result : CommandResult) (code : Byte) (fate : TagFate) :
    (finishSlot h result code fate s).doneLists = s.doneLists.modify r.client (fun d => d ++ [h]) := by
  rw [finishSlot_eq hr]
  simp

/-- R25: a point that is not RETIRING, or still has a command or a binding, is not freed. -/
theorem testFree_stays {s : State} {h : Nat}
    (hp : ∀ p, s.points.find h = some p →
      p.state ≠ .retiring ∨ p.pendingCmd ≠ none ∨ p.bindings ≠ []) : testFree h s = s := by
  unfold testFree
  split
  · rfl
  · rename_i p hf
    rcases hp p hf with h1 | h1 | h1 <;> simp [h1]

/-- R25: a RETIRING point with no command and no binding is freed. -/
theorem testFree_frees {s : State} {h : Nat} {p : Point} (hp : s.points.find h = some p)
    (h1 : p.state = .retiring) (h2 : p.pendingCmd = none) (h3 : p.bindings = []) :
    testFree h s = freePoint h p s := by
  simp [testFree, hp, h1, h2, h3]

/-- R112: the entry into DONE of a slot whose point is not RETIRING. -/
theorem finishSlot_live {s : State} {h : Nat} {r : Slot} (hr : s.slots.find h = some r) {p : Point}
    (hp : s.points.find r.point = some p) (hs : p.state ≠ .retiring) (result : CommandResult)
    (code : Byte) (fate : TagFate) :
    finishSlot h result code fate s = { s with
      tagSets := (releaseTag r fate s).tagSets
      links := (releaseTag r fate s).links
      slots := s.slots.put h (r.finish result code)
      points := s.points.put r.point { p with pendingCmd := none }
      doneLists := s.doneLists.modify r.client (fun d => d ++ [h])
      clients := s.clients.modify r.client (fun k =>
        { k with sticky := k.sticky.raise .commandDone }) } := by
  rw [finishSlot_eq hr, testFree_stays, Table.modify_some _ _ hp]
  intro q hq
  left
  simp [hp] at hq
  rw [← hq]
  exact hs

end Sys2Proof.Machine
end

