-- ==== Sys2Proof/Laws/Commute.lean ====
section
/-! SUPPORT. The shared operations that do not look at the windows commute with an update of a window, so
that a request taken out of its FIFO is carried through the operation its owner performs. -/

namespace Sys2Proof.Machine

variable (s : State) (c : ClientId) (f : Client → Client)

/-- A list of operations that commute with an update commutes with it. -/
theorem foldl_modifyClient {α : Type} (g : State → α → State)
    (hg : ∀ s a, g (s.modifyClient c f) a = (g s a).modifyClient c f) (xs : List α) (s : State) :
    xs.foldl g (s.modifyClient c f) = (xs.foldl g s).modifyClient c f := by
  induction xs generalizing s with
  | nil => rfl
  | cons x r ih => rw [List.foldl_cons, List.foldl_cons, hg, ih]

theorem queueBinding_modifyClient (b : Nat) :
    queueBinding b (s.modifyClient c f) = (queueBinding b s).modifyClient c f := by
  unfold queueBinding
  rw [State.modifyClient_mirrorQueue]
  by_cases h : s.mirrorQueue.contains b = true
  · rw [if_pos h, if_pos h]
  · rw [if_neg h, if_neg h]
    rfl

theorem unqueueBinding_modifyClient (b : Nat) :
    unqueueBinding b (s.modifyClient c f) = (unqueueBinding b s).modifyClient c f := rfl

theorem testFree_modifyClient (h : Nat) :
    testFree h (s.modifyClient c f) = (testFree h s).modifyClient c f := by
  unfold testFree
  rw [State.modifyClient_points]
  cases s.points.find h with
  | none => rfl
  | some p =>
    dsimp only
    by_cases hp : p.state = .retiring ∧ p.pendingCmd = none ∧ p.bindings = []
    · rw [if_pos hp, if_pos hp]
      rfl
    · rw [if_neg hp, if_neg hp]

theorem freeBinding_modifyClient (b : Nat) :
    freeBinding b (s.modifyClient c f) = (freeBinding b s).modifyClient c f := by
  unfold freeBinding
  rw [State.modifyClient_bindings]
  cases s.bindings.find b with
  | none => rfl
  | some r =>
    exact testFree_modifyClient
      ((unqueueBinding b { s with bindings := s.bindings.drop b }).modifyPoint r.point
        (fun p => { p with bindings := without p.bindings b })) c f r.point

theorem queueIfSelected_modifyClient (e : EventClass) (b : Nat) :
    queueIfSelected e (s.modifyClient c f) b = (queueIfSelected e s b).modifyClient c f := by
  unfold queueIfSelected
  rw [State.modifyClient_bindings]
  cases s.bindings.find b with
  | none => rfl
  | some r =>
    dsimp only
    by_cases hr : r.state = .active ∧ r.trigger.selects e = true
    · rw [if_pos hr, if_pos hr]
      exact queueBinding_modifyClient s c f b
    · rw [if_neg hr, if_neg hr]

theorem pointEvent_modifyClient (h : Nat) (e : EventClass) :
    pointEvent h e (s.modifyClient c f) = (pointEvent h e s).modifyClient c f := by
  unfold pointEvent
  rw [State.modifyClient_points]
  cases s.points.find h with
  | none => rfl
  | some p => exact foldl_modifyClient c f _ (fun s b => queueIfSelected_modifyClient s c f e b) _ s

theorem closeBinding_modifyClient (b : Nat) :
    closeBinding (s.modifyClient c f) b = (closeBinding s b).modifyClient c f := by
  unfold closeBinding
  rw [State.modifyClient_bindings]
  cases s.bindings.find b with
  | none => rfl
  | some r =>
    cases hr : r.state with
    | active =>
      simp only [hr]
      exact queueBinding_modifyClient
        (s.modifyBinding b (fun r => { r with state := .closing })) c f b
    | suspended =>
      simp only [hr]
      exact freeBinding_modifyClient s c f b
    | closing => simp only [hr]
    | detaching => simp only [hr]

theorem closeBindings_modifyClient (h : Nat) :
    closeBindings h (s.modifyClient c f) = (closeBindings h s).modifyClient c f := by
  unfold closeBindings
  rw [State.modifyClient_points]
  cases s.points.find h with
  | none => rfl
  | some p => exact foldl_modifyClient c f _ (fun s b => closeBinding_modifyClient s c f b) _ s

end Sys2Proof.Machine
end

