-- ==== Sys2Proof/Laws/Ends.lean ====
section
/-! SUPPORT. The end of an exchange, said once for the four commands that bring it; the bindings asked for
at a quality event; and the bits of a frame and the bytes of a driven write, said by position. -/

namespace Sys2Proof.Machine

/-! ## The end of an exchange -/

/-- R79, R82 to R84: whichever command ends an exchange, its meaning is that end, of the machine as the
command found it but for the closing character. -/
theorem ExchangeEnds.exec {s u : State} {l : LinkId} {x : Exchange} {i : Instr} {o : ExchangeOutcome}
    (h : ExchangeEnds s l x i o u) (hr : s.resetN = true) :
    Machine.exec i s = .next (endExchange l x o u) := by
  cases h with
  | response d h => simp [Machine.exec, execResponseDeadlineExpiry, inService, responseExpiry, hr, h]
  | falseStart d h hc =>
    simp [Machine.exec, execStartBitDetected, inService, startBit, responseExpiry, hr, h, hc]
  | gap rx g h hg => simp [Machine.exec, execGapDeadlineExpiry, inService, gapExpiry, hr, h, hg]
  | character rx data mark stop o h hc =>
    rcases h with h | ⟨d, h, rfl⟩ <;>
      simp [Machine.exec, execCharacterReceived, inService, characterReceived, receiveCharacter, hr, h,
        hc]

/-- R84, R89, R95: the end of an exchange is its receive flag, its outcome at the station, and QUIET. -/
theorem endExchange_quieted (l : LinkId) (x : Exchange) (o : ExchangeOutcome) (s : State) :
    endExchange l x o s = (stationOutcome l x o (receiveFlag l o s)).quieted l x := rfl

/-! ## The bindings asked for -/

@[simp] theorem askedFor_nil (q : List Nat) : askedFor q [] = q := rfl

theorem askedFor_cons (q : List Nat) (b : Nat) (bs : List Nat) :
    askedFor q (b :: bs) = askedFor (if b ∈ q then q else q ++ [b]) bs := rfl

theorem askedFor_append (q bs cs : List Nat) : askedFor q (bs ++ cs) = askedFor (askedFor q bs) cs :=
  List.foldl_append

theorem State.agedBindings_cons (s : State) (h : Nat) (r : List Nat) :
    s.agedBindings (h :: r) = s.agedBindings [h] ++ s.agedBindings r := by
  simp [State.agedBindings]

/-- R35, R54: a quality event asks for every ACTIVE binding of its point, and changes nothing else. -/
theorem pointEvent_quality {s : State} {h : Nat} {p : Point} (hp : s.points.find h = some p) :
    pointEvent h .quality s =
      { s with mirrorQueue := askedFor s.mirrorQueue (s.activeBindings p) } := by
  unfold pointEvent
  rw [hp]
  unfold State.activeBindings
  show p.bindings.foldl (queueIfSelected .quality) s = _
  generalize p.bindings = bs
  induction bs generalizing s with
  | nil => rfl
  | cons b r ih =>
    rw [List.foldl_cons]
    have hstep : queueIfSelected .quality s b =
        { s with mirrorQueue := askedFor s.mirrorQueue ([b].filter s.isActive) } := by
      cases hb : s.bindings.find b with
      | none => simp [queueIfSelected, State.isActive, hb]
      | some x =>
        by_cases ha : x.state = .active
        · by_cases hm : b ∈ s.mirrorQueue <;>
            simp [queueIfSelected, queueBinding, Trigger.selects, askedFor, State.isActive, hb, ha, hm]
        · simp [queueIfSelected, State.isActive, hb, ha]
    rw [hstep, ih (by exact hp)]
    show { s with
      mirrorQueue := askedFor (askedFor s.mirrorQueue ([b].filter s.isActive)) (r.filter s.isActive) } = _
    rw [← askedFor_append, ← List.filter_append, List.singleton_append]

/-! ## The bits of a frame -/

@[simp] theorem characterBits_length (data : Byte) (mark : Bool) :
    (characterBits data mark).length = 11 := rfl

/-- R69: the eight data bits follow the start bit, the least significant first. -/
theorem characterBits_data (data : Byte) (mark : Bool) (j : Fin 8) :
    (characterBits data mark)[1 + j.val]? = some (data.getLsbD j.val) := by
  fin_cases j <;> rfl

/-! ## The bytes of a driven write -/

@[simp] theorem bytesFrom_length (a : Word) (bs : List Byte) : (bytesFrom a bs).length = bs.length := by
  induction bs generalizing a with
  | nil => rfl
  | cons b r ih => simp [bytesFrom, ih]

/-- R165: the byte at a position, with its address. -/
theorem bytesFrom_getElem? (a : Word) (bs : List Byte) (n : Nat) :
    (bytesFrom a bs)[n]? = bs[n]?.map (fun b => (a + BitVec.ofNat 32 n, b)) := by
  induction bs generalizing a n with
  | nil => simp [bytesFrom]
  | cons b r ih =>
    cases n with
    | zero => simp [bytesFrom]
    | succ n =>
      have h : a + 1#32 + BitVec.ofNat 32 n = a + BitVec.ofNat 32 (n + 1) := by
        rw [BitVec.add_assoc, Nat.add_comm n 1, BitVec.ofNat_add]
      simp only [bytesFrom, List.getElem?_cons_succ, ih]
      exact congrArg (fun x => r[n]?.map (fun b => (x, b))) h

@[simp] theorem wordBytes_length (w : Word) : (wordBytes w).length = 4 := rfl

/-- R165: a word is little-endian: byte `j` holds its bits from `8 j` on. -/
theorem wordBytes_getElem? (w : Word) (j : Fin 4) :
    (wordBytes w)[j.val]? = some (w.extractLsb' (8 * j.val) 8) := by
  fin_cases j <;> rfl

/-- R165: words take four bytes each. -/
theorem flatMap_wordBytes_length (ws : List Word) : (ws.flatMap wordBytes).length = 4 * ws.length := by
  induction ws with
  | nil => rfl
  | cons w r ih =>
    rw [List.flatMap_cons, List.length_append, ih, wordBytes_length, List.length_cons]
    omega

/-- R165: the bytes of word `i` stand from position `4 i` on. -/
theorem flatMap_wordBytes_getElem? (ws : List Word) (i : Nat) (j : Fin 4) :
    (ws.flatMap wordBytes)[4 * i + j.val]? = ws[i]?.map (fun w => w.extractLsb' (8 * j.val) 8) := by
  induction ws generalizing i with
  | nil => simp
  | cons w r ih =>
    rw [List.flatMap_cons]
    cases i with
    | zero =>
      rw [List.getElem?_append_left (by rw [wordBytes_length]; omega), Nat.mul_zero, Nat.zero_add,
        wordBytes_getElem?]
      rfl
    | succ i =>
      rw [List.getElem?_append_right (by rw [wordBytes_length]; omega), wordBytes_length,
        show 4 * (i + 1) + j.val - 4 = 4 * i + j.val by omega, ih]
      rfl

end Sys2Proof.Machine
end

