-- ==== Sys2Proof/Laws/Links.lean ====
section
/-! SUPPORT. What the arbiter does at a decision point, said once: its four outcomes, the fields it leaves
unchanged, and the flag words of a link. -/

namespace Sys2Proof.Machine

/-! ## Flags -/

/-- The words of the eleven status flags (Table 11-2). -/
theorem LinkFlag.words :
    BitVec.twoPow 11 LinkFlag.frameError.bit = 0x001#11 ∧
      BitVec.twoPow 11 LinkFlag.crcError.bit = 0x002#11 ∧
      BitVec.twoPow 11 LinkFlag.lengthError.bit = 0x004#11 ∧
      BitVec.twoPow 11 LinkFlag.addressMismatch.bit = 0x008#11 ∧
      BitVec.twoPow 11 LinkFlag.kindMismatch.bit = 0x010#11 ∧
      BitVec.twoPow 11 LinkFlag.noResponse.bit = 0x020#11 ∧
      BitVec.twoPow 11 LinkFlag.unexpectedCompletion.bit = 0x040#11 ∧
      BitVec.twoPow 11 LinkFlag.discardedCompletion.bit = 0x080#11 ∧
      BitVec.twoPow 11 LinkFlag.stationSilent.bit = 0x100#11 ∧
      BitVec.twoPow 11 LinkFlag.stationPresent.bit = 0x200#11 ∧
      BitVec.twoPow 11 LinkFlag.configError.bit = 0x400#11 := by decide

/-! ## Lists and positions -/

/-- R90: from a position in the list on, the list as it was split there. -/
theorem fromPosition_split (before : List Nat) (h : Nat) (after : List Nat) (hb : h ∉ before) :
    fromPosition (before ++ h :: after) (some h) = h :: after := by
  unfold fromPosition
  induction before with
  | nil => simp
  | cons x r ih =>
    have hx : x ≠ h := fun e => hb (e ▸ List.mem_cons_self ..)
    simp only [List.cons_append]
    rw [List.dropWhile_cons_of_pos (by simpa using hx)]
    exact ih (fun e => hb (List.mem_cons_of_mem _ e))

/-- A position that names a member starts there. -/
theorem fromPosition_head (list : List Nat) (h : Nat) (hm : h ∈ list) :
    ∃ more, fromPosition list (some h) = h :: more := by
  unfold fromPosition
  induction list with
  | nil => cases hm
  | cons x r ih =>
    by_cases hx : x = h
    · subst hx
      exact ⟨r, by simp⟩
    · dsimp only
      rw [List.dropWhile_cons_of_pos (by simpa using hx)]
      refine ih ?_
      rcases List.mem_cons.mp hm with e | e
      · exact absurd e.symm hx
      · exact e

/-- The handle that follows a member of a list without repetition. -/
theorem successor_split (before : List Nat) (h : Nat) (after : List Nat) (hb : h ∉ before) :
    successor (before ++ h :: after) h = after.head? := by
  induction before with
  | nil => simp [successor]
  | cons x r ih =>
    have hx : x ≠ h := fun e => hb (e ▸ List.mem_cons_self ..)
    simp only [List.cons_append, successor, if_neg hx]
    exact ih (fun e => hb (List.mem_cons_of_mem _ e))

/-! ## The arbiter (R93) -/

theorem arbitrate_ready {s : State} {l : LinkId} {k : Link} (h : commandReady s l k = true) (n : Nat) :
    arbitrate s l n k = { k with activity := .deciding } := by
  cases n <;> simp [arbitrate, h]

theorem arbitrate_gap {s : State} {l : LinkId} {k : Link} (h : commandReady s l k = false)
    (hg : k.inGap = true) (n : Nat) : arbitrate s l n k = { k with activity := .gap } := by
  cases n <;> simp [arbitrate, h, hg]

theorem arbitrate_due {s : State} {l : LinkId} {k : Link} (hg : k.inGap = false)
    (hd : (dueStation s l k).isSome = true) (n : Nat) :
    arbitrate s l n k = { k with activity := .deciding } := by
  cases n <;> by_cases h : commandReady s l k = true <;> simp [arbitrate, h, hg, hd]

theorem arbitrate_endRound {s : State} {l : LinkId} {k : Link} (h : commandReady s l k = false)
    (hg : k.inGap = false) (hd : dueStation s l k = none) (hp : k.config.pollGap ≠ 0) (n : Nat) :
    arbitrate s l n k = k.endRound s.now := by
  cases n
  · simp [arbitrate, h, hg, hd]
  · rw [arbitrate]
    rw [if_neg (by simp [h]), if_neg (by simp [hg]), if_neg (by simp [hd]), if_pos hp]

theorem arbitrate_nextRound {s : State} {l : LinkId} {k : Link} (h : commandReady s l k = false)
    (hg : k.inGap = false) (hd : dueStation s l k = none) (hp : k.config.pollGap = 0) {x : Nat}
    {more : List Nat} (hl : s.pollList l = x :: more) (n : Nat) :
    arbitrate s l (n + 1) k =
      arbitrate s l n { k.endRound s.now with pollGap := .stopped, roundPos := some x } := by
  rw [arbitrate]
  simp [h, hg, hd, hp, hl]

/-- R93: the arbiter moves only the exchange state, the round position, the round counter and the poll gap
deadline. -/
theorem arbitrate_keeps (s : State) (l : LinkId) : ∀ (n : Nat) (k : Link),
    (arbitrate s l n k).config = k.config ∧ (arbitrate s l n k).burst = k.burst ∧
      (arbitrate s l n k).status = k.status ∧ (arbitrate s l n k).mask = k.mask ∧
      (arbitrate s l n k).inCharacter = k.inCharacter := by
  intro n
  induction n with
  | zero =>
    intro k
    unfold arbitrate Link.endRound
    dsimp only
    refine ⟨?_, ?_, ?_, ?_, ?_⟩ <;> (repeat' split) <;> rfl
  | succ n ih =>
    intro k
    unfold arbitrate Link.endRound
    dsimp only
    split
    · exact ⟨rfl, rfl, rfl, rfl, rfl⟩
    split
    · exact ⟨rfl, rfl, rfl, rfl, rfl⟩
    split
    · exact ⟨rfl, rfl, rfl, rfl, rfl⟩
    split
    · exact ⟨rfl, rfl, rfl, rfl, rfl⟩
    split
    · exact ⟨rfl, rfl, rfl, rfl, rfl⟩
    · exact ih _

/-- What the arbiter leaves behind: an open decision, a running gap, or IDLE with an empty poll list. -/
theorem arbitrate_outcome (s : State) (l : LinkId) : ∀ (n : Nat) (k : Link),
    ((arbitrate s l n k).activity = .deciding ∧
      ((arbitrate s l n k).pollGap = k.pollGap ∨ (arbitrate s l n k).pollGap = .stopped)) ∨
    ((arbitrate s l n k).activity = .gap ∧ (arbitrate s l n k).inGap = true) ∨
    ((arbitrate s l n k).activity = .idle ∧ (arbitrate s l n k).pollGap = .stopped) := by
  intro n
  induction n with
  | zero =>
    intro k
    unfold arbitrate Link.endRound
    dsimp only
    split
    · exact .inl ⟨rfl, .inl rfl⟩
    split
    · rename_i h
      exact .inr (.inl ⟨rfl, h⟩)
    split
    · exact .inl ⟨rfl, .inl rfl⟩
    split <;> exact .inr (.inl ⟨rfl, rfl⟩)
  | succ n ih =>
    intro k
    unfold arbitrate Link.endRound
    dsimp only
    split
    · exact .inl ⟨rfl, .inl rfl⟩
    split
    · rename_i h
      exact .inr (.inl ⟨rfl, h⟩)
    split
    · exact .inl ⟨rfl, .inl rfl⟩
    split
    · exact .inr (.inl ⟨rfl, rfl⟩)
    split
    · exact .inr (.inr ⟨rfl, rfl⟩)
    · rcases ih { k with
        roundCounter := k.roundCounter + 1
        activity := .gap
        pollGap := .stopped
        roundPos := some _ } with ⟨h1, h2⟩ | h | h
      · refine .inl ⟨h1, .inr ?_⟩
        rcases h2 with h2 | h2 <;> exact h2
      · exact .inr (.inl h)
      · exact .inr (.inr h)

/-- R89, R91: at a decision point with the poll gap deadline not expired the arbiter chooses. -/
theorem decideLink_not_expired {s : State} {l : LinkId} {k : Link} (h : k.pollGap ≠ .expired) :
    decideLink s l k = arbitrate s l roundsAtOnce k := by
  unfold decideLink
  cases hp : k.pollGap with
  | expired => exact absurd hp h
  | running d => rfl
  | stopped => rfl

/-- A decision point of a link whose poll gap deadline is stopped and for which a station is due leaves the
decision open. -/
theorem decideLink_due {s : State} {l : LinkId} {k : Link} (hp : k.pollGap = .stopped)
    (hd : (dueStation s l k).isSome = true) : decideLink s l k = { k with activity := .deciding } := by
  rw [decideLink_not_expired (by simp [hp])]
  exact arbitrate_due (by simp [Link.inGap, hp]) hd _

/-- R90: a station at the round position that is due is the first due station. -/
theorem dueStation_head {s : State} {l : LinkId} {k : Link} {h : Nat} (hm : h ∈ s.pollList l)
    (hp : k.roundPos = some h) (hd : stationDue s k.roundCounter h = true) :
    dueStation s l k = some h := by
  unfold dueStation
  rw [hp]
  obtain ⟨more, hl⟩ := fromPosition_head _ _ hm
  rw [hl]
  simp [hd]

/-- R91: the append of a due station to the poll list of a link in IDLE. -/
theorem appendedWhileIdle_idle {s : State} {l : LinkId} {h : Nat} (ha : (s.link l).activity = .idle)
    (hp : (s.link l).pollGap = .stopped) (hm : h ∈ s.pollList l)
    (hd : stationDue s (s.link l).roundCounter h = true) :
    appendedWhileIdle l h s =
      s.modifyLink l (fun k => { k with roundPos := some h, activity := .deciding }) := by
  unfold appendedWhileIdle
  rw [if_pos ha, decisionPoint, State.modifyLink_modifyLink]
  apply State.modifyLink_congr
  refine decideLink_due hp ?_
  exact Option.isSome_iff_exists.mpr ⟨h, dueStation_head hm rfl hd⟩

/-- R91: the append of a station to the poll list of a link that is not in IDLE. -/
theorem appendedWhileIdle_other {s : State} {l : LinkId} (h : Nat) (ha : (s.link l).activity ≠ .idle) :
    appendedWhileIdle l h s = s := by
  unfold appendedWhileIdle
  rw [if_neg ha]

/-- R92: the removal of a station moves at most the round position. -/
theorem Link.forget_eq (k : Link) (list : List Nat) (h : Nat) :
    k.forget list h =
      { k with roundPos := if k.roundPos = some h then successor list h else k.roundPos } := by
  unfold Link.forget
  split <;> rfl

/-- R111: freeing every tag of a station that has no QUEUED slot is no decision point. -/
theorem freeAllTags_noQueued {sid : Nat} {s : State}
    (h : ∀ k r, s.slots.find k = some r → r.state = .queued → r.station ≠ sid) :
    freeAllTags sid s = { s with tagSets := s.tagSets.drop sid } := by
  unfold freeAllTags noticeFreedTag
  split
  · rfl
  · rw [if_neg]
    rintro ⟨-, h2⟩
    simp only [List.any_eq_true, Bool.and_eq_true, State.eligible, beq_iff_eq] at h2
    obtain ⟨x, -, h3, h4⟩ := h2
    cases hx : s.slots.find x with
    | none => simp [hx] at h4
    | some r =>
      simp [hx] at h3 h4
      exact h x r hx h3.1 h4

end Sys2Proof.Machine
end

