-- ==== Sys2Proof/Laws/Requests.lean ====
section
/-! SUPPORT. What taking a request does, said once: a ready request of the row's kind is handed to its owner
and answered; otherwise nothing happens; and the shape of the answered state. -/

namespace Sys2Proof.Machine

/-- The state the owner of a request sees: the request has left its FIFO. -/
def State.withoutHead (s : State) (c : ClientId) (rest : List Request) : State :=
  s.modifyClient c (fun k => { k with requests := rest })

@[simp] theorem State.withoutHead_frame (s : State) (c : ClientId) (rest : List Request) :
    (s.withoutHead c rest).stations = s.stations ∧ (s.withoutHead c rest).points = s.points ∧
      (s.withoutHead c rest).bindings = s.bindings ∧ (s.withoutHead c rest).slots = s.slots ∧
      (s.withoutHead c rest).pollLists = s.pollLists ∧
      (s.withoutHead c rest).mirrorQueue = s.mirrorQueue ∧
      (s.withoutHead c rest).cmdQueues = s.cmdQueues ∧
      (s.withoutHead c rest).tagSets = s.tagSets ∧
      (s.withoutHead c rest).doneLists = s.doneLists ∧
      (s.withoutHead c rest).links = s.links ∧ (s.withoutHead c rest).mwm = s.mwm ∧
      (s.withoutHead c rest).now = s.now ∧ (s.withoutHead c rest).resetN = s.resetN :=
  ⟨rfl, rfl, rfl, rfl, rfl, rfl, rfl, rfl, rfl, rfl, rfl, rfl, rfl⟩

/-- Two windows' updates: an update of the FIFOs and the answer of the owner make one answered state. -/
theorem answered_eq (x : State) (c : ClientId) (r : Request) (rest : List Request) (a : Answer)
    (h : a.state = x.withoutHead c rest) :
    settle ((a.state.modifyClient c (fun k =>
        { k with responses := k.responses ++ [responseOf r a] })).noteTaking c) =
      x.answered c r rest a.status.code a.w1 a.w2 a.w3 := by
  rw [h, State.withoutHead, State.modifyClient_modifyClient]
  rfl

/-- R140: a client may take exactly when no other client has a ready request that it has passed. -/
theorem State.mayTake_iff (s : State) (c : ClientId) :
    s.mayTake c = true ↔ ∀ d, d ≠ c → (s.client d).requests ≠ [] →
      (s.client d).responses.length < 8 → (s.client d).passed.getLsbD c.val = false := by
  have key : ∀ d : ClientId,
      (d == c || !((s.client d).ready && (s.client d).passed.getLsbD c.val)) = true ↔
        (d ≠ c → (s.client d).requests ≠ [] → (s.client d).responses.length < 8 →
          (s.client d).passed.getLsbD c.val = false) := by
    intro d
    by_cases hd : d = c
    · simp [hd]
    · by_cases h8 : (s.client d).responses.length < 8 <;>
        cases hq : (s.client d).requests <;> simp [hd, hq, h8, Client.ready, Config.fifoDepth]
  unfold State.mayTake
  rw [List.all_eq_true]
  constructor
  · intro h d
    refine (key d).mp (h d ?_)
    fin_cases d <;> simp
  · intro h d _
    exact (key d).mpr (h d)

theorem ReadyRequest.mayTake {s : State} {c : ClientId} {r : Request} {rest : List Request}
    (hr : ReadyRequest s c r rest) : s.mayTake c = true := (s.mayTake_iff c).mpr hr.turn

/-- R140: what a taking leaves at each window. -/
@[simp] theorem State.client_noteTaking (s : State) (c d : ClientId) :
    (s.noteTaking c).client d = (s.client d).afterTaking c d := by
  fin_cases d <;> rfl

/-- R140: a taking is noted at the windows only. -/
theorem State.noteTaking_clients (s : State) (c : ClientId) :
    s.noteTaking c = { s with clients := s.clients.mapIdx (Client.afterTaking c) } := rfl

/-- R140: a taking moves nothing of a window but the marks of who has passed its head request. -/
theorem Client.afterTaking_passed (c d : ClientId) (k : Client) :
    k.afterTaking c d = { k with passed := (k.afterTaking c d).passed } := by
  unfold Client.afterTaking
  split
  · rfl
  split <;> rfl

/-- R140: a ready request of the row's kind is taken. -/
theorem takeRequest_ready {s : State} {c : ClientId} {r : Request} {rest : List Request}
    (hr : ReadyRequest s c r rest) {isKind : Nat → Bool} (hk : isKind r.kind = true)
    (f : ClientId → Request → State → Answer) :
    takeRequest c isKind f s =
      settle (((f c r (s.withoutHead c rest)).state.modifyClient c (fun k =>
        { k with responses :=
          k.responses ++ [responseOf r (f c r (s.withoutHead c rest))] })).noteTaking c) := by
  have h8 : decide ((s.client c).responses.length < Config.fifoDepth) = true :=
    decide_eq_true hr.room
  unfold takeRequest
  rw [hr.head]
  simp only [hk, h8, hr.mayTake, Bool.and_self, if_true]
  rfl

/-- R140: the taking of a ready request whose owner answers `a`, the state being that of `x` but for the
request taken out. -/
theorem takeRequest_answered {s : State} {c : ClientId} {r : Request} {rest : List Request}
    (hr : ReadyRequest s c r rest) {isKind : Nat → Bool} (hk : isKind r.kind = true)
    {f : ClientId → Request → State → Answer} {x : State} {st : Status} {w1 w2 w3 : Word}
    (hf : f c r (s.withoutHead c rest) = ⟨x.withoutHead c rest, st, w1, w2, w3⟩) :
    inService s (takeRequest c isKind f) = .next (x.answered c r rest st.code w1 w2 w3) := by
  unfold inService
  rw [hr.resetN, takeRequest_ready hr hk f, if_pos rfl, hf]
  exact congrArg _ (answered_eq x c r rest ⟨x.withoutHead c rest, st, w1, w2, w3⟩ rfl)

/-- R14, R142: a refused request changes nothing but the two FIFOs. -/
theorem takeRequest_refused {s : State} {c : ClientId} {r : Request} {rest : List Request}
    (hr : ReadyRequest s c r rest) {isKind : Nat → Bool} (hk : isKind r.kind = true)
    {f : ClientId → Request → State → Answer} {st : Status}
    (hf : f c r (s.withoutHead c rest) = refuse (s.withoutHead c rest) st) :
    inService s (takeRequest c isKind f) = .next (s.answered c r rest st.code 0 0 0) :=
  takeRequest_answered hr hk hf

/-- R140: with no request, no room, a request of another kind, or another client whose turn comes first,
nothing is taken. -/
theorem takeRequest_waits {s : State} {c : ClientId} {isKind : Nat → Bool}
    (f : ClientId → Request → State → Answer)
    (h : (s.client c).requests = [] ∨ 8 ≤ (s.client c).responses.length ∨
      (∃ r rest, (s.client c).requests = r :: rest ∧ isKind r.kind = false) ∨
      s.mayTake c = false) :
    takeRequest c isKind f s = s := by
  unfold takeRequest
  rcases h with h | h | ⟨r, rest, h, hk⟩ | h
  · rw [h]
  · have h8 : decide ((s.client c).responses.length < Config.fifoDepth) = false :=
      decide_eq_false (Nat.not_lt.mpr h)
    cases hq : (s.client c).requests with
    | nil => rfl
    | cons r rest => simp [h8]
  · rw [h]
    simp [hk]
  · cases hq : (s.client c).requests with
    | nil => rfl
    | cons r rest => simp [h]

/-- R3, R16, R52, R109: the handle a table allocates. -/
theorem IsLowestFree.lowestFree {α : Type} {t : Table α} {n h : Nat} (hh : IsLowestFree t n h) :
    t.lowestFree n = some h := Table.lowestFree_eq hh.free hh.inTable hh.lowest

/-- A table with every handle in use allocates none. -/
theorem Table.lowestFree_full {α : Type} {t : Table α} {n : Nat} (hh : ∀ h, h < n → t.find h ≠ none) :
    t.lowestFree n = none := by
  cases h : t.lowestFree n with
  | none => rfl
  | some k => exact absurd (Table.lowestFree_spec h).1 (hh k (Table.lowestFree_spec h).2.1)

/-- R14: a request with a point key whose checks all pass acts on its point. -/
theorem withPoint_acts {r : Request} {s : State} {p : Point} {wrong : Point → Bool}
    (act : Nat → Point → Answer) (hh : r.handle ≤ 1023) (hp : s.points.find r.handle = some p)
    (hk : p.key = 0 ∨ r.key = p.key.toNat) (hw : wrong p = false) :
    withPoint r s wrong act = act r.handle p := by
  have h1 : ¬Config.pointCount ≤ r.handle := by
    show ¬1024 ≤ r.handle
    omega
  have h2 : keyFails r p = false := by
    unfold keyFails
    rcases hk with h | h <;> simp [h]
  unfold withPoint
  rw [if_neg h1]
  simp [hp, h2, hw]

/-- R14: the four refusals of a request with a point key, in their order. -/
theorem withPoint_refuses (r : Request) (s : State) (wrong : Point → Bool)
    (act : Nat → Point → Answer) :
    (1023 < r.handle → withPoint r s wrong act = refuse s .badArgument) ∧
      (r.handle ≤ 1023 → s.points.find r.handle = none →
        withPoint r s wrong act = refuse s .notFound) ∧
      ∀ p, r.handle ≤ 1023 → s.points.find r.handle = some p →
        (keyFails r p = true → withPoint r s wrong act = refuse s .keyMismatch) ∧
        (keyFails r p = false → wrong p = true → withPoint r s wrong act = refuse s .wrongState) := by
  unfold withPoint
  refine ⟨?_, ?_, ?_⟩
  · intro h
    rw [if_pos (show Config.pointCount ≤ r.handle from h)]
  · intro h hp
    rw [if_neg (show ¬Config.pointCount ≤ r.handle from Nat.not_le.mpr (Nat.lt_succ_of_le h))]
    simp [hp]
  · intro p h hp
    rw [if_neg (show ¬Config.pointCount ≤ r.handle from Nat.not_le.mpr (Nat.lt_succ_of_le h))]
    refine ⟨?_, ?_⟩
    · intro hk
      simp [hp, hk]
    · intro hk hw
      simp [hp, hk, hw]

/-- R63, R64: a request on the client's own binding in an allowed state acts on it. -/
theorem withOwnBinding_acts {c : ClientId} {r : Request} {s : State} {b : Binding}
    {allowed : BindingState → Bool} (act : Nat → Binding → Answer) (hh : r.handle ≤ 2047)
    (hb : s.bindings.find r.handle = some b) (hc : b.client = c) (ha : allowed b.state = true) :
    withOwnBinding c r s allowed act = act r.handle b := by
  unfold withOwnBinding
  rw [if_neg (show ¬Config.bindingCount ≤ r.handle from Nat.not_le.mpr (Nat.lt_succ_of_le hh))]
  simp [hb, hc, ha]

end Sys2Proof.Machine
end

