-- ==== Sys2Proof/WellFormed.lean ====
section
/-! DEFINITION. Which commands are well formed. Operand types already bound every client, link, point
and slot number; two checks are left, one about REGISTER_WRITE and one about START_BIT_DETECTED. -/

namespace Sys2Proof

/-- The write of `value` to this register is a row of its own in spec/opcode_table.json, so it is not
spelled REGISTER_WRITE. A write of CONTROL or DEV_CONTROL with the reset field clear has no row of its
own: it is a REGISTER_WRITE that is ignored (R145, R160). -/
def RegName.hasOwnRow (r : RegName) (value : Word) : Bool :=
  match r with
  | .devControl => value.getLsbD 0
  | .link _ .control => true
  | .link _ .rate => true
  | .link _ .status => true
  | .link _ .mask => true
  | .client _ .submit => true
  | .client _ .pop => true
  | .client _ .cause => true
  | .client _ .causeMask => true
  | .client _ .linkWatch => true
  | .client _ .irqMode => true
  | .client _ .msgAddr => true
  | .client _ .msgData => true
  | .client _ .msgKey => true
  | .client _ .control => value.getLsbD 0
  | _ => false

/-- A command is well formed. REGISTER_WRITE: its register has no row of its own. START_BIT_DETECTED: a
recognized character has met the response deadline at its fall, so no deadline passes with it (R79). -/
def Instr.wellFormed (i : Instr) : Bool :=
  match i with
  | .registerWrite offset value => !(decodeOffset offset).hasOwnRow value
  | .startBitDetected _ recognized deadlinePassed => !(recognized && deadlinePassed)
  | .addStation _ | .removeStation _ | .queryStation _ | .createPoint _ | .lookupPoint _ => true
  | .findPoint _ | .nextPoint _ | .modifyPoint _ | .retirePoint _ | .forcePoint _ => true
  | .releasePoint _ | .bind _ | .unbind _ | .resume _ | .queryBinding _ => true
  | .sendCommand _ | .abortCommand _ | .collect _ | .badRequest _ => true
  | .submit _ _ | .respRead _ _ | .pop _ _ | .causeRead _ | .causeWrite _ _ => true
  | .causeMaskWrite _ _ | .linkWatchWrite _ _ | .irqModeWrite _ _ | .msgAddrWrite _ _ => true
  | .msgDataWrite _ _ | .msgKeyWrite _ _ | .clientReset _ | .softReset => true
  | .linkEnable _ | .linkDisable _ | .rateWrite _ _ | .statusWrite _ _ | .maskWrite _ _ => true
  | .hardwareReset | .resetNRelease | .timeBaseTick => true
  | .freshnessExpiry _ | .completionDeadlineExpiry _ => true
  | .visitStart _ | .commandExchangeStart _ | .frameSent _ | .responseDeadlineExpiry _ => true
  | .characterReceived _ _ _ _ | .gapDeadlineExpiry _ | .quietDeadlineExpiry _ => true
  | .pollGapDeadlineExpiry _ | .mirrorWriteStart | .messageWriteStart | .busGrant => true
  | .busAccept | .busEndStatus _ _ | .busTimeout | .bgntNDeasserted => true

end Sys2Proof
end

