-- ==== Sys2Proof/Tests/Slice0.lean ====
section
/-! SUPPORT. Tests: the well-formedness checks refuse ill-formed commands; one step of each command on a
small state; and for every statement with hypotheses a state and operands that meet them. -/

namespace Sys2Proof.Tests

open Sys2Proof Sys2Proof.Machine

set_option Elab.async false

/-! ## A small state -/

/-- A request record (R164). -/
def req (kind key tag : Nat) (w1 w2 w3 : Word) : Request :=
  ⟨place 0 8 kind ||| place 8 8 key ||| place 16 16 tag, w1, w2, w3⟩

/-- `s` with `r` as the one request of client 0. -/
def ask (r : Request) (s : State) : State := s.modifyClient 0 (fun k => { k with requests := [r] })

/-- The state after a command. -/
def after (i : Instr) (s : State) : State :=
  match exec i s with
  | .next t => t
  | .fault _ => s
  | .refused _ => s

/-- A PRESENT station of link 0 with room for two commands. -/
def station : Station where
  state := .present
  link := 0
  address := 126
  limit := 4
  capacity := 2
  miss := 1
  typeCode := some 0x0231
  chain := []
  staleCause := none

/-- A LIVE point of station 0 with a key, a confirm count of 2 and a period. -/
def point : Point where
  state := .live
  station := 0
  number := 4
  key := 15
  confirm := 2
  deadband := 5
  period := 100
  value := some 100
  quality := .good
  stale := none
  candidate := 100
  run := 2
  notified := 100
  reportCount := 65535
  lastReport := some 7
  forced := none
  pendingCmd := none
  bindings := []
  deadline := some ⟨0, 100⟩

/-- The force of the small state's FORCED point. -/
def force : ForcedPart := ⟨100, ⟨.live, some 42, .bad, none⟩⟩

/-- An ACTIVE binding of client 0. -/
def binding : Binding where
  state := .active
  point := 0
  client := 0
  key := 3
  address := 0x1000
  trigger := .report
  inFlight := false
  sequence := 65535
  fault := none

/-- A QUEUED slot of client 0. -/
def slot : Slot where
  state := .queued
  client := 0
  hostTag := 0x1234
  point := 0
  station := 0
  value := 500
  tag := none
  abort := none
  timeout := none
  deadline := none
  result := none
  code := 0

/-- A mirror write of binding `b`. -/
def mirrorWrite (b : Nat) (final : Bool) : Transaction where
  owner := .mirror b final
  address := 0x1000
  key := 3
  kind := .write
  data := [1, 2, 3, 4]
  timeout := 12000
  ignored := false

/-- Station 0 with the points 0 (LIVE, bindings 0-2), 1 (FORCED) and 2 (RETIRING); station 1 SILENT;
station 2 LEAVING; link 0 in GAP; the write of binding 2 in flight. -/
def small : State := { State.reset with
  stations := ⟨[(0, { station with chain := [0, 1, 2] }),
    (1, { station with
      state := .silent, address := 1, capacity := 0, staleCause := some .linkOff }),
    (2, { station with state := .leaving, address := 2, capacity := 0 })]⟩
  pollLists := ⟨[0, 1], [], [], []⟩
  points := ⟨[(0, { point with bindings := [0, 1, 2] }),
    (1, { point with state := .forced, number := 9, key := 0, forced := some force }),
    (2, { point with state := .retiring, number := 255, key := 0, run := 0, deadline := none })]⟩
  bindings := ⟨[(0, binding),
    (1, { binding with state := .suspended, fault := some .timeout }),
    (2, { binding with client := 3, trigger := .change, inFlight := true })]⟩
  links := State.reset.links.modify 0 (fun k => { k with
    activity := .gap
    config := { k.config with divisor := 156 }
    pollGap := .running ⟨0, 10⟩ })
  mwm := { State.reset.mwm with phase := .request (mirrorWrite 2 false) } }

/-- The small machine with the MWM in a phase. -/
def bus (x : Phase) : State := { small with mwm := { small.mwm with phase := x } }

/-- An exchange of link 0 with station 0. -/
def exchange (kind : ExchangeKind) : Exchange where
  kind := kind
  station := 0
  address := 126
  frame := buildFrame 126 0x10 []
  divisor := 156
  responseTimeout := 20
  missLimit := 3

/-- The small state with link 0 in an exchange state. -/
def linkIn (a : Activity) : State := small.modifyLink 0 (fun k => { k with activity := a })

/-- A receiver that has received all but the last character of a frame. -/
def received (x : Exchange) (bs : List Byte) : Receiver :=
  (bs.dropLast.zipIdx).foldl (fun rx b => rx.take x b.1 (b.2 == 0) true) Receiver.fresh

/-- The small state with a QUEUED, a SENT, an ACCEPTED or a DONE slot 0 of point 0. -/
def withSlot (r : Slot) : State := { small with
  points := small.points.modify 0 (fun p =>
    { p with pendingCmd := if r.state = .done then none else some 0 })
  slots := ⟨[(0, r)]⟩
  cmdQueues := if r.state = .queued then ⟨[0], [], [], []⟩ else Quad.all []
  doneLists := if r.state = .done then ⟨[0], [], [], []⟩ else Quad.all []
  tagSets := match r.tag with
    | some g => ⟨[(0, ⟨[(g, .held 0)]⟩)]⟩
    | none => ⟨[]⟩ }

/-! ## Well-formedness -/

/-- A write with a row of its own is not spelled REGISTER_WRITE. -/
theorem test_wellFormed_ownRow_refused :
    (Instr.registerWrite 0x20C 0).wellFormed = false ∧ (Instr.registerWrite 0x040 1).wellFormed = false ∧
      (Instr.registerWrite 0x000 1).wellFormed = false ∧
      (Instr.registerWrite 0x3C4 1).wellFormed = false := by decide

/-- A recognized start bit has met the response deadline. -/
theorem test_wellFormed_startBit_refused :
    (Instr.startBitDetected 0 true true).wellFormed = false := by decide

theorem test_wellFormed_accepted :
    (Instr.registerWrite 0x048 5).wellFormed = true ∧ (Instr.registerWrite 0x3C4 0).wellFormed = true ∧
      (Instr.startBitDetected 0 false true).wellFormed = true ∧
      Instr.softReset.wellFormed = true := by decide

/-- No row of the opcode table gives bits. -/
theorem test_no_word_spells_a_command (n w : Nat) :
    decodeTableWord n w = none ∧ State.reset.withFetchWord n w = State.reset := ⟨rfl, rfl⟩

/-- R73: the check value. -/
theorem test_crc_check_value :
    crc [0x31, 0x32, 0x33, 0x34, 0x35, 0x36, 0x37, 0x38, 0x39] = 0x29B1 := by decide +kernel

/-! ## What the witnesses are shown by -/

/-- A property of every row of a table holds of every record found. -/
theorem forall_found {α : Type} {t : Table α} {P : Nat → α → Prop}
    (h : ∀ row ∈ t.rows, P row.1 row.2) : ∀ k a, t.find k = some a → P k a :=
  fun _ _ hf => h _ (Table.mem_of_find hf)

/-- A property of the one record found holds of every record found there. -/
theorem forall_some {α : Type} {o : Option α} {b : α} {P : α → Prop} (ho : o = some b) (h : P b) :
    ∀ a, o = some a → P a := by
  intro a ha
  rw [ho] at ha
  exact Option.some.inj ha ▸ h

/-- A request put at the head of an idle window of the small machine is ready. -/
theorem ready (r : Request) {s : State} (h1 : s.resetN = true) (h2 : s.clients = State.reset.clients) :
    ReadyRequest (ask r s) 0 r [] where
  resetN := h1
  head := rfl
  room := by
    rw [show ((ask r s).client 0).responses = (s.clients.get 0).responses from rfl, h2]
    decide
  turn d hd hq := by
    rw [ask, State.client_modifyClient, if_neg hd, State.client, h2] at hq
    exact absurd (by revert d; decide +kernel) hq

/-- The lowest FREE handle of a table whose rows are the handles below it. -/
theorem lowestFree {α : Type} {t : Table α} {n h : Nat} (ht : t.lowestFree n = some h) :
    IsLowestFree t n h := by
  obtain ⟨h1, h2, h3⟩ := Table.lowestFree_spec ht
  exact ⟨h1, h2, h3⟩

/-! ## The queue, the resets and the time base -/

theorem test_StepRunsFrontCommand :
    ({ small with pending := [.timeBaseTick] } : State).pending = .timeBaseTick :: [] ∧
      State.reset.pending = [] := by decide

theorem test_HardwareResetLowAndRelease :
    (after .hardwareReset small).resetN = false ∧
      (after .hardwareReset small).link 0 = Link.reset ∧
      (after .resetNRelease { small with resetN := false, now := 9 }).now = 0 ∧
      after .timeBaseTick { small with resetN := false } = { small with resetN := false } ∧
      (after (.causeRead 0) { small with resetN := false, readData := 5 }).readData = 0 ∧
      (∀ i, i = Instr.busAccept → i ≠ .hardwareReset ∧ i ≠ .resetNRelease ∧ i ≠ .busGrant ∧
        i ≠ .bgntNDeasserted ∧ (∀ c j, i ≠ .respRead c j) ∧ ∀ c, i ≠ .causeRead c) := by
  refine ⟨by decide +kernel, by decide +kernel, by decide +kernel, by decide +kernel,
    by decide +kernel, ?_⟩
  intro i hi
  subst hi
  exact ⟨nofun, nofun, nofun, nofun, nofun, nofun⟩

theorem test_SoftResetKeepsTheSettings :
    small.resetN = true ∧ ((after .softReset small).link 0).config.divisor = 156 ∧
      (after .softReset small).points = ⟨[]⟩ := by decide +kernel

/-- Millisecond deadlines: due exactly from the length on, across the wrap. -/
theorem test_TimeBaseCountsAndDeadlinesWrap :
    small.resetN = true ∧ (after .timeBaseTick { small with now := 0xFFFFFFFF }).now = 0 ∧
      (2 : Nat) ^ 32 - 1 < 2 ^ 32 ∧
      (⟨0xFFFFFFFF, 2⟩ : Deadline).due 0 = false ∧ (⟨0xFFFFFFFF, 2⟩ : Deadline).due 1 = true := by
  decide

/-! ## The request path -/

/-- A ready request of a known kind and one of an unknown kind; requests that are not ready: none, no
room, and another kind at the head. -/
theorem test_EveryTakenRequestIsAnsweredOnce :
    ReadyRequest (ask (req 0x03 0 7 255 0 0) small) 0 (req 0x03 0 7 255 0 0) [] ∧
      ((req 0x03 0 7 255 0 0).kind, Instr.queryStation 0) ∈ requestRows 0 ∧
      (∀ i, ((req 0x33 0 7 0 0 0).kind, i) ∉ requestRows 0) ∧
      small.resetN = true ∧ (small.client 0).requests = [] ∧
      8 ≤ ((small.modifyClient 0 (fun k =>
        { k with responses := List.replicate 8 ⟨0, 0, 0, 0⟩ })).client 0).responses.length ∧
      (req 0x33 0 7 0 0 0).kind ≠ 0x03 ∧
      ((after (.badRequest 0) (ask (req 0xFF 0 7 0 0 0) small)).client 0).responses =
        [⟨0x000701FF, 0, 0, 0⟩] := by
  refine ⟨ready _ rfl rfl, by decide +kernel, ?_, by decide, by decide, by decide, by decide +kernel,
    by decide +kernel⟩
  intro i hi
  have h : ((req 0x33 0 7 0 0 0).kind) ∈ (requestRows 0).map Prod.fst := List.mem_map_of_mem hi
  exact absurd h (by decide +kernel)

/-- R140: with clients 0 and 1 both ready, a second request of client 0 waits until client 1's is taken. -/
theorem test_takings_are_fair :
    let r := req 0x33 0 7 0 0 0
    let s := (small.modifyClient 0 (fun k => { k with requests := [r, r] })).modifyClient 1 (fun k =>
      { k with requests := [r] })
    let t := after (.badRequest 0) s
    (s.mayTake 0 = true ∧ s.mayTake 1 = true) ∧
      (t.client 1).requests ≠ [] ∧ (t.client 1).responses.length < 8 ∧
      (t.client 1).passed.getLsbD 0 = true ∧ after (.badRequest 0) t = t ∧
      (after (.badRequest 1) t).mayTake 0 = true ∧
      ((after (.badRequest 0) (after (.badRequest 1) t)).client 0).requests = [] := by decide +kernel

theorem test_RequestPathRegisters :
    small.resetN = true ∧ (small.client 0).requests.length < 8 ∧ (small.client 0).responses = [] ∧
      (let s := small.modifyClient 0 (fun k => { k with
        requests := List.replicate 8 (req 0 0 0 0 0 0), responses := [⟨1, 2, 3, 4⟩, ⟨5, 6, 7, 8⟩] })
      8 ≤ (s.client 0).requests.length ∧ (s.client 0).responses = ⟨1, 2, 3, 4⟩ :: [⟨5, 6, 7, 8⟩] ∧
      ((after (.submit 0 5) s).client 0).sticky.requestOverrun = true ∧
      (after (.respRead 0 3) s).readData = 4 ∧
      ((after (.pop 0 9) s).client 0).responses = [⟨5, 6, 7, 8⟩]) := by decide +kernel

/-! ## Notification -/

theorem test_CauseRegister :
    small.resetN = true ∧ (small.client 0).msgState ≠ .sent ∧
      (let s := small.modifyClient 0 (fun k => { k with
        msgState := .sent, mode := .message, mask := 0x7F, responses := [⟨1, 2, 3, 4⟩] })
      (s.client 0).msgState = .sent ∧ ((after (.causeRead 0) s).client 0).msgState = .pending ∧
        (after (.causeRead 0) s).readData = 1) := by decide +kernel

theorem test_causeWrite_clears_sticky :
    ((after (.causeWrite 0 0x7C) (small.modifyClient 0 (fun k =>
      { k with sticky := ⟨true, true, true, true, true⟩ }))).client 0).sticky = Sticky.reset := by
  decide +kernel

/-- A window that is settled and one that passes on to PENDING. -/
theorem test_NotifyConditionLineAndMessage :
    (let s := small.modifyClient 3 (fun k => { k with
      mode := .message, mask := 1, responses := [⟨1, 2, 3, 4⟩] })
    (s.client 3).mode = .message ∧ (s.client 3).msgState = .armed ∧ s.notify 3 = true ∧
      ((settle s).client 3).msgState = .pending) ∧
      ¬((small.client 0).mode = .message) := by decide +kernel

theorem test_NotificationSettingsAndClientReset :
    small.resetN = true ∧ (small.client 0).msgInFlight = false ∧
      ((after (.msgAddrWrite 0 0x1007) small).client 0).msgAddr = 0x1004 ∧
      ((after (.irqModeWrite 0 1) small).client 0).mode = .message ∧
      ((after (.msgDataWrite 0 5) small).client 0).msgData = 5 ∧
      ((after (.msgKeyWrite 0 0x1F) small).client 0).msgKey = 15 ∧
      ((after (.causeMaskWrite 0 0xFF) small).client 0).mask = 0x7F ∧
      ((after (.linkWatchWrite 0 0x1F) small).client 0).watch = 0xF ∧
      (let s := small.modifyClient 0 (fun k => { k with
        msgInFlight := true, msgState := .pending, stage1 := 4 })
      (s.client 0).msgInFlight = true ∧
        ((after (.msgDataWrite 0 5) s).client 0).msgIgnored = true ∧
        ((after (.clientReset 0) s).client 0).msgState = .pending ∧
        ((after (.clientReset 0) s).client 0).stage1 = 0) := by decide +kernel

/-! ## Registers -/

/-- The first and the last offset of each range of ignored writes. -/
theorem test_RegisterWritesStoreTheirFields :
    small.resetN = true ∧ (small.link 0).activity ≠ .disabled ∧
      ((after (.rateWrite 0 0x400) small).link 0).status = 0x400 ∧
      ((after (.rateWrite 1 0x3FF) small).link 1).config.divisor = 0x3FF ∧
      ((after (.statusWrite 0 0x7FF) (small.modifyLink 0 (fun k =>
        { k with status := 0x7FF }))).link 0).status = 0 ∧
      ((after (.maskWrite 3 0xFFF) small).link 3).mask = 0x7FF ∧
      ((after (.registerWrite 0x0AC 0x0000F000) small).link 3).config.burstLimit = 8 ∧
      ((after (.registerWrite 0x04C 0) small).link 0).config.missLimit = 1 ∧
      (after (.registerWrite 0x008 3) small).mwm.lineSize = .l32 ∧
      ((after (.registerWrite 0x38B 6) small).client 3).stage3 = 6 ∧
      (∀ o ∈ [0x004#10, 0x00C, 0x01F, 0x020, 0x03F, 0x058, 0x05F, 0x0B8, 0x1FF, 0x210, 0x21C, 0x224,
        0x390, 0x39C, 0x3A4, 0x248, 0x27F, 0x3C8, 0x3FF],
        after (.registerWrite o 0xFFFFFFFF) small = small) := by decide +kernel

/-- A window with a response and one without; a write with the reset field clear; an offset with bits 1:0
set. -/
theorem test_RegistersReadBack :
    let s := small.modifyClient 3 (fun k => { k with responses := [⟨1, 2, 3, 4⟩], mask := 0x7F })
    small.resetN = true ∧ s.resetN = true ∧ (small.client 3).responses = [] ∧
      (s.client 3).responses = ⟨1, 2, 3, 4⟩ :: [] ∧
      readRegister s 0x39C = 4 ∧ readRegister small 0x39F = 0xFFFFFFFF ∧
      readRegister s 0x3A4 = 0x10 ∧ readRegister s 0x3AC = 0x7F ∧
      readRegister small 0x044 = 156 ∧ readRegister small 0x040 = 1 ∧ readRegister small 0x060 = 0 ∧
      readRegister small 0x04C = 0x430A ∧ readRegister small 0x048 = 0x3214 ∧
      readRegister small 0x010 = 3 ∧ (0xFFFFFFFE : Word).getLsbD 0 = false ∧
      after (.registerWrite 0x3C7 0xFFFFFFFE) s = s ∧ after (.registerWrite 0x000 0xFFFFFFFE) s = s ∧
      (0x38B#10 &&& 0x3FC#10) = 0x388#10 := by decide +kernel

/-! ## Stations -/

theorem test_AddStationCreatesStation :
    let r := req 0x01 0 7 0x00047E01 0 0
    let r0 := req 0x01 0 7 0x00010100 0 0
    let idle := { State.reset with links := small.links }.modifyLink 0 (fun k =>
      { k with activity := .idle, pollGap := .stopped })
    ReadyRequest (ask r small) 0 r [] ∧ r.kind = 0x01 ∧ fieldOf r.w1 0 8 = 1 ∧
      1 ≤ fieldOf r.w1 8 8 ∧ fieldOf r.w1 8 8 = 126 ∧ 1 ≤ fieldOf r.w1 16 8 ∧
      fieldOf r.w1 16 8 = 4 ∧
      (∀ row ∈ small.stations.rows, ¬(row.2.link = 1 ∧ row.2.address = r.w1.extractLsb' 8 8)) ∧
      IsLowestFree small.stations 256 3 ∧ (small.link 1).activity ≠ .idle ∧
      ReadyRequest (ask r0 idle) 0 r0 [] ∧ fieldOf r0.w1 0 8 = 0 ∧ fieldOf r0.w1 8 8 = 1 ∧
      fieldOf r0.w1 16 8 = 1 ∧ (idle.link 0).activity = .idle ∧ (idle.link 0).pollGap = .stopped ∧
      IsLowestFree idle.stations 256 0 ∧
      ((after (.addStation 0) (ask r0 idle)).link 0).activity = .deciding := by
  refine ⟨ready _ rfl rfl, by decide +kernel, by decide +kernel, by decide +kernel, by decide +kernel,
    by decide +kernel, by decide +kernel, by decide +kernel, lowestFree (by decide +kernel),
    by decide +kernel, ready _ rfl rfl, by decide +kernel, by decide +kernel, by decide +kernel,
    by decide +kernel, by decide +kernel, lowestFree (by decide +kernel), by decide +kernel⟩

/-- Every station refusal at a boundary of its range; a full Station Table. -/
theorem test_StationAndPointRefusals :
    (∀ x ∈ [(req 0x01 0 7 0x00010104 0 0, Instr.addStation 0, 2),
      (req 0x01 0 7 0x00010001 0 0, .addStation 0, 2), (req 0x01 0 7 0x00017F01 0 0, .addStation 0, 2),
      (req 0x01 0 7 0x00000101 0 0, .addStation 0, 2), (req 0x01 0 7 0x00050101 0 0, .addStation 0, 2),
      (req 0x01 0 7 0x00010100 0 0, .addStation 0, 4),
      (req 0x02 0 7 256 0 0, .removeStation 0, 2), (req 0x02 0 7 255 0 0, .removeStation 0, 3),
      (req 0x02 0 7 2 0 0, .removeStation 0, 7), (req 0x02 0 7 0 0 0, .removeStation 0, 9),
      (req 0x03 0 7 256 0 0, .queryStation 0, 2), (req 0x03 0 7 255 0 0, .queryStation 0, 3),
      (req 0x10 0 7 0x000000100 1 0, .createPoint 0, 2), (req 0x10 0 7 0x01000000 1 0, .createPoint 0, 2),
      (req 0x10 16 7 0 1 0, .createPoint 0, 2), (req 0x10 0 7 0 0 0, .createPoint 0, 2),
      (req 0x10 0 7 0 4 0, .createPoint 0, 2), (req 0x10 15 7 255 3 0, .createPoint 0, 3),
      (req 0x10 0 7 2 1 0, .createPoint 0, 7), (req 0x10 0 7 0x00FF0000 1 0, .createPoint 0, 4),
      (req 0x11 0 7 1024 0 0, .lookupPoint 0, 2), (req 0x11 0 7 1023 0 0, .lookupPoint 0, 3)],
      after x.2.1 (ask x.1 small) = (ask x.1 small).answered 0 x.1 [] x.2.2 0 0 0) ∧
      (∀ r, ReadyRequest (ask r small) 0 r []) := by
  refine ⟨by decide +kernel, fun r => ready r rfl rfl⟩

/-- A table of `n` records, all in use. -/
def fullTable {α : Type} (n : Nat) (a : α) : Table α := ⟨(List.range n).map (fun h => (h, a))⟩

theorem findRow_none {α : Type} {rows : List (Nat × α)} {h : Nat} (hf : findRow rows h = none) :
    ∀ r ∈ rows, r.1 ≠ h := by
  induction rows with
  | nil => nofun
  | cons x r ih =>
    unfold findRow at hf
    split at hf
    · exact nomatch hf
    · intro y hy
      rcases List.mem_cons.1 hy with rfl | hy
      · assumption
      · exact ih hf y hy

/-- NO_SPACE and NO_SLOT: tables with no FREE record. -/
theorem full {α : Type} (n : Nat) (a : α) : ∀ h, h < n → (fullTable n a).find h ≠ none :=
  fun h hn hf => findRow_none hf (h, a) (List.mem_map.2 ⟨h, List.mem_range.2 hn, rfl⟩) rfl

theorem test_no_space :
    (∀ h, h < 256 → ({ small with stations := fullTable 256 station } : State).stations.find h ≠ none) ∧
    (∀ h, h < 1024 → ({ small with points := fullTable 1024 point } : State).points.find h ≠ none) ∧
    (∀ h, h < 2048 →
      ({ small with bindings := fullTable 2048 binding } : State).bindings.find h ≠ none) ∧
    (∀ h, h < 32 → ({ small with slots := fullTable 32 slot } : State).slots.find h ≠ none) ∧
    (¬∃ row ∈ (fullTable 256 station).rows, row.2.link.val = 1) ∧
    (after (.addStation 0) (ask (req 1 0 7 0x00010101 0 0)
      { small with stations := fullTable 256 station })).client 0 =
        { small.client 0 with responses := [⟨0x00070501, 0, 0, 0⟩] } := by
  refine ⟨full _ _, full _ _, full _ _, full _ _, ?_, by decide +kernel⟩
  rintro ⟨row, hr, h⟩
  obtain ⟨_, _, rfl⟩ := List.mem_map.1 hr
  exact absurd h (by simp [station])

theorem test_RemoveStationFreesOrLeaves :
    let r := req 0x02 0 7 1 0 0
    let s := linkIn (.awaiting { exchange .identReq with station := 1 } 48000)
    ReadyRequest (ask r small) 0 r [] ∧ ReadyRequest (ask r s) 0 r [] ∧ r.kind = 0x02 ∧
      r.handle ≤ 255 ∧
      small.stations.find r.handle = some { station with
        state := .silent, address := 1, capacity := 0, staleCause := some .linkOff } ∧
      (∀ k q, small.slots.find k = some q → q.state = .queued → q.station ≠ r.handle) ∧
      (∀ x, (small.link 0).activity.exchange = some x → x.station ≠ r.handle) ∧
      (s.link 0).activity.exchange = some { exchange .identReq with station := 1 } ∧
      (after (.removeStation 0) (ask r small)).stations.find 1 = none ∧
      ((after (.removeStation 0) (ask r s)).stations.find 1).map Station.state = some .leaving ∧
      (after (.removeStation 0) (ask r s)).pollLists = ⟨[0], [], [], []⟩ := by
  refine ⟨ready _ rfl rfl, ready _ rfl rfl, by decide +kernel, by decide +kernel, by decide +kernel,
    forall_found (by decide), nofun, by decide +kernel, by decide +kernel, by decide +kernel,
    by decide +kernel⟩

/-- A station with a type code, a LIVE and a FORCED point, and bindings with and without a fault. -/
theorem test_QueriesReportTheRecord :
    (∀ r, ReadyRequest (ask r small) 0 r []) ∧
      small.stations.find (req 3 0 7 0 0 0).handle = some { station with chain := [0, 1, 2] } ∧
      small.points.find (req 0x11 0 7 0 0 0).handle = some { point with bindings := [0, 1, 2] } ∧
      (small.points.find (req 0x11 0 7 1 0 0).handle).map Point.forced = some (some force) ∧
      small.bindings.find (req 0x23 0 7 2 0 0).handle =
        some { binding with client := 3, trigger := .change, inFlight := true } ∧
      ((after (.queryStation 0) (ask (req 3 0 7 0 0 0) small)).client 0).responses =
        [⟨0x00070003, 0x017E0002, 0x00000204, 0x00070231⟩] ∧
      ((after (.lookupPoint 0) (ask (req 0x11 0 7 1 0 0) small)).client 0).responses =
        [⟨0x00070011, 0xFFFF1824, 100, 7⟩] ∧
      ((after (.queryBinding 0) (ask (req 0x23 0 7 2 0 0) small)).client 0).responses =
        [⟨0x00070023, 0x10310000, 0x1000, 0xFFFF⟩] := by
  refine ⟨fun r => ready r rfl rfl, by decide +kernel, by decide +kernel, by decide +kernel,
    by decide +kernel, by decide +kernel, by decide +kernel, by decide +kernel⟩

/-! ## Points -/

theorem test_CreatePointInsertsInOrder :
    let r := req 0x10 15 7 0x00050000 0x00010003 2000
    ReadyRequest (ask r small) 0 r [] ∧ r.kind = 0x10 ∧ fieldOf r.w1 0 16 ≤ 255 ∧
      fieldOf r.w1 16 16 ≤ 255 ∧ r.key ≤ 15 ∧ 1 ≤ fieldOf r.w2 0 8 ∧ fieldOf r.w2 0 8 ≤ 3 ∧
      small.stations.find (fieldOf r.w1 0 16) = some { station with chain := [0, 1, 2] } ∧
      [0, 1, 2] = [0] ++ [1, 2] ∧
      (∀ x ∈ [0], ∃ m, numberOf small x = some m ∧ m < fieldOf r.w1 16 16) ∧
      (∀ x ∈ [1, 2], ∃ m, numberOf small x = some m ∧ fieldOf r.w1 16 16 < m) ∧
      IsLowestFree small.points 1024 3 ∧
      ((after (.createPoint 0) (ask r small)).stations.find 0).map Station.chain =
        some [0, 3, 1, 2] := by
  refine ⟨ready _ rfl rfl, by decide +kernel, by decide +kernel, by decide +kernel, by decide +kernel,
    by decide +kernel, by decide +kernel, by decide +kernel, rfl, ?_, ?_, lowestFree (by decide +kernel),
    by decide +kernel⟩
  · intro x hx
    rcases List.mem_singleton.1 hx with rfl
    exact ⟨4, by decide +kernel, by decide +kernel⟩
  · intro x hx
    rcases List.mem_pair.1 hx with rfl | rfl
    · exact ⟨9, by decide +kernel, by decide +kernel⟩
    · exact ⟨255, by decide +kernel, by decide +kernel⟩

/-- The point numbers 4, 9 and 255 of a chain found; after 4; from start; and what is not found. -/
theorem test_FindAndNextPointSearchTheChain :
    (∀ r, ReadyRequest (ask r small) 0 r []) ∧
      small.stations.find 0 = some { station with chain := [0] ++ 1 :: [2] } ∧
      (small.points.find 1).map (fun p => p.number.toNat) = some 9 ∧
      (∀ x ∈ [0], numberOf small x ≠ some 9) ∧
      (∀ x ∈ [0], ∀ m, numberOf small x = some m → m ≤ 4) ∧
      (∀ x ∈ [2], ∀ m, numberOf small x = some m → 9 < m) ∧
      (∀ st, small.stations.find 1 = some st → st.chain = []) ∧
      (∀ x ∈ [(req 0x12 0 7 0x00090000 0 0, Instr.findPoint 0, 0, 0x00040001#32),
        (req 0x13 0 7 0x00040000 0 0, .nextPoint 0, 0, 0x04090001#32),
        (req 0x13 0 7 0xFFFF0000 1 0, .nextPoint 0, 0, 0x02040000#32),
        (req 0x12 0 7 256 0 0, .findPoint 0, 2, 0), (req 0x12 0 7 0x01000000 0 0, .findPoint 0, 2, 0),
        (req 0x12 0 7 255 0 0, .findPoint 0, 3, 0), (req 0x12 0 7 0x00050000 0 0, .findPoint 0, 3, 0),
        (req 0x13 0 7 256 1 0, .nextPoint 0, 2, 0), (req 0x13 0 7 0x01000000 0 0, .nextPoint 0, 2, 0),
        (req 0x13 0 7 1 1 0, .nextPoint 0, 3, 0), (req 0x13 0 7 0x00FF0000 0 0, .nextPoint 0, 3, 0)],
        after x.2.1 (ask x.1 small) = (ask x.1 small).answered 0 x.1 [] x.2.2.1 x.2.2.2 0 0) := by
  refine ⟨fun r => ready r rfl rfl, by decide +kernel, by decide +kernel, by decide +kernel, ?_, ?_, ?_,
    by decide +kernel⟩
  · intro x hx
    rcases List.mem_singleton.1 hx with rfl
    exact forall_some (b := 4) (by decide +kernel) (by decide)
  · intro x hx
    rcases List.mem_singleton.1 hx with rfl
    exact forall_some (b := 255) (by decide +kernel) (by decide)
  · exact forall_some (b := { station with
      state := .silent, address := 1, capacity := 0, staleCause := some .linkOff }) (by decide +kernel) rfl

/-- The five keyed requests at the boundaries of their checks. -/
theorem test_KeyedRequestRefusals :
    (∀ r, ReadyRequest (ask r small) 0 r []) ∧
      (small.points.find 0).map Point.key = some 15 ∧
      (∀ st, small.stations.find 1 = some st → st.state ≠ .present ∨ st.capacity = 0) ∧
      (∀ x ∈ [(req 0x14 15 7 1024 0 0, Instr.modifyPoint 0, 2),
        (req 0x14 15 7 0x00010000 0 0, .modifyPoint 0, 2), (req 0x14 15 7 0x00010000 4 0, .modifyPoint 0, 2),
        (req 0x15 15 7 1024 0 0, .retirePoint 0, 2), (req 0x16 15 7 1023 0 0, .forcePoint 0, 3),
        (req 0x17 15 7 1023 0 0, .releasePoint 0, 3), (req 0x30 15 7 1024 0 0, .sendCommand 0, 2),
        (req 0x14 255 7 0 0 0, .modifyPoint 0, 6), (req 0x15 14 7 0 0 0, .retirePoint 0, 6),
        (req 0x16 31 7 0 0 0, .forcePoint 0, 6), (req 0x17 0 7 0 0 0, .releasePoint 0, 6),
        (req 0x30 16 7 0 0 0, .sendCommand 0, 6), (req 0x14 15 7 2 0 0, .modifyPoint 0, 7),
        (req 0x15 255 7 2 0 0, .retirePoint 0, 7), (req 0x16 0 7 2 0 0, .forcePoint 0, 7),
        (req 0x17 15 7 2 0 0, .releasePoint 0, 7), (req 0x17 15 7 0 0 0, .releasePoint 0, 7),
        (req 0x30 15 7 2 0 0, .sendCommand 0, 7)],
        after x.2.1 (ask x.1 small) = (ask x.1 small).answered 0 x.1 [] x.2.2 0 0 0) := by
  refine ⟨fun r => ready r rfl rfl, by decide +kernel, ?_, by decide +kernel⟩
  exact forall_some (b := { station with
    state := .silent, address := 1, capacity := 0, staleCause := some .linkOff }) (by decide +kernel)
    (by decide)

/-- All four fields selected with the confirm counts 1 and 3, and an empty change mask. -/
theorem test_ModifyPointChangesSelectedFields :
    (∀ r, ReadyRequest (ask r small) 0 r []) ∧
      (∀ r ∈ [req 0x14 15 7 0x000F0000 0x00090701 0, req 0x14 15 7 0x00010000 3 0, req 0x14 15 7 0 0 0],
        r.kind = 0x14 ∧ r.handle ≤ 1023 ∧
        small.points.find r.handle = some { point with bindings := [0, 1, 2] } ∧
        (point.key = 0 ∨ r.key = point.key.toNat) ∧ point.state ≠ .retiring ∧
        (r.w1.getLsbD 16 = true → 1 ≤ fieldOf r.w2 0 8 ∧ fieldOf r.w2 0 8 ≤ 3)) ∧
      (after (.modifyPoint 0) (ask (req 0x14 15 7 0x000F0000 0x00090701 0) small)).points.find 0 =
        some { point with
          bindings := [0, 1, 2], confirm := 1, run := 0, deadband := 9, period := 0,
          deadline := none, key := 7 } := by
  refine ⟨fun r => ready r rfl rfl, by decide +kernel, by decide +kernel⟩

/-- A point without bindings, with each of the four kinds of pending command. -/
theorem test_RetirePointHandsOverItsCommand :
    let r := req 0x15 15 7 0 0 0
    let bare := fun (x : Slot) => ({ withSlot x with
      points := (withSlot x).points.modify 0 (fun p => { p with bindings := [] }) } : State)
    let accepted := { slot with state := .accepted, tag := some 15, deadline := some ⟨0, 100⟩ }
    let sent := { slot with state := .sent, tag := some 15 }
    r.kind = 0x15 ∧ r.handle ≤ 1023 ∧ r.key = point.key.toNat ∧ point.state ≠ .retiring ∧
      (∀ x ∈ [slot, accepted, sent, { sent with abort := some .aborted }],
        (bare x).points.find r.handle = some { point with pendingCmd := some 0 } ∧
        (bare x).slots.find 0 = some x ∧ x.point = r.handle ∧ (bare x).resetN = true ∧
        ((bare x).client 0).responses = []) ∧
      ((after (.retirePoint 0) (ask r (bare accepted))).tagSet 0).find 15 = some .abandoned ∧
      (after (.retirePoint 0) (ask r (bare slot))).cmdQueues = Quad.all [] ∧
      (after (.retirePoint 0) (ask r (bare slot))).points.find 0 = none ∧
      ((after (.retirePoint 0) (ask r (bare sent))).slots.find 0).map Slot.abort =
        some (some .retired) := by decide +kernel

theorem test_RetirePointClosesItsBindings :
    let r := req 0x15 15 7 0 0 0
    ReadyRequest (ask r small) 0 r [] ∧ r.kind = 0x15 ∧ r.handle ≤ 1023 ∧
      small.points.find r.handle = some { point with bindings := [0, 1, 2] } ∧
      r.key = point.key.toNat ∧ point.state ≠ .retiring ∧ point.pendingCmd = none ∧
      [0, 1, 2].Nodup ∧
      (∀ b ∈ [0, 1, 2], ∃ x, small.bindings.find b = some x ∧ x.point = r.handle ∧
        x.state ≠ .closing) ∧
      (∀ b ∈ small.mirrorQueue, ∀ x, small.bindings.find b = some x → x.state ≠ .suspended) ∧
      (after (.retirePoint 0) (ask r small)).mirrorQueue = [0, 2] ∧
      (after (.retirePoint 0) (ask r small)).bindings.find 1 = none := by
  refine ⟨ready _ rfl rfl, by decide +kernel, by decide +kernel, by decide +kernel, by decide +kernel,
    by decide, rfl, by decide, ?_, nofun, by decide +kernel, by decide +kernel⟩
  intro b hb
  simp only [List.mem_cons, List.not_mem_nil, or_false] at hb
  rcases hb with rfl | rfl | rfl
  · exact ⟨binding, by decide +kernel, by decide +kernel, by decide⟩
  · exact ⟨{ binding with state := .suspended, fault := some .timeout }, by decide +kernel,
      by decide +kernel, by decide⟩
  · exact ⟨{ binding with client := 3, trigger := .change, inFlight := true }, by decide +kernel,
      by decide +kernel, by decide⟩

/-- The same with a pending command, ACCEPTED or SENT. -/
theorem test_RetirePointClosesItsBindings_command :
    let r := req 0x15 15 7 0 0 0
    let accepted := { slot with state := .accepted, tag := some 15, deadline := some ⟨0, 100⟩ }
    let sent := { slot with state := .sent, tag := some 15 }
    (∀ x ∈ [slot, accepted, sent], (withSlot x).resetN = true ∧
      ((withSlot x).points.find 0).map (fun p => (p.pendingCmd, p.bindings)) =
        some (some 0, [0, 1, 2]) ∧
      (withSlot x).slots.find 0 = some x ∧ x.point = r.handle ∧ x.state ≠ .done ∧
      ((after (.retirePoint 0) (ask r (withSlot x))).points.find 0).map (fun p =>
        (p.state, p.bindings)) = some (.retiring, [0, 2])) ∧
      ((after (.retirePoint 0) (ask r (withSlot accepted))).slots.find 0).map Slot.result =
        some (some .retired) ∧
      ((after (.retirePoint 0) (ask r (withSlot accepted))).tagSet 0).find 15 = some .abandoned ∧
      ((after (.retirePoint 0) (ask r (withSlot sent))).points.find 0).map Point.pendingCmd =
        some (some 0) := by decide +kernel

theorem test_ForceAndReleasePoint :
    (∀ r, ReadyRequest (ask r small) 0 r []) ∧
      (∀ r ∈ [req 0x16 15 7 0 0x80000000 0, req 0x16 0 7 1 5 0], r.kind = 0x16 ∧ r.handle ≤ 1023) ∧
      small.points.find 0 = some { point with bindings := [0, 1, 2] } ∧ point.forced = none ∧
      (small.points.find 1).map (fun p => (p.state, p.forced)) = some (.forced, some force) ∧
      ((after (.forcePoint 0) (ask (req 0x16 15 7 0 0x80000000 0) small)).points.find 0).map
        Point.forced = some (some ⟨0x80000000, ⟨.live, some 100, .good, none⟩⟩) ∧
      (after (.forcePoint 0) (ask (req 0x16 15 7 0 0x80000000 0) small)).mirrorQueue = [0, 2] := by
  refine ⟨fun r => ready r rfl rfl, by decide +kernel, by decide +kernel, by decide, by decide +kernel,
    by decide +kernel, by decide +kernel⟩

theorem test_ForceAndReleasePoint_released :
    let r := req 0x17 77 7 1 0 0
    ReadyRequest (ask r small) 0 r [] ∧ r.kind = 0x17 ∧ r.handle ≤ 1023 ∧
      (small.points.find r.handle).map (fun p => (p.key, p.state, p.forced)) =
        some (0, .forced, some force) ∧
      ((after (.releasePoint 0) (ask r small)).points.find 1).map (fun p => (p.state, p.value, p.forced))
        = some (.live, some 42, none) := by
  refine ⟨ready _ rfl rfl, by decide +kernel, by decide +kernel, by decide +kernel, by decide +kernel⟩

theorem test_ReportEntriesAndPointEvents_event :
    small.points.find 0 = some { point with bindings := [0, 1, 2] } ∧ [0, 1, 2].Nodup ∧
      (pointEvent 0 .plain small).mirrorQueue = [0] ∧
      (pointEvent 0 .value { small with mirrorQueue := [2] }).mirrorQueue = [2, 0] := by decide +kernel

/-! ## Value acceptance and freshness -/

/-- Not yet confirmed; accepted beyond the deadband by one, and not beyond it. -/
theorem test_OkEntryFollowsTheAcceptanceTable :
    point.forced = none ∧ point.state = .live ∧
      (∀ e ∈ [(⟨4, false, 101⟩ : Entry), ⟨4, false, 106⟩, ⟨4, false, 105⟩], e.fault = false) ∧
      (point.takeEntry ⟨4, false, 101⟩ 9).2 = none ∧
      ({ point with candidate := 106 }.takeEntry ⟨4, false, 106⟩ 9).2 = some .value ∧
      ({ point with candidate := 105 }.takeEntry ⟨4, false, 105⟩ 9).2 = some .plain ∧
      ({ point with state := .stale, stale := some .silent }.takeEntry ⟨4, false, 100⟩ 9).2 =
        some .quality := by decide +kernel

theorem test_FaultAndForcedEntries :
    point.forced = none ∧ (⟨4, true, 0⟩ : Entry).fault = true ∧
      ({ point with state := .forced, forced := some force } : Point).state = .forced ∧
      (point.takeEntry ⟨4, true, 0⟩ 9).2 = some .quality ∧
      ({ point with quality := .bad }.takeEntry ⟨4, true, 0⟩ 9).2 = some .plain ∧
      ({ point with state := .forced, forced := some force }.takeEntry ⟨4, true, 0⟩ 9).2 = none := by
  decide +kernel

theorem test_ReportEntriesAndPointEvents :
    small.stations.find 0 = some { station with chain := [0] ++ 1 :: [2] } ∧
      (∀ x ∈ [0, 1, 2], numberOf small x ≠ some 5) ∧ (∀ x ∈ [0], numberOf small x ≠ some 9) ∧
      (small.points.find 1).map Point.number = some 9 ∧
      (small.points.find 2).map (fun p => (p.number, p.state)) = some (255, .retiring) ∧
      takeEntryAt 0 small ⟨5, false, 1⟩ = small ∧ takeEntryAt 0 small ⟨255, false, 1⟩ = small ∧
      (takeEntryAt 0 small ⟨4, true, 1⟩).mirrorQueue = [0, 2] := by decide +kernel

/-- Deadlines one millisecond before they are due, and due. -/
theorem test_MillisecondDeadlinesExpire :
    small.resetN = true ∧
      (small.points.find 0).map (fun p => (p.state, p.forced, p.deadline)) =
        some (.live, none, some ⟨0, 100⟩) ∧
      (small.points.find 1).map (fun p => (p.state, p.forced.map (fun f => f.under.state))) =
        some (.forced, some .live) ∧
      deadlineDue (some ⟨0, 100⟩) 99 = false ∧ deadlineDue (some ⟨0, 100⟩) 100 = true ∧
      ((after (.freshnessExpiry 0) { small with now := 100 }).points.find 0).map Point.state =
        some .stale ∧
      (let s := { withSlot { slot with
        state := .accepted, tag := some 0, deadline := some ⟨0, 100⟩ } with now := 100 }
      s.slots.find 0 = some { slot with
        state := .accepted, tag := some 0, deadline := some ⟨0, 100⟩ } ∧
        ((after (.completionDeadlineExpiry 0) s).slots.find 0).map Slot.result =
          some (some .timedOut)) := by decide +kernel

/-! ## Bindings -/

theorem test_BindAndUnbind :
    let r := req 0x20 15 7 0x00020001 0xFFFFFFF0 0
    ReadyRequest (ask r small) 0 r [] ∧ r.kind = 0x20 ∧ r.handle ≤ 1023 ∧ r.key ≤ 15 ∧
      fieldOf r.w2 0 4 = 0 ∧ fieldOf r.w1 16 8 = 2 ∧
      (small.points.find r.handle).map (fun p => (p.state, p.bindings)) = some (.forced, []) ∧
      IsLowestFree small.bindings 2048 3 ∧ 3 ∉ small.mirrorQueue ∧
      (after (.bind 0) (ask r small)).mirrorQueue = [3] ∧
      ((after (.bind 0) (ask r small)).bindings.find 3).map Binding.trigger = some .quality := by
  refine ⟨ready _ rfl rfl, by decide +kernel, by decide +kernel, by decide +kernel, by decide +kernel,
    by decide +kernel, by decide +kernel, lowestFree (by decide +kernel), by decide, by decide +kernel,
    by decide +kernel⟩

/-- Every binding and command refusal at a boundary of its range. -/
theorem test_BindingAndCommandRefusals :
    (∀ r, ReadyRequest (ask r small) 0 r []) ∧
      (let s := withSlot { slot with state := .done, result := some .aborted }
      let t := { withSlot slot with
        points := (withSlot slot).points.modify 0 (fun p => { p with bindings := List.range 8 }) }
      let u := { small with
        slots := ⟨(List.range 16).map (fun h => (h, { slot with state := .done }))⟩
        bindings := small.bindings.modify 0 (fun b => { b with state := .closing }) }
      (∀ x ∈ [(req 0x20 0 7 1024 0 0, Instr.bind 0, 2, small), (req 0x20 0 7 0 8 0, .bind 0, 2, small),
        (req 0x20 0 7 0x00030000 0 0, .bind 0, 2, small), (req 0x20 16 7 0 0 0, .bind 0, 2, small),
        (req 0x20 15 7 1023 0 0, .bind 0, 3, small), (req 0x20 0 7 2 0 0, .bind 0, 7, small),
        (req 0x20 0 7 0 0 0, .bind 0, 10, t),
        (req 0x21 0 7 2048 0 0, .unbind 0, 2, small), (req 0x22 0 7 2048 0 0, .resume 0, 2, small),
        (req 0x23 0 7 2048 0 0, .queryBinding 0, 2, small), (req 0x21 0 7 2047 0 0, .unbind 0, 3, small),
        (req 0x21 0 7 2 0 0, .unbind 0, 3, small), (req 0x22 0 7 2 0 0, .resume 0, 3, small),
        (req 0x21 0 7 0 0 0, .unbind 0, 7, u), (req 0x22 0 7 0 0 0, .resume 0, 7, small),
        (req 0x30 15 7 0 0 0, .sendCommand 0, 8, withSlot slot),
        (req 0x30 15 7 0 0 0, .sendCommand 0, 11, u),
        (req 0x31 0 7 32 0 0, .abortCommand 0, 2, s), (req 0x31 0 7 31 0 0, .abortCommand 0, 3, s),
        (req 0x31 0 7 0 0 0, .abortCommand 0, 7, s)],
        after x.2.1 (ask x.1 x.2.2.2) = (ask x.1 x.2.2.2).answered 0 x.1 [] x.2.2.1 0 0 0) ∧
        8 ≤ (List.range 8).length ∧ 16 ≤ clientSlots u 0) := by
  refine ⟨fun r => ready r rfl rfl, by decide +kernel⟩

theorem test_BindAndUnbind_unbound :
    (∀ r, ReadyRequest (ask r small) 0 r []) ∧
      (∀ h ∈ [0, 1], (req 0x21 0 7 (BitVec.ofNat 32 h) 0 0).handle = h ∧
        (small.bindings.find h).map (fun b => (b.client, b.inFlight, b.point)) = some (0, false, 0)) ∧
      (small.points.find 0).map Point.state = some .live ∧
      ((after (.unbind 0) (ask (req 0x21 0 7 0 0 0) small)).points.find 0).map Point.bindings =
        some [1, 2] ∧
      (let s := { small with bindings := small.bindings.modify 0 (fun b => { b with inFlight := true }) }
      s.bindings.find 0 = some { binding with inFlight := true } ∧
        ((after (.unbind 0) (ask (req 0x21 0 7 0 0 0) s)).bindings.find 0).map Binding.state =
          some .detaching) := by
  refine ⟨fun r => ready r rfl rfl, by decide +kernel⟩

theorem test_ResumeQueuesTheBinding :
    (∀ r, ReadyRequest (ask r small) 0 r []) ∧ (req 0x22 0 7 1 0 0).kind = 0x22 ∧
      2047 < (req 0x22 0 7 2048 0 0).handle ∧
      (∀ b, small.bindings.find 2047 = some b → b.client ≠ 0) ∧
      small.bindings.find 1 = some { binding with state := .suspended, fault := some .timeout } ∧
      small.bindings.find 0 = some binding ∧ 1 ∉ small.mirrorQueue ∧
      (after (.resume 0) (ask (req 0x22 0 7 1 0 0) small)).mirrorQueue = [1] ∧
      (after (.resume 0) (ask (req 0x22 0 7 1 0 0) small)).bindings.find 1 = some binding := by
  refine ⟨fun r => ready r rfl rfl, by decide +kernel, by decide +kernel, ?_, by decide +kernel,
    by decide +kernel, by decide +kernel, by decide +kernel, by decide +kernel⟩
  intro b hb
  have h : small.bindings.find 2047 = none := by decide +kernel
  rw [h] at hb
  exact nomatch hb

/-! ## Commands -/

/-- A new slot on a link in GAP that opens a decision. -/
theorem test_SendCommandQueuesASlot :
    let r := req 0x30 15 0xFFFF 0 0x80000001 0
    ReadyRequest (ask r small) 0 r [] ∧ r.kind = 0x30 ∧ r.handle ≤ 1023 ∧
      small.points.find r.handle = some { point with bindings := [0, 1, 2] } ∧
      r.key = point.key.toNat ∧ point.state ≠ .retiring ∧ point.pendingCmd = none ∧
      small.stations.find point.station = some { station with chain := [0, 1, 2] } ∧
      station.state = .present ∧ 0 < station.capacity ∧
      IsLowestFree small.slots 32 0 ∧ clientSlots small 0 < 16 ∧
      (after (.sendCommand 0) (ask r small)).cmdQueue 0 = [0] ∧
      ((after (.sendCommand 0) (ask r small)).link 0).activity = .deciding := by
  refine ⟨ready _ rfl rfl, by decide +kernel, by decide +kernel, by decide +kernel, by decide +kernel,
    by decide, rfl, by decide +kernel, by decide, by decide, lowestFree (by decide +kernel),
    by decide +kernel, by decide +kernel, by decide +kernel⟩

theorem test_AbortCommandEndsOrMarksTheSlot :
    let r := req 0x31 0 7 0 0 0
    let sent := { slot with state := .sent, tag := some 3 }
    let accepted := { slot with state := .accepted, tag := some 3, deadline := some ⟨0, 100⟩ }
    (∀ x, ReadyRequest (ask r (withSlot x)) 0 r []) ∧ r.kind = 0x31 ∧ r.handle ≤ 31 ∧
      (∀ x ∈ [slot, sent, accepted], (withSlot x).slots.find r.handle = some x ∧ x.client = 0 ∧
        ((withSlot x).points.find x.point).map Point.state = some .live) ∧
      ((after (.abortCommand 0) (ask r (withSlot slot))).slots.find 0).map Slot.state = some .done ∧
      ((after (.abortCommand 0) (ask r (withSlot sent))).slots.find 0).map Slot.abort =
        some (some .aborted) ∧
      (after (.abortCommand 0) (ask r (withSlot accepted))).doneList 0 = [0] := by
  refine ⟨fun x => ready _ rfl rfl, by decide +kernel⟩

theorem test_CollectTakesTheOldestDoneSlot :
    let r := req 0x32 0 7 0 0 0
    let s := withSlot { slot with state := .done, result := some .refused, code := 255 }
    ReadyRequest (ask r small) 0 r [] ∧ ReadyRequest (ask r s) 0 r [] ∧ r.kind = 0x32 ∧
      small.doneList 0 = [] ∧ s.doneList 0 = 0 :: [] ∧
      s.slots.find 0 = some { slot with state := .done, result := some .refused, code := 255 } ∧
      ((after (.collect 0) (ask r s)).client 0).responses =
        [⟨0x00070032, 0, 0x1234FF03, 0⟩] := by
  refine ⟨ready _ rfl rfl, ready _ rfl rfl, by decide +kernel⟩

/-- A slot that is SENT on a link outside GAP: accepted, refused, silent, and the same marked ABORTED. -/
theorem test_CommandAnswerTable :
    let sent := { slot with state := .sent, tag := some 3, timeout := some 255 }
    let marked := { sent with abort := some .aborted }
    let s := (withSlot sent).modifyLink 0 (fun k => { k with activity := .quiet 5 })
    let t := (withSlot marked).modifyLink 0 (fun k => { k with activity := .quiet 5 })
    s.slots.find 0 = some sent ∧ t.slots.find 0 = some marked ∧
      (s.points.find 0).map Point.state = some .live ∧
      s.stations.find 0 = some { station with chain := [0, 1, 2] } ∧ (s.link 0).activity ≠ .gap ∧
      (t.link 0).activity ≠ .gap ∧
      ((commandAnswer 0 (.answered (.ack 0)) s).slots.find 0).map Slot.deadline =
        some (some ⟨0, 25500⟩) ∧
      ((commandAnswer 0 (.answered (.ack 255)) s).slots.find 0).map Slot.code = some 255 ∧
      ((commandAnswer 0 .silent s).tagSet 0).find 3 = some .abandoned ∧
      ((commandAnswer 0 (.answered (.ack 0)) t).tagSet 0).find 3 = some .abandoned ∧
      (commandAnswer 0 (.answered (.ack 1)) t).tagSets = ⟨[]⟩ := by decide +kernel

/-- The last thing a RETIRING point waits for. -/
theorem test_CommandAnswerTable_retiring :
    let marked := { slot with state := .sent, tag := some 3, abort := some .retired }
    let s := { (withSlot marked).modifyLink 0 (fun k => { k with activity := .quiet 5 }) with
      points := (withSlot marked).points.modify 0 (fun p =>
        { p with state := .retiring, bindings := [], run := 0, deadline := none }) }
    s.slots.find 0 = some marked ∧ (s.link 0).activity ≠ .gap ∧
      (s.points.find 0).map (fun p => (p.state, p.bindings, p.pendingCmd)) =
        some (.retiring, [], some 0) ∧
      (commandAnswer 0 .silent s).points.find 0 = none ∧
      ((commandAnswer 0 .silent s).stations.find 0).map Station.chain = some [1, 2] ∧
      ((commandAnswer 0 (.answered (.ack 9)) s).slots.find 0).map (fun r => (r.result, r.code)) =
        some (some .retired, 9) := by decide +kernel

/-- A free tag, an abandoned one and one held by an ACCEPTED slot. -/
theorem test_CompletionTable :
    let accepted := { slot with state := .accepted, tag := some 15, deadline := some ⟨0, 100⟩ }
    let s := (withSlot accepted).modifyLink 0 (fun k => { k with activity := .quiet 5 })
    let t := { s with tagSets := ⟨[(0, ⟨[(0, .abandoned)]⟩)]⟩ }
    s.stations.find 0 = some { station with chain := [0, 1, 2] } ∧ (s.link 0).activity ≠ .gap ∧
      (s.tagSet 0).find 16 = none ∧ (t.tagSet 0).find 0 = some .abandoned ∧
      (s.tagSet 0).find 15 = some (.held 0) ∧ s.slots.find 0 = some accepted ∧
      (s.points.find 0).map Point.state = some .live ∧
      ((takeCompletion 0 0 s ⟨16, 0⟩).link 0).status = 0x040 ∧
      ((takeCompletion 0 0 t ⟨0, 0⟩).link 0).status = 0x080 ∧
      ((takeCompletion 0 0 s ⟨15, 255⟩).slots.find 0).map Slot.result =
        some (some .completedFail) := by decide +kernel

/-- A station with an ACCEPTED slot and one that is SENT, which its exchange ends. -/
theorem test_StationCommandsEndAtADeparture :
    let s := { linkIn .deciding with
      stations := small.stations.modify 0 (fun st => { st with state := .joining, capacity := 0 })
      points := small.points.modify 0 (fun p => { p with pendingCmd := some 1 })
      slots := ⟨[(0, { slot with state := .sent, tag := some 3 }),
        (1, { slot with client := 2, state := .accepted, tag := some 4, deadline := some ⟨0, 9⟩ })]⟩
      tagSets := ⟨[(0, ⟨[(3, .held 0), (4, .held 1)]⟩)]⟩ }
    let t := endStationCommands 0 .stationLost s
    (s.stations.find 0).map Station.capacity = some 0 ∧
      ((List.range 32).filter (fun h => match s.slots.find h with
        | some r => r.station == 0 && (r.state == .queued || r.state == .accepted)
        | none => false)) = [1] ∧
      (s.slots.find 1).map Slot.point = some 0 ∧ (s.points.find 0).map Point.state = some .live ∧
      (t.slots.find 1).map Slot.result = some (some .stationLost) ∧ t.slots.find 0 = s.slots.find 0 ∧
      t.doneList 2 = [1] ∧ (t.client 2).sticky.commandDone = true ∧ t.tagSets = ⟨[]⟩ ∧
      (t.points.find 0).map Point.pendingCmd = some none := by decide +kernel

/-! ## Links -/

/-- Enabled; refused for divisor 0; with an empty poll list; RUNNING already. -/
theorem test_LinkEnableStartsTheFirstRound :
    small.resetN = true ∧ (small.link 0).activity ≠ .disabled ∧
      (small.link 1).activity = .disabled ∧ (small.link 1).config.divisor = 0 ∧
      ((after (.linkEnable 1) small).link 1).status = 0x400 ∧
      (let s := linkIn .disabled
      (s.link 0).activity = .disabled ∧ (s.link 0).config.divisor ≠ 0 ∧ s.pollList 0 = 0 :: [1] ∧
        (s.stations.find 0).map Station.state = some .present ∧
        ((after (.linkEnable 0) s).stations.find 1).map Station.state = some .joining ∧
        (let e := { s with pollLists := Quad.all [] }
        e.pollList 0 = [] ∧ ((after (.linkEnable 0) e).link 0).activity = .idle)) := by
  decide +kernel

/-- The link of a station with a command in flight is disabled. -/
theorem test_linkDisable_ends_the_command :
    let sent := { slot with state := .sent, tag := some 3 }
    let s := (withSlot sent).modifyLink 0 (fun k =>
      { k with activity := .awaiting (exchange (.command 0 3)) 48000 })
    let t := after (.linkDisable 0) s
    (s.link 0).sentSlot = some 0 ∧ s.slots.find 0 = some sent ∧
      (t.slots.find 0).map Slot.result = some (some .linkDown) ∧
      (t.stations.find 0).map Station.state = some .silent ∧ t.stations.find 2 = none ∧
      (t.points.find 0).map Point.stale = some (some .linkOff) ∧ t.tagSets = ⟨[]⟩ := by
  decide +kernel

/-- The SILENT station 1 is passed over, since the round counter is not 0; then it is due. -/
theorem test_VisitStartsAtTheFirstDueStation :
    let s := ({ small with pollLists := ⟨[1, 0], [], [], []⟩ } : State).modifyLink 0 (fun k => { k with
      activity := .deciding, pollGap := .stopped, roundPos := some 1, roundCounter := 7, burst := 8 })
    s.resetN = true ∧ (s.link 0).activity = .deciding ∧ (s.link 0).pollGap = .stopped ∧
      (s.link 0).config.burstLimit.toNat ≤ (s.link 0).burst ∧ (∀ h ∈ s.cmdQueue 0, s.eligible h = false) ∧
      s.pollList 0 = [] ++ ([1] ++ 0 :: []) ∧ (s.pollList 0).Nodup ∧
      (s.link 0).roundPos = ([1] ++ 0 :: []).head? ∧
      s.stations.find 0 = some { station with chain := [0, 1, 2] } ∧
      (s.stations.find 1).map Station.state = some .silent ∧ (s.link 0).roundCounter ≠ 0 ∧
      (after (.visitStart 0) s).link 0 = { s.link 0 with
        activity := .sending { exchange .poll with frame := [0x7E, 0x01, 0x10, 0x2E, 0x95] }
        roundPos := none, burst := 0 } := by decide +kernel

theorem test_CommandExchangeTakesTheOldestEligibleSlot :
    let s := (withSlot slot).modifyLink 0 (fun k => { k with activity := .deciding, burst := 3 })
    s.resetN = true ∧ (s.link 0).activity = .deciding ∧
      (s.link 0).burst < (s.link 0).config.burstLimit.toNat ∧ s.cmdQueue 0 = [] ++ 0 :: [] ∧
      s.slots.find 0 = some slot ∧ slot.state = .queued ∧
      s.stations.find 0 = some { station with chain := [0, 1, 2] } ∧
      (s.tagSet 0).rows.length < station.capacity ∧
      (s.points.find 0).map Point.number = some 4 ∧ IsLowestFree (s.tagSet 0) 16 0 ∧
      ((after (.commandExchangeStart 0) s).slots.find 0).map (fun r => (r.state, r.tag)) =
        some (.sent, some 0) ∧
      ((after (.commandExchangeStart 0) s).link 0).burst = 4 := by
  refine ⟨by decide +kernel, by decide +kernel, by decide +kernel, by decide +kernel, by decide +kernel,
    by decide, by decide +kernel, by decide +kernel, by decide +kernel, lowestFree (by decide +kernel),
    by decide +kernel, by decide +kernel⟩

theorem test_FrameSentAndStartBits :
    let x := exchange .poll
    small.resetN = true ∧ ((linkIn (.sending x)).link 0).activity = .sending x ∧
      (∀ y, (small.link 0).activity ≠ .sending y) ∧ (small.link 0).inCharacter = false ∧
      ((after (.frameSent 0) (linkIn (.sending x))).link 0).activity = .awaiting x 48000 ∧
      ((after (.startBitDetected 0 true false) (linkIn (.awaiting x 48000))).link 0).inCharacter =
        true ∧
      after (.startBitDetected 0 false false) (linkIn (.awaiting x 48000)) =
        linkIn (.awaiting x 48000) ∧
      (∀ a ∈ [Activity.idle, .gap, .deciding, .quiet 5],
        ((linkIn a).link 0).inCharacter = false ∧ ((linkIn a).link 0).activity = a ∧
        ((after (.startBitDetected 0 true false) (linkIn a)).link 0).inCharacter = true ∧
        after (.startBitDetected 0 false true) (linkIn a) = linkIn a) ∧
      ((after (.startBitDetected 0 false true) (linkIn (.awaiting x 48000))).link 0).activity =
        .quiet 54912 := by
  refine ⟨by decide, by decide +kernel, nofun, by decide +kernel, by decide +kernel, by decide +kernel,
    by decide +kernel, by decide +kernel, by decide +kernel⟩

/-- The address and length characters pass, a wrong mark bit is a fault, and the 63rd character of a
damaged frame only counts. -/
theorem test_CharactersAreCheckedAndCounted :
    let x := exchange .poll
    let one := Receiver.fresh.take x 126 true true
    (linkIn (.receiving x one)).resetN = true ∧
      ((linkIn (.receiving x one)).link 0).activity = .receiving x one ∧
      (one.take x 4 false true).fault = none ∧ (one.take x 4 false true).expected = some 8 ∧
      (one.take x 4 true true).fault = some .frame ∧ (one.take x 4 false false).fault = some .frame ∧
      (one.take x 0 false true).fault = some .length ∧ (one.take x 61 false true).fault = some .length ∧
      ({ one with count := 62, fault := some .crc }.take x 0 true true).count = 63 ∧
      ((after (.characterReceived 0 4 false true) (linkIn (.receiving x one))).link 0).activity =
        .receiving x (one.take x 4 false true) ∧
      ((linkIn (.awaiting x 48000)).link 0).activity = .awaiting x 48000 ∧
      ((after (.characterReceived 0 126 true true) (linkIn (.awaiting x 48000))).link 0).activity =
        .receiving x one ∧
      after (.characterReceived 0 4 false true) (linkIn (.sending x)) = linkIn (.sending x) := by
  decide +kernel

/-- Field checks at the ends of their ranges, and a frame that closes. -/
theorem test_FrameChecksByPositionAndAtTheEnd :
    fieldCheck 126 [126, 10, 0x20] 4 0xFF = none ∧ fieldCheck 126 [126, 10, 0x20, 0, 1] 7 0xFF = none ∧
      fieldCheck 126 [126, 10, 0x20, 0, 1] 12 0 = none ∧
      fieldCheck 126 [126, 5, 0x21, 0] 5 0xFF = none ∧
    fieldCheck 126 [126] 2 60 = none ∧ fieldCheck 126 [126] 2 1 = none ∧
      fieldCheck 126 [126, 4] 3 0x20 = none ∧ fieldCheck 126 [126, 60] 3 0x20 = none ∧
      fieldCheck 126 [126, 3] 3 0x20 = some .length ∧ fieldCheck 126 [126, 61] 3 0x23 = none ∧
      fieldCheck 126 [126, 52, 0x20, 0] 5 8 = none ∧ fieldCheck 126 [126, 52, 0x20, 0] 5 9 = some .length ∧
      fieldCheck 126 [126, 4, 0x20, 0, 0] 6 0 = none ∧
      fieldCheck 126 [126, 12, 0x20, 0, 0] 6 4 = none ∧
      fieldCheck 126 [126, 14, 0x20, 0, 0] 6 5 = some .length ∧
      fieldCheck 126 [126, 5, 0x21, 0, 0] 6 4 = none ∧
      fieldCheck 126 [126, 5, 0x21, 0, 0] 6 5 = some .length ∧
      (let x := exchange (.command 0 15)
      let f := buildFrame 126 0x22 [15, 255]
      let rx := (received x f).take x (f.getLastD 0) false true
      rx.fault = none ∧ rx.bytes = f.take 5 ++ [f.getD 5 0, f.getD 6 0] ∧ rx.count = 5 + 2 ∧
        rx.expected = some rx.count ∧ (f.take 5)[2]? = some 0x22 ∧
        rx.closure x.kind = some (.answered (.ack 255)) ∧
        rx.closure (.command 0 14) = some (.damaged .kind) ∧ rx.closure .poll = some (.damaged .kind) ∧
        { rx with crc := 0 }.closure x.kind = some (.damaged .crc)) := by decide +kernel

/-- A frame with a fault pending at 63 and at 64 characters, and one short of its expected length. -/
theorem test_FrameChecks_pendingFault :
    let rx := { Receiver.fresh with count := 63, fault := some .address }
    rx.fault = some .address ∧ rx.closure .poll = none ∧
      { rx with count := 64 }.closure .poll = some (.damaged .address) ∧
      Receiver.fresh.fault = none ∧ Receiver.fresh.expected ≠ some Receiver.fresh.count ∧
      Receiver.fresh.closure .poll = none := by decide +kernel

/-- A REPORT of two entries, the second a FAULT, and two completions. -/
theorem test_FrameChecks_report :
    let f := buildFrame 126 0x20 [1, 2, 4, 0, 0, 0, 0, 200, 9, 255, 1, 2, 3, 4, 2, 3, 0, 15, 9]
    let rx := (received (exchange .poll) f).take (exchange .poll) (f.getLastD 0) false true
    rx.fault = none ∧ rx.count = 24 ∧ rx.expected = some 24 ∧ rx.bytes = f.take 22 ++ f.drop 22 ∧
      (f.take 22)[4]? = some 2 ∧ (f.take 22)[17]? = some 2 ∧ (f.take 22).length = 6 + 6 * 2 + 2 * 2 ∧
      rx.closure .poll = some (.answered (.report true
        [⟨4, false, 200⟩, ⟨9, true, 0x01020304⟩] [⟨3, 0⟩, ⟨15, 9⟩])) := by decide +kernel

/-- An IDENT, a REPORT with and without RESTARTED, and a LEAVING station. -/
theorem test_AnsweredExchangeActsAtTheStation :
    let x := exchange .identReq
    let f := buildFrame 126 0x21 [0x02, 0x31, 4, 0]
    let p := exchange .poll
    let g := fun b => buildFrame 126 0x20 [b, 1, 4, 0, 0, 0, 0, 200, 0]
    let sx := linkIn (.receiving x (received x f))
    let sg := fun b => linkIn (.receiving p (received p (g b)))
    let y := { x with station := 2 }
    let answer := fun (e : Exchange) (h : List Byte) =>
      ((received e h).take e (h.getLastD 0) false true).closure e.kind
    (sx.link 0).activity = .receiving x (received x f) ∧
      answer x f = some (.answered (.ident 0x0231 4)) ∧
      answer p (g 0) = some (.answered (.report false [⟨4, false, 200⟩] [])) ∧
      answer p (g 0xFF) = some (.answered (.report true [⟨4, false, 200⟩] [])) ∧
      (sx.stations.find 0).map Station.state = some .present ∧
      (small.stations.find 2).map Station.state = some .leaving ∧ small.slots = ⟨[]⟩ ∧
      ((after (.characterReceived 0 (f.getLastD 0) false true) sx).stations.find 0).map
        Station.capacity = some 4 ∧
      ((after (.characterReceived 0 ((g 0).getLastD 0) false true) (sg 0)).points.find 0).map
        Point.candidate = some 200 ∧
      ((after (.characterReceived 0 ((g 0xFF).getLastD 0) false true) (sg 0xFF)).stations.find 0).map
        Station.state = some .joining ∧
      (after (.characterReceived 0 (f.getLastD 0) false true)
        (linkIn (.receiving y (received y f)))).stations.find 2 = none := by decide +kernel

/-- A response deadline and a gap deadline, below the limit, at it, and at a LEAVING station. -/
theorem test_MissesAreCountedToTheLimit :
    let x := { exchange .identReq with station := 1 }
    let s := linkIn (.awaiting x 48000)
    let joining := { s with stations := s.stations.modify 1 (fun st =>
      { st with state := .joining, miss := 2, staleCause := none }) }
    let rx := { received x [1, 2] with gap := some 109824 }
    let g := linkIn (.receiving { x with station := 2 } rx)
    s.resetN = true ∧ (s.stations.find 1).map (fun st => (st.chain, st.state)) = some ([], .silent) ∧
      x.kind = .identReq ∧ s.slots = ⟨[]⟩ ∧ (s.link 0).activity = .awaiting x 48000 ∧
      min (1 + 1) x.missLimit.toNat ≠ x.missLimit.toNat ∧
      min (2 + 1) x.missLimit.toNat = x.missLimit.toNat ∧
      (g.link 0).activity = .receiving { x with station := 2 } rx ∧ rx.gap = some 109824 ∧
      ((after (.responseDeadlineExpiry 0) s).stations.find 1).map Station.miss = some 2 ∧
      ((after (.responseDeadlineExpiry 0) joining).stations.find 1).map Station.state = some .silent ∧
      ((after (.responseDeadlineExpiry 0) joining).link 0).status = 0x120 ∧
      (after (.gapDeadlineExpiry 0) g).stations.find 2 = none ∧
      ((after (.gapDeadlineExpiry 0) g).link 0).status = 0x008 := by decide +kernel

/-- The small machine with the SENT slot 0 and the ACCEPTED slot 1 of station 0, on points 0 and 1, link
0 in an exchange state. -/
def commanded (a : Activity) : State := { linkIn a with
  points := small.points.modify 0 (fun p => { p with pendingCmd := some 0 })
  slots := ⟨[(0, { slot with state := .sent, tag := some 3, timeout := some 9 }),
    (1, { slot with point := 1, state := .accepted, tag := some 4, deadline := some ⟨0, 100⟩ })]⟩
  tagSets := ⟨[(0, ⟨[(3, .held 0), (4, .held 1)]⟩)]⟩ }

/-- The four ends of an exchange: the last character of an ACK; a character that closes a frame with a wrong
CRC, read in RECEIVING; the deadlines; and a false start. An ACK clears the miss count; a REPORT with
RESTARTED ends the commands. -/
theorem test_ExchangeEnds_answered :
    let x := exchange (.command 0 3)
    let f := buildFrame 126 0x22 [3, 0]
    let s := commanded (.receiving x (received x f))
    let p := exchange .poll
    let g := buildFrame 126 0x20 [1, 0, 0]
    let v := commanded (.receiving p (received p g))
    (∃ u, ExchangeEnds s 0 x (.characterReceived 0 (f.getLastD 0) false true)
      (.answered (.ack 0)) u) ∧
      (∃ u, ExchangeEnds v 0 p (.characterReceived 0 (g.getLastD 0) false true)
        (.answered (.report true [] [])) u) ∧
      s.resetN = true ∧ (s.stations.find 0).map (fun st => (st.state, st.miss)) = some (.present, 1) ∧
      ((after (.characterReceived 0 (f.getLastD 0) false true) s).stations.find 0).map
        Station.miss = some 0 ∧
      ((after (.characterReceived 0 (f.getLastD 0) false true) s).slots.find 0).map Slot.state =
        some .accepted ∧
      ((after (.characterReceived 0 (g.getLastD 0) false true) v).slots.find 1).map Slot.result =
        some (some .stationRestarted) := by
  intro x f s p g v
  exact ⟨⟨_, .character (received x f) _ _ _ _ (.inl (by decide +kernel)) (by decide +kernel)⟩,
    ⟨_, .character (received p g) _ _ _ _ (.inl (by decide +kernel)) (by decide +kernel)⟩,
    by decide +kernel, by decide +kernel, by decide +kernel, by decide +kernel, by decide +kernel⟩

theorem test_ExchangeEnds_missed :
    let x := { exchange (.command 0 3) with missLimit := 2 }
    let y := exchange (.command 0 3)
    let f := buildFrame 126 0x22 [3, 0]
    let s := commanded (.awaiting x 48000)
    let v := commanded (.receiving y (received y f))
    let w := commanded (.receiving y { received y [126] with gap := some 109824 })
    (∃ u, ExchangeEnds s 0 x (.responseDeadlineExpiry 0) .silent u) ∧
      (∃ u, ExchangeEnds s 0 x (.startBitDetected 0 false true) .silent u) ∧
      (∃ u, ExchangeEnds v 0 y (.characterReceived 0 0xFF false true) (.damaged .crc) u) ∧
      (∃ u, ExchangeEnds w 0 y (.gapDeadlineExpiry 0) (.damaged .length) u) ∧
      s.resetN = true ∧ min (1 + 1) x.missLimit.toNat = x.missLimit.toNat ∧
      min (1 + 1) y.missLimit.toNat ≠ y.missLimit.toNat ∧
      (let t := after (.responseDeadlineExpiry 0) s
      (t.slots.find 0).map Slot.result = some (some .noResponse) ∧
        (t.slots.find 1).map Slot.result = some (some .stationLost) ∧
        (t.stations.find 0).map Station.state = some .silent ∧
        (t.points.find 0).map Point.state = some .stale ∧ t.doneList 0 = [0, 1]) ∧
      (let t := after (.characterReceived 0 0xFF false true) v
      (t.slots.find 0).map Slot.result = some (some .noResponse) ∧
        (t.stations.find 0).map Station.miss = some 2 ∧ (t.link 0).status = 0x002) := by
  intro x y f s v w
  exact ⟨⟨_, .response 48000 (by decide +kernel)⟩,
    ⟨_, .falseStart 48000 (by decide +kernel) (by decide +kernel)⟩,
    ⟨_, .character (received y f) _ _ _ _ (.inl (by decide +kernel)) (by decide +kernel)⟩,
    ⟨_, .gap { received y [126] with gap := some 109824 } 109824 (by decide +kernel) rfl⟩,
    by decide +kernel, by decide +kernel, by decide +kernel, by decide +kernel, by decide +kernel⟩

theorem test_SilenceReachesThePoints :
    small.stations.find 0 = some { station with chain := [0, 1, 2] } ∧ [0, 1, 2].Nodup ∧
      ((agePoints 0 .silent small).points.find 0).map Point.state = some .stale ∧
      ((agePoints 0 .silent small).points.find 1).map Point.forced =
        some (some ⟨100, ⟨.stale, some 42, .bad, some .silent⟩⟩) ∧
      (agePoints 0 .silent small).points.find 2 = small.points.find 2 ∧
      (agePoints 0 .silent small).points.find 3 = none ∧
      small.agedBindings [0, 1, 2] = [0, 2] ∧ (agePoints 0 .silent small).mirrorQueue = [0, 2] ∧
      (agePoints 0 .silent { small with mirrorQueue := [2] }).mirrorQueue = [2, 0] := by decide +kernel

/-- The bits of the address and of the length character of a POLL to address 126, and a link in GAP. -/
theorem test_FrameSentAndStartBits_pins :
    let k := (linkIn (.sending (exchange .poll))).link 0
    k.activity = .sending (exchange .poll) ∧ k.txen = true ∧ k.txd.length = 55 ∧
      k.txd.take 22 = [false, false, true, true, true, true, true, true, false, true, true,
        false, true, false, false, false, false, false, false, false, false, true] ∧
      (small.link 0).activity = .gap ∧ (small.link 0).txen = false ∧ (small.link 0).txd = [true] := by
  decide +kernel

/-- QUIET with a running poll gap, with none, at the end of a round, and with a poll gap of 0; the poll
gap's expiry in an exchange, in GAP with and without stations, and before it is due. -/
theorem test_DecisionPointsFollowTheArbiter :
    let q := linkIn (.quiet 5)
    let stopped := q.modifyLink 0 (fun k => { k with pollGap := .stopped, roundPos := some 0 })
    let ended := q.modifyLink 0 (fun k => { k with pollGap := .stopped })
    let silent := ({ ended with pollLists := ⟨[1], [], [], []⟩ } : State).modifyLink 0 (fun k =>
      { k with config := { k.config with pollGap := 0 }, roundCounter := 3 })
    let due := { small with now := 10 }
    (q.link 0).pollGap = .running ⟨0, 10⟩ ∧ (q.link 0).activity = .quiet 5 ∧
      ((after (.quietDeadlineExpiry 0) q).link 0).activity = .gap ∧
      ((after (.quietDeadlineExpiry 0) stopped).link 0).activity = .deciding ∧
      (ended.link 0).config.pollGap ≠ 0 ∧ fromPosition (ended.pollList 0) (ended.link 0).roundPos = [] ∧
      ((after (.quietDeadlineExpiry 0) ended).link 0).roundCounter = 1 ∧
      (silent.link 0).config.pollGap = 0 ∧ silent.pollList 0 = 1 :: [] ∧
      (silent.stations.find 1).map Station.state = some .silent ∧ silent.cmdQueue 0 = [] ∧
      ((after (.quietDeadlineExpiry 0) silent).link 0).roundCounter = 0 ∧
      (⟨0, 10⟩ : Deadline).due small.now = false ∧ (⟨0, 10⟩ : Deadline).due due.now = true ∧
      ((after (.pollGapDeadlineExpiry 0) { q with now := 10 }).link 0).pollGap = .expired ∧
      ((after (.pollGapDeadlineExpiry 0) due).link 0).activity = .deciding ∧
      ((after (.pollGapDeadlineExpiry 0) { due with pollLists := Quad.all [] }).link 0).activity = .idle ∧
      after (.pollGapDeadlineExpiry 0) { small with now := 9 } = { small with now := 9 } := by
  decide +kernel

/-- The expired poll gap at the end of QUIET; a poll gap of 0 with a PRESENT station in the list; the poll
gap's expiry in GAP with only a SILENT station, not due. -/
theorem test_DecisionPoints_rounds :
    let q := linkIn (.quiet 5)
    let expired := q.modifyLink 0 (fun k => { k with pollGap := .expired })
    let zero := q.modifyLink 0 (fun k =>
      { k with pollGap := .stopped, config := { k.config with pollGap := 0 } })
    let notDue := ({ small with now := 10, pollLists := ⟨[1], [], [], []⟩ } : State).modifyLink 0
      (fun k => { k with roundCounter := 3 })
    (expired.link 0).pollGap = .expired ∧ expired.pollList 0 = 0 :: [1] ∧
      (expired.stations.find 0).map Station.state = some .present ∧ expired.cmdQueue 0 = [] ∧
      ((after (.quietDeadlineExpiry 0) expired).link 0).roundPos = some 0 ∧
      (zero.link 0).config.pollGap = 0 ∧ zero.pollList 0 = 0 :: [1] ∧
      fromPosition (zero.pollList 0) (zero.link 0).roundPos = [] ∧
      (after (.quietDeadlineExpiry 0) zero).link 0 = { zero.link 0 with
        activity := .deciding, roundPos := some 0, roundCounter := 1 } ∧
      (notDue.link 0).activity = .gap ∧ (notDue.link 0).config.pollGap ≠ 0 ∧
      (notDue.link 0).roundCounter ≠ 0 ∧ notDue.pollList 0 = 1 :: [] ∧
      (after (.pollGapDeadlineExpiry 0) notDue).link 0 = { notDue.link 0 with
        roundCounter := 4, pollGap := .running ⟨10, 10⟩ } := by decide +kernel

/-! ## The local bus -/

/-- A message of the client after the last served goes first; without one, the head of the queue. -/
theorem test_TransactionsStartInTheArbitersOrder :
    let m := (bus .idle).modifyClient 0 (fun k => { k with
      mode := .message, msgState := .pending, msgAddr := 0x40, msgData := 9, msgKey := 15 })
    let q := { bus .idle with mirrorQueue := [0] }
    m.resetN = true ∧ m.mwm.phase = .idle ∧ m.mwm.lastClient + 1 + 0 = 0 ∧
      (m.client 0).msgState = .pending ∧ (m.client 0).msgInFlight = false ∧
      (∀ c, (q.client c).msgState ≠ .pending) ∧ q.mirrorQueue = 0 :: [] ∧ 0 ∉ ([] : List Nat) ∧
      q.bindings.find 0 = some binding ∧ q.points.find 0 = some { point with bindings := [0, 1, 2] } ∧
      (after .messageWriteStart m).mwm.phase =
        .request ⟨.message 0, 0x40, 15, .write, [9], 12000, false⟩ ∧
      (after .mirrorWriteStart q).mwm.phase = .request ⟨.mirror 0 false, 0x1000, 3, .write,
        [0x00C20000, 100, 0x0000FFFF, 7], 12000, false⟩ := by decide +kernel

/-- The final write of a CLOSING binding, in lines of 16 bytes, and the bytes on the bus. -/
theorem test_TransactionsStart_closing :
    let q := { bus .idle with
      mirrorQueue := [0]
      bindings := small.bindings.modify 0 (fun b => { b with state := .closing })
      points := small.points.modify 0 (fun p =>
        { p with state := .retiring, bindings := [0], deadline := none, run := 0 })
      mwm := { (bus .idle).mwm with lineSize := .l16 } }
    let d := bus (.drive { mirrorWrite 0 true with data := [0x11223344, 0x55667788] })
    q.bindings.find 0 = some { binding with state := .closing } ∧ q.mwm.lineSize = .l16 ∧
      (after .mirrorWriteStart q).mwm.phase = .request ⟨.mirror 0 true, 0x1000, 3, .writeLine,
        [0x00C50000, 100, 0x0000FFFF, 7], 12000, false⟩ ∧
      d.mwm.phase.transaction ≠ none ∧
      d.bytesDriven = [(0x1000, 0x44), (0x1001, 0x33), (0x1002, 0x22), (0x1003, 0x11),
        (0x1004, 0x88), (0x1005, 0x77), (0x1006, 0x66), (0x1007, 0x55)] := by decide +kernel

theorem test_GrantAcceptAndRecognition :
    let t := mirrorWrite 2 false
    small.bgnt = false ∧ small.mwm.phase = .request t ∧ (bus (.drive t)).mwm.phase = .drive t ∧
      (bus .idle).mwm.phase = .idle ∧ small.resetN = true ∧
      (after .busGrant small).mwm.phase = .drive t ∧
      (after .busGrant { small with bgnt := true }).mwm.phase = .request t ∧
      (after .busAccept (bus (.drive t))).mwm.phase = .accepted t ∧
      (bus (.accepted t)).mwm.phase = .accepted t ∧ small.mwm.phase.transaction = some t ∧
      (after (.busEndStatus false .ok) (bus (.accepted t))).mwm.phase = .idle ∧
      (after (.busEndStatus true .dataCheck) (bus (.drive t))).breqAsserted = false ∧
      (after .busTimeout small).busDriven = none ∧
      after .busAccept small = small ∧ after (.busEndStatus false .ok) (bus (.drive t)) = bus (.drive t) ∧
      (after .bgntNDeasserted { small with bgnt := true }).bgnt = false := by decide +kernel

/-- A mirror write of an ACTIVE binding, a CLOSING one and the last binding of a RETIRING point; a
message write, ignored or not. -/
theorem test_MirrorAndMessageWritesEnd :
    let t := mirrorWrite 0 true
    let s := { bus (.accepted t) with
      bindings := small.bindings.modify 0 (fun b => { b with inFlight := true }) }
    let closing := { s with
      bindings := small.bindings.modify 0 (fun b => { b with state := .closing, inFlight := true })
      points := small.points.modify 0 (fun p =>
        { p with state := .retiring, bindings := [0], deadline := none, run := 0 }) }
    let w : Transaction := { t with owner := .message 0 }
    let m := (bus (.drive w)).modifyClient 0 (fun k =>
      { k with mode := .message, msgState := .pending, msgInFlight := true })
    s.resetN = true ∧ t.owner = .mirror 0 true ∧ t.ignored = false ∧ s.mwm.phase = .accepted t ∧
      s.bindings.find 0 = some { binding with inFlight := true } ∧
      (s.points.find 0).map Point.bindings = some [0, 1, 2] ∧
      ((after (.busEndStatus false .protection) s).bindings.find 0).map Binding.state =
        some .suspended ∧
      ((after (.busEndStatus false .protection) s).client 0).sticky.mirrorFault = true ∧
      ((after (.busEndStatus false .ok) s).bindings.find 0).map Binding.inFlight = some false ∧
      (closing.points.find 0).map (fun p => (p.state, p.pendingCmd, p.bindings)) =
        some (.retiring, none, [0]) ∧
      (after .busTimeout closing).points.find 0 = none ∧
      ((after .busTimeout closing).stations.find 0).map Station.chain = some [1, 2] ∧
      w.owner = .message 0 ∧ (m.client 0).msgIgnored = false ∧ m.mwm.phase = .drive w ∧
      ((after (.busEndStatus true .ok) m).client 0).msgState = .sent ∧
      ((after .busTimeout m).client 0).msgState = .failed ∧
      (let drain := { w with ignored := true }
      after (.busEndStatus true .protection) (bus (.drive drain)) = bus .idle ∧
        after .busTimeout (bus (.request drain)) = bus .idle) ∧
      ((after (.busEndStatus true .dataCheck) (m.modifyClient 0 (fun k =>
        { k with msgIgnored := true }))).client 0).msgState = .armed := by decide +kernel

/-- A station of the small machine is one of three. -/
theorem small_station {h : Nat} {st : Station} (hf : small.stations.find h = some st) :
    (h = 0 ∧ st.chain = [0, 1, 2]) ∨ (h = 1 ∧ st.chain = []) ∨ (h = 2 ∧ st.chain = []) := by
  have hm := Table.mem_of_find hf
  simp only [small, List.mem_cons, List.not_mem_nil, or_false, Prod.mk.injEq] at hm
  rcases hm with ⟨rfl, rfl⟩ | ⟨rfl, rfl⟩ | ⟨rfl, rfl⟩ <;> simp [station]

/-! ## Laws of the device: the small machine is lawful, and steps -/

/-- Every law's premise about the step: the small machine with a tick waiting steps. -/
theorem test_small_steps :
    step { small with pending := [.timeBaseTick] } = .next { small with now := 1 } := by
  rfl

theorem test_PointsLawful : PointsLawful small := by
  refine forall_found ?_
  simp only [small, List.forall_mem_cons, List.not_mem_nil, false_implies, implies_true, and_true]
  refine ⟨⟨by decide, by decide, by decide, ?_, by decide, nofun, fun _ => ⟨nofun, by decide, by decide⟩,
    nofun⟩, ⟨by decide, by decide, by decide, ?_, by decide, ?_, fun _ => ⟨nofun, by decide, by decide⟩,
    nofun⟩, ⟨by decide, by decide, by decide, nofun, by decide, nofun, fun h => absurd rfl h,
    by decide⟩⟩
  · exact forall_some rfl rfl
  · exact forall_some rfl rfl
  · exact forall_some rfl ⟨rfl, rfl, rfl, rfl⟩

theorem test_MirrorLaw : MirrorLaw small := by
  refine ⟨forall_found ?_, by decide, nofun, ?_⟩
  · simp only [small, List.forall_mem_cons, List.not_mem_nil, false_implies, implies_true, and_true]
    exact ⟨⟨by decide, by decide, by decide⟩, ⟨by decide, by decide, by decide⟩,
      ⟨by decide, by decide, by decide⟩⟩
  · have h : ∀ row ∈ small.bindings.rows, row.2.inFlight = true → row.1 = 2 := by decide
    intro b r hf hi
    have hb : b = 2 := forall_found (P := fun b r => r.inFlight = true → b = 2) h b r hf hi
    subst hb
    exact ⟨mirrorWrite 2 false, false, rfl, rfl, rfl⟩

theorem test_WindowLaw : WindowLaw small ∧ MessagesSettled small := by
  refine ⟨⟨fun c => ?_, fun c => ⟨fun h => ?_, ?_⟩, by decide +kernel, fun _ => 0, fun c d _ h => ?_⟩,
    fun c h => ?_⟩
  · have hc : small.client c = Client.reset := by revert c; decide +kernel
    rw [hc]
    exact ⟨by decide, by decide, nofun, nofun, fun _ => Or.inl rfl, by decide⟩
  · exact absurd h (by revert c; decide +kernel)
  · rintro ⟨t, ht, ho, _⟩
    have hm : t = mirrorWrite 2 false := (Option.some.inj ht).symm
    rw [hm] at ho
    exact nomatch ho
  · exact absurd h ((by decide +kernel : ∀ d, (small.client d).ready ≠ true) d)
  · exact absurd h (by revert c; decide +kernel)

/-- With a request in window 0 that window is ready, and the law of the windows holds. -/
theorem test_WindowLaw_ready :
    let s := ask (req 0x33 0 7 0 0 0) small
    WindowLaw s ∧ (s.client 0).ready = true := by
  intro s
  have hp : ∀ c, (s.client c).passed = 0 := by decide +kernel
  refine ⟨⟨fun c => ?_, fun c => ⟨fun h => ?_, ?_⟩, fun c _ => hp c, fun _ => 0, fun c d _ _ h => ?_⟩,
    by decide +kernel⟩
  · by_cases hc : c = 0
    · subst hc
      exact ⟨by decide +kernel, by decide +kernel, nofun, nofun, fun _ => Or.inl rfl, by decide +kernel⟩
    · have hk : s.client c = Client.reset := by revert c; decide +kernel
      rw [hk]
      exact ⟨by decide, by decide, nofun, nofun, fun _ => Or.inl rfl, by decide⟩
  · exact absurd h ((by decide +kernel : ∀ c, (s.client c).msgInFlight ≠ true) c)
  · rintro ⟨t, ht, ho, _⟩
    have hm : t = mirrorWrite 2 false := (Option.some.inj ht).symm
    rw [hm] at ho
    exact nomatch ho
  · rw [hp d] at h
    simp at h

theorem test_LinksLawful : LinksLawful small := by
  intro l
  by_cases h : l = 0
  · subst h
    exact ⟨by decide +kernel, by decide +kernel, by decide +kernel, by decide +kernel,
      by decide +kernel, by decide +kernel, nofun, nofun, by decide +kernel, nofun, nofun, nofun, nofun,
      nofun⟩
  · have hl : small.link l = Link.reset := by revert l; decide +kernel
    rw [hl]
    exact ⟨nofun, by decide, by decide, by decide, by decide, by decide, by decide, nofun, nofun, nofun,
      nofun, nofun, nofun, nofun⟩

theorem test_TablesLaw : TablesLaw small := by
  refine ⟨⟨by decide +kernel, forall_found ?_⟩, ⟨by decide +kernel, forall_found ?_⟩,
    ⟨by decide +kernel, forall_found ?_⟩, ⟨by decide +kernel, forall_found ?_⟩,
    ⟨by decide +kernel, forall_found ?_⟩, by decide +kernel⟩ <;> decide +kernel

/-- What is found is one of the rows. -/
theorem found_row {α : Type} {t : Table α} {P : Nat × α → Prop} (h : ∀ row ∈ t.rows, P row) {k : Nat}
    {a : α} (hf : t.find k = some a) : P (k, a) := h _ (Table.mem_of_find hf)

theorem test_DirectoryLaw : DirectoryLaw small where
  canonical := by decide +kernel
  stations := by
    refine forall_found ?_
    simp only [small, List.forall_mem_cons, List.not_mem_nil, false_implies, implies_true, and_true]
    exact ⟨⟨by decide, by decide, by decide, by decide, by decide, by decide, by decide⟩,
      ⟨by decide, by decide, by decide, by decide, by decide, by decide, by decide⟩,
      ⟨by decide, by decide, by decide, by decide, by decide, by decide, by decide⟩⟩
  distinct := by
    have h : ∀ a ∈ small.stations.rows, ∀ b ∈ small.stations.rows,
        a.2.link = b.2.link → a.2.address = b.2.address → a.1 = b.1 := by decide +kernel
    intro a b st st' ha hb
    exact h _ (Table.mem_of_find ha) _ (Table.mem_of_find hb)
  pollNodup := by decide +kernel
  pollList := by
    have h : ∀ row ∈ small.stations.rows, row.2.state ≠ .leaving →
        row.1 ∈ small.pollList row.2.link := by decide +kernel
    intro l x
    constructor
    · intro hx
      have hl : ∀ l : LinkId, ∀ x ∈ small.pollList l, l = 0 ∧ (x = 0 ∨ x = 1) := by decide +kernel
      obtain ⟨rfl, rfl | rfl⟩ := hl l x hx
      · exact ⟨{ station with chain := [0, 1, 2] }, by decide +kernel, by decide, by decide⟩
      · exact ⟨{ station with
          state := .silent, address := 1, capacity := 0, staleCause := some .linkOff },
          by decide +kernel, by decide, by decide⟩
    · rintro ⟨st, hf, rfl, hs⟩
      exact found_row h hf hs
  roundPos := by
    have h : ∀ l, (small.link l).roundPos = none := by decide +kernel
    intro l x hx
    rw [h l] at hx
    exact nomatch hx
  inChain := by
    intro x p hf
    have h : ∀ row ∈ small.points.rows, row.2.station = 0 ∧ row.1 ∈ [0, 1, 2] := by decide +kernel
    obtain ⟨h0, hx⟩ := found_row h hf
    have h0' : p.station = 0 := h0
    exact ⟨{ station with chain := [0, 1, 2] }, by rw [h0']; decide +kernel, hx⟩
  ofChain := by
    intro sid st hf x hx
    have h : ∀ row ∈ small.stations.rows, ∀ x ∈ row.2.chain,
        row.1 = 0 ∧ (small.points.find x).map Point.station = some 0 := by decide +kernel
    obtain ⟨h0, hp⟩ := found_row h hf x hx
    have h0' : sid = 0 := h0
    obtain ⟨p, hp1, hp2⟩ := Option.map_eq_some_iff.1 hp
    exact ⟨p, hp1, by rw [hp2, h0']⟩
  ascending := by
    intro sid st hf
    have h : ∀ row ∈ small.stations.rows, row.2.chain.Pairwise (fun a b =>
        ∃ x y, numberOf small a = some x ∧ numberOf small b = some y ∧ x < y) := by
      simp only [small, List.forall_mem_cons, List.not_mem_nil, false_implies, implies_true, and_true]
      refine ⟨?_, by simp [station], by simp [station]⟩
      simp only [List.pairwise_cons, List.forall_mem_cons, List.not_mem_nil, false_implies,
        implies_true, and_true, List.Pairwise.nil]
      exact ⟨⟨⟨4, 9, by decide +kernel⟩, ⟨4, 255, by decide +kernel⟩⟩, ⟨9, 255, by decide +kernel⟩⟩
    refine (found_row h hf).imp ?_
    rintro a b ⟨x, y, hx, hy, hxy⟩ p q hp hq
    simp only [numberOf, hp, hq, Option.map_some, Option.some.injEq] at hx hy
    omega

theorem test_BindingChainLaw : BindingChainLaw small where
  inChain := by
    intro b r hf
    have h : ∀ row ∈ small.bindings.rows, row.2.point = 0 ∧ row.1 ∈ [0, 1, 2] := by decide +kernel
    obtain ⟨h0, hb⟩ := found_row h hf
    have h0' : r.point = 0 := h0
    exact ⟨{ point with bindings := [0, 1, 2] }, by rw [h0']; decide +kernel, hb⟩
  ofChain := by
    intro x p hf b hb
    have h : ∀ row ∈ small.points.rows, ∀ b ∈ row.2.bindings,
        row.1 = 0 ∧ (small.bindings.find b).map Binding.point = some 0 := by decide +kernel
    obtain ⟨h0, hp⟩ := found_row h hf b hb
    have h0' : x = 0 := h0
    obtain ⟨r, hr1, hr2⟩ := Option.map_eq_some_iff.1 hp
    exact ⟨r, hr1, by rw [hr2, h0']⟩
  nodup := by
    have h : ∀ row ∈ small.points.rows, row.2.bindings.Nodup := by decide +kernel
    exact fun x p hf => found_row h hf
  length := by
    have h : ∀ row ∈ small.points.rows, row.2.bindings.length ≤ 8 := by decide +kernel
    exact fun x p hf => found_row h hf
  closing := by
    have h : ∀ row ∈ small.points.rows, row.2.bindings ≠ [] → row.2.state ≠ .retiring := by
      decide +kernel
    have hc : ∀ row ∈ small.bindings.rows, row.2.state ≠ .closing := by decide +kernel
    intro x p hf b r hb hr
    exact ⟨fun hp => absurd hp (found_row h hf (List.ne_nil_of_mem hb)),
      fun hr' => absurd hr' (found_row hc hr)⟩

/-- The small machine with one QUEUED slot keeps the laws of the command slots. -/
theorem test_CommandLaw : CommandLaw (withSlot slot) where
  slots := by
    have h : ∀ row ∈ (withSlot slot).slots.rows, row.2 = slot := by decide +kernel
    intro x r hf
    have hr : r = slot := found_row h hf
    rw [hr]
    exact ⟨by decide, by decide, by decide, by decide, by decide⟩
  sent := by
    have h : ∀ l, ((withSlot slot).link l).sentSlot = none := by decide +kernel
    intro l x hx
    rw [h l] at hx
    exact nomatch hx
  sentOnce := by
    have h : ∀ l, ((withSlot slot).link l).sentSlot = none := by decide +kernel
    intro l m x hx
    rw [h l] at hx
    exact nomatch hx
  queueNodup := by decide +kernel
  queueOnce := by
    have h : ∀ l, ∀ x ∈ (withSlot slot).cmdQueue l, l = 0 := by decide +kernel
    intro l m x hl hm
    rw [h l x hl, h m x hm]
  queued := by
    intro x
    have h : ∀ l, ∀ x ∈ (withSlot slot).cmdQueue l, x = 0 := by decide +kernel
    have hr : ∀ row ∈ (withSlot slot).slots.rows, row.1 = 0 := by decide +kernel
    constructor
    · rintro ⟨l, hl⟩
      rw [h l x hl]
      exact ⟨slot, by decide +kernel, rfl⟩
    · rintro ⟨r, hf, _⟩
      have hx : x = 0 := found_row hr hf
      rw [hx]
      exact ⟨0, by decide +kernel⟩
  doneNodup := by decide +kernel
  done := by
    have h : ∀ c, (withSlot slot).doneList c = [] := by decide +kernel
    have hr : ∀ row ∈ (withSlot slot).slots.rows, row.2.state ≠ .done := by decide +kernel
    intro c x
    rw [h c]
    exact ⟨nofun, fun ⟨r, hf, hd, _⟩ => absurd hd (found_row hr hf)⟩
  pending := by
    have h : ∀ row ∈ (withSlot slot).slots.rows, row = (0, slot) := by decide +kernel
    intro x r hf _
    have hx := found_row h hf
    obtain ⟨rfl, rfl⟩ := Prod.mk.inj hx
    exact ⟨{ point with bindings := [0, 1, 2], pendingCmd := some 0 }, by decide +kernel, rfl⟩
  ofPending := by
    have h : ∀ row ∈ (withSlot slot).points.rows, row.2.pendingCmd ≠ none →
        row.1 = 0 ∧ row.2.pendingCmd = some 0 := by decide +kernel
    intro x p k hf hk
    obtain ⟨h0, hk'⟩ := found_row h hf (by rw [hk]; nofun)
    have h0' : x = 0 := h0
    have hk2 : p.pendingCmd = some 0 := hk'
    rw [hk] at hk2
    rw [h0', Option.some.inj hk2]
    exact ⟨slot, by decide +kernel, nofun, rfl⟩

/-- The laws of the directory are about stations, poll lists, round positions, and the points' stations and
numbers alone. -/
theorem directory {s : State} (h : DirectoryLaw small) (hs : s.stations = small.stations)
    (hl : s.pollLists = small.pollLists) (hr : ∀ l, (s.link l).roundPos = none)
    (hp : ∀ x, (s.points.find x).map (fun p => (p.station, p.number)) =
      (small.points.find x).map (fun p => (p.station, p.number))) : DirectoryLaw s := by
  have hl' : ∀ l, s.pollList l = small.pollList l := fun l => by rw [State.pollList, hl, State.pollList]
  have toSmall : ∀ {x p}, s.points.find x = some p →
      ∃ q, small.points.find x = some q ∧ q.station = p.station ∧ q.number = p.number := by
    intro x p hf
    have hx := hp x
    rw [hf, Option.map_some, eq_comm, Option.map_eq_some_iff] at hx
    obtain ⟨q, hq, he⟩ := hx
    exact ⟨q, hq, congrArg Prod.fst he, congrArg Prod.snd he⟩
  have ofSmall : ∀ {x q}, small.points.find x = some q →
      ∃ p, s.points.find x = some p ∧ p.station = q.station := by
    intro x q hf
    have hx := hp x
    rw [hf, Option.map_some, Option.map_eq_some_iff] at hx
    obtain ⟨p, hq, he⟩ := hx
    exact ⟨p, hq, congrArg Prod.fst he⟩
  refine ⟨hs ▸ h.canonical, hs ▸ h.stations, hs ▸ h.distinct, fun l => hl' l ▸ h.pollNodup l, ?_, ?_, ?_, ?_,
    ?_⟩
  · intro l x
    rw [hl', hs]
    exact h.pollList l x
  · intro l x hx
    rw [hr l] at hx
    exact nomatch hx
  · intro x p hf
    obtain ⟨q, hq, he, _⟩ := toSmall hf
    rw [hs, ← he]
    exact h.inChain x q hq
  · intro sid st hf x hx
    obtain ⟨q, hq, he⟩ := h.ofChain sid st (hs ▸ hf) x hx
    obtain ⟨p, hp1, hp2⟩ := ofSmall hq
    exact ⟨p, hp1, hp2.trans he⟩
  · intro sid st hf
    refine (h.ascending sid st (hs ▸ hf)).imp ?_
    intro a b hab p q hfp hfq
    obtain ⟨p', hp', _, hnp⟩ := toSmall hfp
    obtain ⟨q', hq', _, hnq⟩ := toSmall hfq
    rw [← hnp, ← hnq]
    exact hab p' q' hp' hq'

/-- With the QUEUED slot of `withSlot slot` the laws of tables, directory, commands and tags hold together. -/
theorem test_TagLaw : TablesLaw (withSlot slot) ∧ DirectoryLaw (withSlot slot) ∧
    CommandLaw (withSlot slot) ∧ TagLaw (withSlot slot) := by
  have hl : ∀ l, (withSlot slot).link l = small.link l := fun _ => rfl
  have hx : ∀ l, ((withSlot slot).link l).activity.exchange = none := by decide +kernel
  have hslot : ∀ row ∈ (withSlot slot).slots.rows, row = (0, slot) := by decide +kernel
  have ht : ∀ sid, (withSlot slot).tagSet sid = ⟨[]⟩ := fun _ => rfl
  have htables : TablesLaw (withSlot slot) := by
    refine ⟨⟨by decide +kernel, forall_found ?_⟩, ⟨by decide +kernel, forall_found ?_⟩,
      ⟨by decide +kernel, forall_found ?_⟩, ⟨by decide +kernel, forall_found ?_⟩,
      ⟨by decide +kernel, forall_found ?_⟩, by decide +kernel⟩ <;> decide +kernel
  refine ⟨htables, directory test_DirectoryLaw rfl rfl (by decide +kernel) ?_, test_CommandLaw, ?_⟩
  · intro x
    rw [show (withSlot slot).points = small.points.modify 0 (fun p => { p with pendingCmd := some 0 })
      from rfl, Table.find_modify]
    split
    · rename_i h
      rw [h]
      rfl
    · rfl
  constructor
  · intro sid st _
    exact Nat.zero_le _
  · intro sid _
    rfl
  · intro sid g u h
    exact nomatch h
  · intro sid
    rw [ht]
    decide
  · intro sid g h
    constructor
    · exact nofun
    · rintro ⟨r, hf, _, hg⟩
      obtain ⟨rfl, rfl⟩ := Prod.mk.inj (found_row hslot hf)
      exact nomatch hg
  · intro l x h
    rw [hx l] at h
    exact nomatch h
  · intro h r hf hr
    obtain ⟨rfl, rfl⟩ := Prod.mk.inj (found_row hslot hf)
    exact nomatch hr
  · intro l h r hm hf
    have hq : ∀ l, ∀ x ∈ (withSlot slot).cmdQueue l, l = 0 := by decide +kernel
    rw [hq l h hm]
    obtain ⟨rfl, rfl⟩ := Prod.mk.inj (found_row hslot hf)
    exact ⟨{ station with chain := [0, 1, 2] }, by decide +kernel, rfl⟩
  · intro h r hf _
    obtain ⟨rfl, rfl⟩ := Prod.mk.inj (found_row hslot hf)
    exact ⟨⟨{ station with chain := [0, 1, 2] }, by decide +kernel, rfl⟩,
      { point with bindings := [0, 1, 2], pendingCmd := some 0 }, by decide +kernel, rfl⟩
  · intro h p k hf hr hk
    have hp : ∀ row ∈ (withSlot slot).points.rows, row.2.state = .retiring → row.2.pendingCmd = none := by
      decide +kernel
    have hn : p.pendingCmd = none := found_row hp hf hr
    rw [hn] at hk
    exact nomatch hk

/-- The small machine with a SENT and an ACCEPTED slot of station 0, the link awaiting the ACK. -/
def cutting : State := { linkIn (.awaiting (exchange (.command 0 3)) 48000) with
  slots := ⟨[(0, { slot with state := .sent, tag := some 3 }),
    (1, { slot with state := .accepted, tag := some 4, deadline := some ⟨0, 100⟩ })]⟩
  tagSets := ⟨[(0, ⟨[(3, .held 0), (4, .held 1)]⟩)]⟩ }

theorem test_LinkDisableTakesTheLinkOff :
    cutting.resetN = true ∧ (cutting.link 1).activity = .disabled ∧
      (cutting.link 0).activity ≠ .disabled ∧ DirectoryLaw cutting ∧
      (cutting.link 0).sentSlot = some 0 ∧
      (cutting.stations.rows.map (fun r => (r.2.link, r.2.state))) =
        [(0, .present), (0, .silent), (0, .leaving)] ∧
      (cutting.slots.find 1).map (fun r => (r.station, r.state)) = some (0, .accepted) ∧
      (cutting.points.find 0).map (fun p => (p.station, p.state, p.forced)) = some (0, .live, none) ∧
      ((after (.linkDisable 0) cutting).slots.find 1).map Slot.result = some (some .linkDown) ∧
      ((after (.linkDisable 0) cutting).stations.find 1).map Station.staleCause =
        some (some .linkOff) := by
  refine ⟨by decide +kernel, by decide +kernel, by decide +kernel, ?_, by decide +kernel,
    by decide +kernel, by decide +kernel, by decide +kernel, by decide +kernel, by decide +kernel⟩
  exact directory test_DirectoryLaw rfl rfl (by decide +kernel) (fun _ => rfl)

/-- The laws of commands and tags hold together with a SILENT station on the link that is disabled; its
station with LIVE points loses them. -/
theorem test_LinkDisable_silentStation :
    let s := withSlot slot
    DirectoryLaw s ∧ CommandLaw s ∧ TagLaw s ∧ s.resetN = true ∧ (s.link 0).activity ≠ .disabled ∧
      (s.stations.find 1).map Station.state = some .silent ∧
      (after (.linkDisable 0) s).stations.find 1 = s.stations.find 1 ∧
      (after (.linkDisable 0) s).mirrorQueue = [0, 2] :=
  ⟨test_TagLaw.2.1, test_TagLaw.2.2.1, test_TagLaw.2.2.2, by decide +kernel⟩

end Sys2Proof.Tests
end

