-- ==== Sys2Proof/Proofs/PointDirectory.lean ====
section
/-! The requests that search a chain: FIND_POINT and NEXT_POINT (R18, R19). First the two searches, in terms
of `numberOf`; then what the owner of each request answers; then the obligation. -/

namespace Sys2Proof.Machine

/-! ## The searches of a chain -/

/-- The search by number looks for the first point of the chain that has the number. -/
theorem pointByNumber_eq_find? (s : State) (chain : List Nat) (n : Nat) :
    pointByNumber s chain n = chain.find? (fun h => decide (numberOf s h = some n)) := by
  unfold pointByNumber
  congr 1
  funext h
  unfold numberOf
  cases s.points.find h with
  | none => simp
  | some p => simp [beq_eq_decide]

theorem pointByNumber_eq_some {s : State} {before after : List Nat} {h n : Nat}
    (hh : numberOf s h = some n) (hb : ∀ x ∈ before, numberOf s x ≠ some n) :
    pointByNumber s (before ++ h :: after) n = some h := by
  rw [pointByNumber_eq_find?, List.find?_eq_some_iff_append]
  exact ⟨decide_eq_true hh, before, after, rfl, fun x hx => by simp [hb x hx]⟩

theorem pointByNumber_eq_none {s : State} {chain : List Nat} {n : Nat}
    (hc : ∀ x ∈ chain, numberOf s x ≠ some n) : pointByNumber s chain n = none := by
  rw [pointByNumber_eq_find?, List.find?_eq_none]
  exact fun x hx => by simp [hc x hx]

/-- The search above a number looks for the first point of the chain that has a higher one. -/
theorem pointAfter_eq_find? (s : State) (chain : List Nat) (n : Nat) :
    pointAfter s chain n = chain.find? (fun h => (numberOf s h).any (fun m => decide (n < m))) := by
  unfold pointAfter
  congr 1
  funext h
  cases numberOf s h <;> rfl

/-- A point that the search above `n` passes over: it has no number above `n`. -/
theorem numberOf_any_above_eq_false {s : State} {x n : Nat}
    (hx : ∀ k, numberOf s x = some k → k ≤ n) :
    (numberOf s x).any (fun m => decide (n < m)) = false := by
  cases hm : numberOf s x with
  | none => rfl
  | some m => exact decide_eq_false (Nat.not_lt.mpr (hx m hm))

theorem pointAfter_eq_some {s : State} {before after : List Nat} {h n m : Nat}
    (hh : numberOf s h = some m) (hm : n < m)
    (hb : ∀ x ∈ before, ∀ k, numberOf s x = some k → k ≤ n) :
    pointAfter s (before ++ h :: after) n = some h := by
  rw [pointAfter_eq_find?, List.find?_eq_some_iff_append]
  exact ⟨by simp [hh, hm], before, after, rfl, fun x hx => by
    simp [numberOf_any_above_eq_false (hb x hx)]⟩

theorem pointAfter_eq_none {s : State} {chain : List Nat} {n : Nat}
    (hc : ∀ x ∈ chain, ∀ k, numberOf s x = some k → k ≤ n) : pointAfter s chain n = none := by
  rw [pointAfter_eq_find?, List.find?_eq_none]
  exact fun x hx => by simp [numberOf_any_above_eq_false (hc x hx)]

/-! ## The record of a point -/

theorem numberOf_of_find {s : State} {h : Nat} {p : Point} (hp : s.points.find h = some p) :
    numberOf s h = some p.number.toNat := by
  rw [numberOf, hp, Option.map_some]

theorem pointStateCode_of_find {s : State} {h : Nat} {p : Point} (hp : s.points.find h = some p) :
    pointStateCode s h = p.state.code := by
  simp only [pointStateCode, hp]

/-! ## What FIND_POINT answers -/

/-- The range test of FIND_POINT as its definition writes it. -/
theorem findPoint_inRange_iff (r : Request) : (fieldOf r.w1 0 16 ≤ 255 ∧ fieldOf r.w1 16 16 ≤ 255) ↔
    ¬(Config.stationCount ≤ fieldOf r.w1 0 16 ∨ 255 < fieldOf r.w1 16 16) := by
  unfold Config.stationCount
  omega

theorem findPoint_badArgument {c : ClientId} {r : Request} {s : State}
    (hbad : ¬(fieldOf r.w1 0 16 ≤ 255 ∧ fieldOf r.w1 16 16 ≤ 255)) :
    findPoint c r s = refuse s .badArgument := by
  rw [findPoint_inRange_iff, not_not] at hbad
  simp only [findPoint, if_pos hbad]

theorem findPoint_found {c : ClientId} {r : Request} {s : State} {st : Station} {h : Nat} {p : Point}
    (hsid : fieldOf r.w1 0 16 ≤ 255) (hst : s.stations.find (fieldOf r.w1 0 16) = some st)
    (hn : fieldOf r.w1 16 16 ≤ 255)
    (hsearch : pointByNumber s st.chain (fieldOf r.w1 16 16) = some h)
    (hp : s.points.find h = some p) :
    findPoint c r s = okAnswer s (place 0 16 h ||| place 16 8 p.state.code) 0 0 := by
  have hrange := (findPoint_inRange_iff r).mp ⟨hsid, hn⟩
  simp only [findPoint, if_neg hrange, hst, hsearch, pointStateCode_of_find hp]

theorem findPoint_notFound {c : ClientId} {r : Request} {s : State}
    (hsid : fieldOf r.w1 0 16 ≤ 255) (hn : fieldOf r.w1 16 16 ≤ 255)
    (hsearch : ∀ st, s.stations.find (fieldOf r.w1 0 16) = some st →
      pointByNumber s st.chain (fieldOf r.w1 16 16) = none) :
    findPoint c r s = refuse s .notFound := by
  have hrange := (findPoint_inRange_iff r).mp ⟨hsid, hn⟩
  cases hst : s.stations.find (fieldOf r.w1 0 16) with
  | none => simp only [findPoint, if_neg hrange, hst]
  | some st => simp only [findPoint, if_neg hrange, hst, hsearch st hst]

/-! ## What NEXT_POINT answers -/

/-- R19: the point NEXT_POINT looks for in the chain of its station. -/
def nextInChain (r : Request) (s : State) (chain : List Nat) : Option Nat :=
  if r.w2.getLsbD 0 then chain.head? else pointAfter s chain (fieldOf r.w1 16 16)

theorem nextInChain_fromStart {r : Request} (hr : r.w2.getLsbD 0 = true) (s : State)
    (chain : List Nat) : nextInChain r s chain = chain.head? := if_pos hr

theorem nextInChain_above {r : Request} (hr : r.w2.getLsbD 0 = false) (s : State)
    (chain : List Nat) : nextInChain r s chain = pointAfter s chain (fieldOf r.w1 16 16) := by
  rw [nextInChain, hr, if_neg Bool.false_ne_true]

/-- R19, R164: the operands of NEXT_POINT are in range; from start, the number field is ignored. -/
def NextPointInRange (r : Request) : Prop :=
  fieldOf r.w1 0 16 ≤ 255 ∧ (r.w2.getLsbD 0 = true ∨ fieldOf r.w1 16 16 ≤ 255)

/-- The range test of NEXT_POINT as its definition writes it. -/
theorem nextPointInRange_iff (r : Request) : NextPointInRange r ↔
    ¬(Config.stationCount ≤ fieldOf r.w1 0 16 ∨
      (r.w2.getLsbD 0 = false ∧ 255 < fieldOf r.w1 16 16)) := by
  unfold NextPointInRange Config.stationCount
  cases r.w2.getLsbD 0 <;> simp <;> omega

theorem nextPoint_badArgument {c : ClientId} {r : Request} {s : State} (hbad : ¬NextPointInRange r) :
    nextPoint c r s = refuse s .badArgument := by
  rw [nextPointInRange_iff, not_not] at hbad
  simp only [nextPoint, if_pos hbad]

theorem nextPoint_found {c : ClientId} {r : Request} {s : State} {st : Station} {h : Nat} {p : Point}
    (hrange : NextPointInRange r) (hst : s.stations.find (fieldOf r.w1 0 16) = some st)
    (hsearch : nextInChain r s st.chain = some h) (hp : s.points.find h = some p) :
    nextPoint c r s = okAnswer s
      (place 0 16 h ||| place 16 8 p.number.toNat ||| place 24 8 p.state.code) 0 0 := by
  rw [nextPointInRange_iff] at hrange
  unfold nextInChain at hsearch
  simp only [nextPoint, if_neg hrange, hst, hsearch, numberOf_of_find hp, pointStateCode_of_find hp,
    Option.getD_some]

theorem nextPoint_notFound {c : ClientId} {r : Request} {s : State} (hrange : NextPointInRange r)
    (hsearch : ∀ st, s.stations.find (fieldOf r.w1 0 16) = some st →
      nextInChain r s st.chain = none) :
    nextPoint c r s = refuse s .notFound := by
  rw [nextPointInRange_iff] at hrange
  unfold nextInChain at hsearch
  cases hst : s.stations.find (fieldOf r.w1 0 16) with
  | none => simp only [nextPoint, if_neg hrange, hst]
  | some st => simp only [nextPoint, if_neg hrange, hst, hsearch st hst]

/-! ## The two commands -/

section

variable {s : State} {c : ClientId} {r : Request} {rest : List Request}

/-- FIND_POINT on a ready request answers what its owner answers and changes nothing else. -/
theorem exec_findPoint_answered (hr : ReadyRequest s c r rest) (hk : r.kind = 0x12) {st : Status}
    {w1 w2 w3 : Word}
    (hf : findPoint c r (s.withoutHead c rest) = ⟨s.withoutHead c rest, st, w1, w2, w3⟩) :
    exec (.findPoint c) s = .next (s.answered c r rest st.code w1 w2 w3) :=
  takeRequest_answered (isKind := (· == 0x12)) hr (beq_iff_eq.mpr hk) hf

/-- NEXT_POINT on a ready request answers what its owner answers and changes nothing else. -/
theorem exec_nextPoint_answered (hr : ReadyRequest s c r rest) (hk : r.kind = 0x13) {st : Status}
    {w1 w2 w3 : Word}
    (hf : nextPoint c r (s.withoutHead c rest) = ⟨s.withoutHead c rest, st, w1, w2, w3⟩) :
    exec (.nextPoint c) s = .next (s.answered c r rest st.code w1 w2 w3) :=
  takeRequest_answered (isKind := (· == 0x13)) hr (beq_iff_eq.mpr hk) hf

end

/-- Settles O16: each clause is what the owner of the request answers when the search of the chain ends
as the clause says. -/
theorem findAndNextPointSearchTheChain : Obligations.FindAndNextPointSearchTheChain := by
  intro s c r rest hr sid n
  refine ⟨?_, ?_, ?_⟩
  · intro st h p before after hsid hst hchain hp state
    refine ⟨?_, ?_, ?_⟩
    · intro hk hpn hbefore
      have hn : n ≤ 255 := hpn ▸ Nat.le_of_lt_succ p.number.isLt
      have hnum : numberOf s h = some n := hpn ▸ numberOf_of_find hp
      have hsearch : pointByNumber s st.chain n = some h :=
        hchain ▸ pointByNumber_eq_some hnum hbefore
      exact exec_findPoint_answered (st := .ok) hr hk (findPoint_found hsid hst hn hsearch hp)
    · intro hk hstart hbefore
      have hsearch : nextInChain r s st.chain = some h := by
        rw [nextInChain_fromStart hstart, hchain, hbefore, List.nil_append, List.head?_cons]
      exact exec_nextPoint_answered (st := .ok) hr hk
        (nextPoint_found ⟨hsid, .inl hstart⟩ hst hsearch hp)
    · intro hk hstart hn hlt hbefore _
      have hsearch : nextInChain r s st.chain = some h := by
        rw [nextInChain_above hstart, hchain]
        exact pointAfter_eq_some (numberOf_of_find hp) hlt hbefore
      exact exec_nextPoint_answered (st := .ok) hr hk
        (nextPoint_found ⟨hsid, .inr hn⟩ hst hsearch hp)
  · intro hk
    refine ⟨?_, ?_⟩
    · intro hbad
      exact exec_findPoint_answered (st := .badArgument) hr hk (findPoint_badArgument hbad)
    · intro hsid hn hnone
      exact exec_findPoint_answered (st := .notFound) hr hk
        (findPoint_notFound hsid hn fun st hst => pointByNumber_eq_none (hnone st hst))
  · intro hk fromStart
    refine ⟨?_, ?_, ?_⟩
    · intro hbad
      have hrange : ¬NextPointInRange r := by
        rintro ⟨hsid, hn⟩
        rcases hbad with hbad | ⟨hstart, hbad⟩
        · exact Nat.not_lt.mpr hsid hbad
        · exact hn.elim hstart (fun hn => Nat.not_lt.mpr hn hbad)
      exact exec_nextPoint_answered (st := .badArgument) hr hk (nextPoint_badArgument hrange)
    · intro hsid hstart hnone
      refine exec_nextPoint_answered (st := .notFound) hr hk
        (nextPoint_notFound ⟨hsid, .inl hstart⟩ fun st hst => ?_)
      rw [nextInChain_fromStart hstart, hnone st hst, List.head?_nil]
    · intro hsid hstart hn hnone
      refine exec_nextPoint_answered (st := .notFound) hr hk
        (nextPoint_notFound ⟨hsid, .inr hn⟩ fun st hst => ?_)
      rw [nextInChain_above (Bool.eq_false_iff.mpr hstart)]
      exact pointAfter_eq_none (hnone st hst)

end Sys2Proof.Machine
end

