-- ==== Sys2Proof/Proofs/ValueAcceptance.lean ====
section
/-! The entries of a REPORT at one point (R28 to R34, R44). First the deadband test and the event classes;
then what each operation on a point does, once for a point that is not FORCED and once for a FORCED one;
then an entry as its three courses: fault, accepted, not yet confirmed; then the obligations. -/

namespace Sys2Proof.Machine

/-! ## The deadband test (R32) -/

theorem beyondDeadband_iff (v n : Word) (deadband : BitVec 16) :
    beyondDeadband v n deadband = true ↔
      (deadband.toNat : Int) < v.toInt - n.toInt ∨ (deadband.toNat : Int) < n.toInt - v.toInt := by
  rw [beyondDeadband, decide_eq_true_iff]
  omega

/-- R32: a deadband of 0 announces every change. -/
theorem beyondDeadband_zero_iff (v n : Word) : beyondDeadband v n 0 = true ↔ v ≠ n := by
  have hzero : (0 : BitVec 16).toNat = 0 := rfl
  rw [beyondDeadband_iff, Ne, ← BitVec.toInt_inj, hzero]
  omega

/-- R32: the whole range is beyond every deadband, since the difference is formed without wrap. -/
theorem beyondDeadband_extremes (deadband : BitVec 16) :
    beyondDeadband 0x7FFFFFFF 0x80000000 deadband = true := by
  have hmax : (0x7FFFFFFF : Word).toInt = 2147483647 := by decide
  have hmin : (0x80000000 : Word).toInt = -2147483648 := by decide
  have hlt : deadband.toNat < 2 ^ 16 := deadband.isLt
  rw [beyondDeadband_iff, hmax, hmin]
  omega

/-! ## The event classes (Tables 2-1 and 2-2) -/

theorem acceptClass_eq (r : Reported) (v n : Word) (deadband : BitVec 16) :
    acceptClass r v n deadband =
      if r.state = .live ∧ r.quality = .good then
        (if beyondDeadband v n deadband then .value else .plain)
      else .quality := by
  obtain ⟨state, value, quality, stale⟩ := r
  cases state <;> cases quality <;> rfl

theorem faultClass_eq (r : Reported) :
    faultClass r = if r.state = .live ∧ r.quality = .bad then .plain else .quality := by
  obtain ⟨state, value, quality, stale⟩ := r
  cases state <;> cases quality <;> rfl

theorem notifiedAfter_eq (e : EventClass) (v n : Word) :
    notifiedAfter e v n = if e = .plain then n else v := by
  cases e <;> rfl

/-! ## The fields an entry acts on (Table 2-8) -/

@[simp] theorem ReportedState.toReported_toPointState (u : ReportedState) :
    u.toPointState.toReported = u := by
  cases u <;> rfl

theorem Point.reported_of_unforced {p : Point} {u : ReportedState} (hf : p.forced = none)
    (hu : p.state = u.toPointState) : p.reported = ⟨u, p.value, p.quality, p.stale⟩ := by
  simp only [reported, hf, hu, ReportedState.toReported_toPointState]

theorem Point.reported_of_forced {p : Point} {f : ForcedPart} (hf : p.forced = some f) :
    p.reported = f.under := by
  simp only [reported, hf]

theorem Point.setReported_of_unforced {p : Point} (hf : p.forced = none) (r : Reported) :
    p.setReported r =
      { p with state := r.state.toPointState, value := r.value, quality := r.quality,
               stale := r.stale } := by
  simp only [setReported, hf]

theorem Point.setReported_of_forced {p : Point} {f : ForcedPart} (hf : p.forced = some f)
    (r : Reported) : p.setReported r = { p with forced := some { f with under := r } } := by
  simp only [setReported, hf]

/-! ## The deadline, an accepted value, a fault -/

/-- Table 2-4: the freshness deadline after an entry that leaves the reported state LIVE, or not. -/
def Point.deadlineAfter (p : Point) (live : Bool) (now : BitVec 32) : Option Deadline :=
  if live = true ∧ p.period ≠ 0 then some ⟨now, p.period.toNat⟩ else p.deadline

theorem Point.refreshDeadline_eq {p : Point} {u : ReportedState} (hu : p.reported.state = u)
    (now : BitVec 32) :
    p.refreshDeadline now = { p with deadline := p.deadlineAfter (u == .live) now } := by
  simp only [refreshDeadline, deadlineAfter, hu, beq_iff_eq]
  split <;> rfl

section

variable {p : Point} {u : ReportedState} {f : ForcedPart}

theorem Point.accept_of_unforced (hf : p.forced = none) (hu : p.state = u.toPointState) (v : Word)
    (now : BitVec 32) :
    p.accept v now =
      ({ p with
          state := .live
          value := some v
          quality := .good
          stale := none
          lastReport := some now
          notified := notifiedAfter
            (acceptClass ⟨u, p.value, p.quality, p.stale⟩ v p.notified p.deadband) v p.notified },
        some (acceptClass ⟨u, p.value, p.quality, p.stale⟩ v p.notified p.deadband)) := by
  simp only [accept, hf, setReported_of_unforced hf, reported_of_unforced hf hu,
    ReportedState.toPointState]

theorem Point.accept_of_forced (hf : p.forced = some f) (v : Word) (now : BitVec 32) :
    p.accept v now =
      ({ p with
          lastReport := some now
          forced := some { f with under := ⟨.live, some v, .good, none⟩ } }, none) := by
  simp only [accept, hf, setReported_of_forced hf]

theorem Point.takeFault_of_unforced (hf : p.forced = none) (hu : p.state = u.toPointState) :
    p.takeFault =
      ({ p with run := 0, state := .live, quality := .bad, stale := none },
        some (faultClass ⟨u, p.value, p.quality, p.stale⟩)) := by
  simp only [takeFault, hf, setReported_of_unforced hf, reported_of_unforced hf hu,
    ReportedState.toPointState]

theorem Point.takeFault_of_forced (hf : p.forced = some f) :
    p.takeFault =
      ({ p with
          run := 0
          forced := some { f with under := ⟨.live, f.under.value, .bad, none⟩ } }, none) := by
  simp only [takeFault, hf, setReported_of_forced hf, reported_of_forced hf]

end

/-- R30, Table 2-1: an accepted value leaves the reported state LIVE, forced or not. -/
theorem Point.accept_reported_state (p : Point) (v : Word) (now : BitVec 32) :
    (p.accept v now).1.reported.state = .live := by
  unfold accept setReported reported
  cases p.forced <;> rfl

/-- R33, Table 2-2: a FAULT entry leaves the reported state LIVE, forced or not. -/
theorem Point.takeFault_reported_state (p : Point) : p.takeFault.1.reported.state = .live := by
  unfold takeFault setReported reported
  cases p.forced <;> rfl

/-! ## The three courses of an entry (R28 to R30, R33, R34) -/

section

variable {p q : Point} {e : Entry} {now : BitVec 32} {x : Option EventClass} {u : ReportedState}

/-- R28, R29: the report is counted and the candidate updated. -/
def Point.withCandidate (p : Point) (v : Word) : Point :=
  { p with reportCount := p.reportCount + 1, candidate := v, run := p.nextRun v }

theorem Point.takeEntry_of_fault (he : e.fault = true)
    (hq : { p with reportCount := p.reportCount + 1 }.takeFault = (q, x)) :
    p.takeEntry e now = ({ q with deadline := q.deadlineAfter true now }, x) := by
  have hlive : q.reported.state = .live := by
    have h := { p with reportCount := p.reportCount + 1 }.takeFault_reported_state
    rwa [hq] at h
  simp only [takeEntry, if_pos he, hq, refreshDeadline_eq hlive, beq_self_eq_true]

theorem Point.takeEntry_of_confirmed (he : e.fault = false) (hrun : p.nextRun e.value = p.confirm)
    (hq : (p.withCandidate e.value).accept e.value now = (q, x)) :
    p.takeEntry e now = ({ q with deadline := q.deadlineAfter true now }, x) := by
  have hlive : q.reported.state = .live := by
    have h := (p.withCandidate e.value).accept_reported_state e.value now
    rwa [hq] at h
  have hrun' : { p with reportCount := p.reportCount + 1 }.nextRun e.value = p.confirm := hrun
  rw [withCandidate, hrun] at hq
  simp only [takeEntry, he, Bool.false_eq_true, if_false, hrun', if_true, hq,
    refreshDeadline_eq hlive, beq_self_eq_true]

theorem Point.takeEntry_of_unconfirmed (he : e.fault = false) (hrun : p.nextRun e.value ≠ p.confirm)
    (hu : p.reported.state = u) :
    p.takeEntry e now =
      ({ p.withCandidate e.value with deadline := p.deadlineAfter (u == .live) now }, none) := by
  have hrun' : { p with reportCount := p.reportCount + 1 }.nextRun e.value ≠ p.confirm := hrun
  have hu' : (p.withCandidate e.value).reported.state = u := hu
  simp only [takeEntry, he, Bool.false_eq_true, if_false, if_neg hrun']
  exact congrArg (·, none) (refreshDeadline_eq hu' now)

end

/-! ## The obligations -/

/-- Settles O23: the two courses of an OK entry at a point that is not FORCED, and the deadband test. -/
theorem okEntryFollowsTheAcceptanceTable : Obligations.OkEntryFollowsTheAcceptanceTable := by
  refine ⟨?_, beyondDeadband_iff, beyondDeadband_zero_iff, beyondDeadband_extremes⟩
  intro p u e now he hf hstate
  have hu : p.state = u.toPointState := hstate
  refine ⟨?unconfirmed, ?confirmed⟩
  case unconfirmed =>
    intro hrun
    exact Point.takeEntry_of_unconfirmed he hrun (congrArg Reported.state (p.reported_of_unforced hf hu))
  case confirmed =>
    intro hrun
    have haccept := (p.withCandidate e.value).accept_of_unforced hf hu e.value now
    rw [notifiedAfter_eq, acceptClass_eq] at haccept
    exact Point.takeEntry_of_confirmed he hrun haccept

/-- Settles O24: a FAULT entry at a point that is not FORCED, and the three courses of an entry at a
FORCED one. -/
theorem faultAndForcedEntries : Obligations.FaultAndForcedEntries := by
  refine ⟨?unforced, ?forced⟩
  case unforced =>
    intro p u e now he hf hstate
    have hu : p.state = u.toPointState := hstate
    have hfault :=
      Point.takeFault_of_unforced (p := { p with reportCount := p.reportCount + 1 }) hf hu
    rw [faultClass_eq] at hfault
    rw [Point.takeEntry_of_fault he hfault]
    simp only [Point.deadlineAfter, true_and]
  case forced =>
    intro p f e now _ hf
    refine ⟨?fault, ?confirmed, ?unconfirmed⟩
    case fault =>
      intro he
      have hfault :=
        Point.takeFault_of_forced (p := { p with reportCount := p.reportCount + 1 }) hf
      exact Point.takeEntry_of_fault he hfault
    case confirmed =>
      intro he hrun
      have haccept := (p.withCandidate e.value).accept_of_forced hf e.value now
      exact Point.takeEntry_of_confirmed he hrun haccept
    case unconfirmed =>
      intro he hrun
      exact Point.takeEntry_of_unconfirmed he hrun (congrArg Reported.state (p.reported_of_forced hf))

end Sys2Proof.Machine
end

