-- ==== Sys2Proof/Proofs/Bindings.lean ====
section
/-! The request that returns a SUSPENDED binding to service: RESUME (R64). First the refusals of a request
on the client's own binding; then what the owner of RESUME answers; then the obligation. -/

namespace Sys2Proof.Machine

/-! ## The Mirror Update Queue -/

/-- R54: a binding that is not in the Mirror Update Queue is appended at its tail. -/
theorem queueBinding_of_notMem {b : Nat} {s : State} (hb : b ∉ s.mirrorQueue) :
    queueBinding b s = { s with mirrorQueue := s.mirrorQueue ++ [b] } := by
  have hcontains : ¬s.mirrorQueue.contains b = true := fun h => hb (List.contains_iff_mem.mp h)
  rw [queueBinding, if_neg hcontains]

/-! ## The refusals of a request on the client's own binding (R63, R64) -/

/-- The range test of a binding handle as the definitions write it. -/
theorem bindingHandle_inRange_iff (h : Nat) : h ≤ 2047 ↔ ¬Config.bindingCount ≤ h := by
  unfold Config.bindingCount
  omega

section

variable {c : ClientId} {r : Request} {s : State} {allowed : BindingState → Bool}
  (act : Nat → Binding → Answer)

theorem withOwnBinding_badArgument (hh : 2047 < r.handle) :
    withOwnBinding c r s allowed act = refuse s .badArgument := by
  have hrange : Config.bindingCount ≤ r.handle := hh
  rw [withOwnBinding, if_pos hrange]

/-- R63, R64: a FREE record and the record of another client are refused alike. -/
theorem withOwnBinding_notFound (hh : r.handle ≤ 2047)
    (hother : ∀ b, s.bindings.find r.handle = some b → b.client ≠ c) :
    withOwnBinding c r s allowed act = refuse s .notFound := by
  rw [withOwnBinding, if_neg ((bindingHandle_inRange_iff _).mp hh)]
  cases hb : s.bindings.find r.handle with
  | none => rfl
  | some b => exact if_pos (hother b hb)

theorem withOwnBinding_wrongState {b : Binding} (hh : r.handle ≤ 2047)
    (hb : s.bindings.find r.handle = some b) (hc : b.client = c) (ha : allowed b.state = false) :
    withOwnBinding c r s allowed act = refuse s .wrongState := by
  rw [withOwnBinding, if_neg ((bindingHandle_inRange_iff _).mp hh)]
  simp only [hb, hc, ha, ne_eq, not_true_eq_false, if_false, Bool.false_eq_true]

end

/-! ## What RESUME answers -/

theorem resumable_iff (x : BindingState) : resumable x = true ↔ x = .suspended := by
  cases x <;> simp [resumable]

/-- R64: the state after RESUME of binding `h`, whose record is `b`, at its owner. -/
def State.resumed (s : State) (h : Nat) (b : Binding) : State :=
  { s with
    bindings := s.bindings.put h { b with state := .active, fault := none }
    mirrorQueue := s.mirrorQueue ++ [h] }

/-- The owner of RESUME and the taking of a request act on different parts of the state. -/
theorem State.resumed_withoutHead (s : State) (c : ClientId) (rest : List Request) (h : Nat)
    (b : Binding) : (s.withoutHead c rest).resumed h b = (s.resumed h b).withoutHead c rest := rfl

/-- R64, R54: the SUSPENDED binding becomes ACTIVE with no fault, and then enters the queue. -/
theorem resumeBinding_suspended {c : ClientId} {r : Request} {s : State} {b : Binding}
    (hh : r.handle ≤ 2047) (hb : s.bindings.find r.handle = some b) (hc : b.client = c)
    (hstate : b.state = .suspended) (hq : r.handle ∉ s.mirrorQueue) :
    resumeBinding c r s = okAnswer (s.resumed r.handle b) 0 0 0 := by
  have hresumed : queueBinding r.handle
      (s.modifyBinding r.handle (fun b => { b with state := .active, fault := none })) =
      s.resumed r.handle b := by
    rw [State.modifyBinding, Table.modify_some _ _ hb]
    exact queueBinding_of_notMem hq
  rw [resumeBinding, withOwnBinding_acts _ hh hb hc ((resumable_iff _).mpr hstate), hresumed]

/-- RESUME on a ready request that its owner refuses changes nothing but the two FIFOs. -/
theorem exec_resume_refused {s : State} {c : ClientId} {r : Request} {rest : List Request}
    (hr : ReadyRequest s c r rest) (hk : r.kind = 0x22) {st : Status}
    (hf : resumeBinding c r (s.withoutHead c rest) = refuse (s.withoutHead c rest) st) :
    exec (.resume c) s = .next (s.answered c r rest st.code 0 0 0) :=
  takeRequest_refused (isKind := (· == 0x22)) hr (beq_iff_eq.mpr hk) hf

/-- Settles O28: the three refusals are those of a request on the client's own binding; a SUSPENDED binding
of the client is resumed. -/
theorem resumeQueuesTheBinding : Obligations.ResumeQueuesTheBinding := by
  intro s c r rest hr hk
  refine ⟨?badArgument, ?notFound, ?own⟩
  case badArgument =>
    intro hh
    exact exec_resume_refused (st := .badArgument) hr hk (withOwnBinding_badArgument _ hh)
  case notFound =>
    intro hh hother
    exact exec_resume_refused (st := .notFound) hr hk (withOwnBinding_notFound _ hh hother)
  case own =>
    intro b hh hb hc
    refine ⟨?wrongState, ?resumed⟩
    case wrongState =>
      intro hstate
      have ha : resumable b.state = false :=
        Bool.eq_false_iff.mpr (fun h => hstate ((resumable_iff _).mp h))
      exact exec_resume_refused (st := .wrongState) hr hk (withOwnBinding_wrongState _ hh hb hc ha)
    case resumed =>
      intro hstate hq
      have hanswer : resumeBinding c r (s.withoutHead c rest) =
          okAnswer ((s.resumed r.handle b).withoutHead c rest) 0 0 0 := by
        rw [resumeBinding_suspended (s := s.withoutHead c rest) hh hb hc hstate hq,
          State.resumed_withoutHead]
      exact takeRequest_answered (isKind := (· == 0x22)) (x := s.resumed r.handle b) (st := .ok)
        hr (beq_iff_eq.mpr hk) hanswer

end Sys2Proof.Machine
end

