-- ==== Sys2Proof/Proofs/CollectCommand.lean ====
section
/-! The request that takes a command's result: COLLECT (R120). First what its owner answers for each form of
the client's done list; then the obligation. -/

namespace Sys2Proof.Machine

/-! ## What COLLECT answers -/

/-- R120: the state after COLLECT of slot `h`, which stood before `more` in client `c`'s done list. -/
def State.collected (s : State) (c : ClientId) (h : Nat) (more : List Nat) : State :=
  { s with
    slots := s.slots.drop h
    doneLists := s.doneLists.set c more }

/-- The owner of COLLECT and the taking of a request act on different parts of the state. -/
theorem State.collected_withoutHead (s : State) (c : ClientId) (rest : List Request) (h : Nat)
    (more : List Nat) :
    (s.withoutHead c rest).collected c h more = (s.collected c h more).withoutHead c rest := rfl

/-- R120: word 1 of the answer, the point and the handle of the slot collected. -/
def collectWord1 (h : Nat) (k : Slot) : Word := place 0 16 k.point ||| place 16 8 h

/-- R120, R164: word 2 of the answer, the result's code, the station code and the host tag. -/
def collectWord2 (code : Nat) (k : Slot) : Word :=
  place 0 8 code ||| place 8 8 k.code.toNat ||| place 16 16 k.hostTag.toNat

section

variable {s : State} {c : ClientId}

theorem collect_empty (r : Request) (hd : s.doneList c = []) : collect c r s = refuse s .empty := by
  rw [collect, hd]

theorem collect_head {h : Nat} {more : List Nat} {k : Slot} (r : Request)
    (hd : s.doneList c = h :: more) (hk : s.slots.find h = some k) :
    collect c r s =
      okAnswer (s.collected c h more) (collectWord1 h k) (collectWord2 (resultCode k.result) k) 0 := by
  simp only [collect, hd, hk]
  rfl

end

/-! ## The obligation -/

/-- Settles O32: an empty done list is refused; of any other the head is collected, its result in the code
that R164 gives it. -/
theorem collectTakesTheOldestDoneSlot : Obligations.CollectTakesTheOldestDoneSlot := by
  intro s c r rest hr hkind
  have hrow : (r.kind == 0x32) = true := beq_iff_eq.mpr hkind
  refine ⟨?empty, ?head⟩
  case empty =>
    intro hd
    exact takeRequest_refused (isKind := (· == 0x32)) (st := .empty) hr hrow
      (collect_empty (s := s.withoutHead c rest) r hd)
  case head =>
    intro h more k hd hk
    have hanswer : collect c r (s.withoutHead c rest) =
        okAnswer ((s.collected c h more).withoutHead c rest) (collectWord1 h k)
          (collectWord2 (resultCode k.result) k) 0 := by
      rw [collect_head (s := s.withoutHead c rest) r hd hk, State.collected_withoutHead]
    have htaken : exec (.collect c) s = .next ((s.collected c h more).answered c r rest 0
        (collectWord1 h k) (collectWord2 (resultCode k.result) k) 0) :=
      takeRequest_answered (isKind := (· == 0x32)) (x := s.collected c h more) (st := .ok)
        hr hrow hanswer
    rw [htaken]
    cases k.result with
    | none => rfl
    | some x => cases x <;> rfl

end Sys2Proof.Machine
end

