-- ==== Sys2Proof/Proofs/RequestPath.lean ====
section
/-! The registers of a window's two FIFOs: SUBMIT, RESP0-RESP3 and POP (R138, R139, R143). First what an
access does with RESET_N high; then what each register does in each state of its FIFO; then the obligation. -/

namespace Sys2Proof.Machine

/-! ## Accesses with RESET_N high -/

theorem inService_of_resetN {s : State} (hs : s.resetN = true) (f : State → State) :
    inService s f = .next (f s) := by
  rw [inService, if_pos hs]

theorem readInService_of_resetN {s : State} (hs : s.resetN = true) (f : State → State) :
    readInService s f = .next (f s) := by
  rw [readInService, if_pos hs]

/-! ## The two sticky causes of the FIFOs -/

theorem setSticky_requestOverrun (s : State) (c : ClientId) :
    setSticky c .requestOverrun s =
      s.modifyClient c (fun k => { k with sticky := { k.sticky with requestOverrun := true } }) := rfl

theorem setSticky_responseUnderread (s : State) (c : ClientId) :
    setSticky c .responseUnderread s =
      s.modifyClient c (fun k => { k with sticky := { k.sticky with responseUnderread := true } }) := rfl

section

variable {s : State} {c : ClientId}

/-! ## SUBMIT -/

/-- R138: with room in the FIFO, the record is made of the word written and the staging words. -/
theorem submitWrite_of_room (v : Word) (hroom : (s.client c).requests.length < 8) :
    submitWrite c v s = s.modifyClient c (fun k =>
      { k with requests := k.requests ++ [⟨v, k.stage1, k.stage2, k.stage3⟩] }) :=
  if_pos hroom

/-- R138: with the FIFO full, the record is discarded and the overrun is noted. -/
theorem submitWrite_of_full (v : Word) (hfull : 8 ≤ (s.client c).requests.length) :
    submitWrite c v s = settle (setSticky c .requestOverrun s) :=
  if_neg (Nat.not_lt.mpr hfull)

/-! ## RESP0-RESP3 -/

/-- R143: a read shows its word of the head response and leaves the FIFO as it is. -/
theorem respRead_head {r : Response} {rest : List Response} (hhead : (s.client c).responses = r :: rest)
    (i : Fin 4) : respRead c i s = { s with readData := r.word i } := by
  have hword : respWord (s.client c) i = r.word i := by rw [respWord, hhead]
  have hsome : ¬(s.client c).responses.isEmpty = true := by
    rw [hhead, List.isEmpty_cons]
    exact Bool.false_ne_true
  rw [respRead, hword, if_neg hsome]

/-- R143: an under-read returns all ones. -/
theorem respRead_empty (hempty : (s.client c).responses = []) (i : Fin 4) :
    respRead c i s = settle (setSticky c .responseUnderread { s with readData := 0xFFFFFFFF }) := by
  have hword : respWord (s.client c) i = 0xFFFFFFFF := by rw [respWord, hempty]
  have hnone : (s.client c).responses.isEmpty = true := by rw [hempty, List.isEmpty_nil]
  rw [respRead, hword, if_pos hnone]

/-! ## POP -/

theorem popWrite_head {r : Response} {rest : List Response}
    (hhead : (s.client c).responses = r :: rest) :
    popWrite c s = s.modifyClient c (fun k => { k with responses := rest }) := by
  rw [popWrite, hhead]

theorem popWrite_empty (hempty : (s.client c).responses = []) :
    popWrite c s = settle (setSticky c .responseUnderread s) := by
  rw [popWrite, hempty]

/-! ## The three commands with RESET_N high -/

theorem exec_submit (hs : s.resetN = true) (v : Word) :
    exec (.submit c v) s = .next (submitWrite c v s) :=
  inService_of_resetN hs _

theorem exec_respRead (hs : s.resetN = true) (i : Fin 4) :
    exec (.respRead c i) s = .next (respRead c i s) :=
  readInService_of_resetN hs _

theorem exec_pop (hs : s.resetN = true) (v : Word) : exec (.pop c v) s = .next (popWrite c s) :=
  inService_of_resetN hs _

end

/-! ## The obligation -/

/-- Settles O6: SUBMIT by whether its FIFO has room, the reads and POP by whether theirs has a head. -/
theorem requestPathRegisters : Obligations.RequestPathRegisters := by
  intro s c hs
  refine ⟨?room, ?full, ?head, ?empty⟩
  case room =>
    intro v hroom
    rw [exec_submit hs, submitWrite_of_room v hroom]
  case full =>
    intro v hfull
    rw [exec_submit hs, submitWrite_of_full v hfull, setSticky_requestOverrun]
  case head =>
    intro r rest hhead
    have hread (i : Fin 4) : exec (.respRead c i) s = .next { s with readData := r.word i } := by
      rw [exec_respRead hs, respRead_head hhead]
    have hpop (v : Word) : exec (.pop c v) s =
        .next (s.modifyClient c (fun k => { k with responses := rest })) := by
      rw [exec_pop hs, popWrite_head hhead]
    exact ⟨hread 0, hread 1, hread 2, hread 3, hpop⟩
  case empty =>
    intro hempty
    refine ⟨?read, ?pop⟩
    case read =>
      intro i
      rw [exec_respRead hs, respRead_empty hempty, setSticky_responseUnderread]
    case pop =>
      intro v
      rw [exec_pop hs, popWrite_empty hempty, setSticky_responseUnderread]

end Sys2Proof.Machine
end


section
/-! What a command can do, said once. `Meanings R` lists the meanings of the commands with RESET_N high, each
related to the state it starts from by `R`; `Meanings.step` is the inversion of `step`. For a law that does
not look at the windows, the time or the pins, `KeptByCore` is the shorter list that is left. -/

namespace Sys2Proof.Machine

/-! ## The meanings of the commands -/

/-- The owners of the requests (Table 8-2), and the answer to an undefined kind. -/
def requestOwners : List (ClientId → Request → State → Answer) :=
  [addStation, removeStation, queryStation, createPoint, lookupPoint, findPoint, nextPoint, modifyPoint,
    retirePoint, forcePoint, releasePoint, bindPoint, unbindPoint, resumeBinding, queryBinding,
    sendCommand, abortCommand, collect, badRequest]

/-- `R` relates every state to what each meaning makes of it. -/
structure Meanings (R : State → State → Prop) : Prop where
  idle : ∀ s, R s s
  take : ∀ s c isKind f, f ∈ requestOwners → R s (takeRequest c isKind f s)
  submit : ∀ s c v, R s (submitWrite c v s)
  respRead : ∀ s c i, R s (respRead c i s)
  pop : ∀ s c, R s (popWrite c s)
  causeRead : ∀ s c, R s (causeRead c s)
  lowRead : ∀ s, R s { s with readData := 0 }
  causeWrite : ∀ s c v, R s (causeWrite c v s)
  causeMask : ∀ s c v, R s (causeMaskWrite c v s)
  linkWatch : ∀ s c v, R s (linkWatchWrite c v s)
  irqMode : ∀ s c v, R s (irqModeWrite c v s)
  msgAddr : ∀ s c v, R s (msgAddrWrite c v s)
  msgData : ∀ s c v, R s (msgDataWrite c v s)
  msgKey : ∀ s c v, R s (msgKeyWrite c v s)
  clientReset : ∀ s c, R s (clientReset c s)
  stage : ∀ s c i v, R s (stageWrite c i v s)
  softReset : ∀ s, R s (softReset s)
  hardwareReset : ∀ s, R s (hardwareReset s)
  release : ∀ s, R s (resetNRelease s)
  tick : ∀ s, R s (tick s)
  enable : ∀ s l, R s (enableLink l s)
  disable : ∀ s l, R s (disableLink l s)
  rate : ∀ s l v, R s (rateWrite l v s)
  timing : ∀ s l v, R s (timingWrite l v s)
  poll : ∀ s l v, R s (pollWrite l v s)
  status : ∀ s l v, R s (statusWrite l v s)
  mask : ∀ s l v, R s (maskWrite l v s)
  busConfig : ∀ s v, R s (busConfigWrite v s)
  freshness : ∀ s h, R s (expirePoint h s)
  completion : ∀ s h, R s (expireSlot h s)
  visit : ∀ s l, R s (visitStart l s)
  command : ∀ s l, R s (commandExchangeStart l s)
  frameSent : ∀ s l, R s (frameSent l s)
  response : ∀ s l, R s (responseExpiry l s)
  character : ∀ s l data mark stop, R s (characterReceived l data mark stop s)
  gap : ∀ s l, R s (gapExpiry l s)
  quiet : ∀ s l, R s (quietExpiry l s)
  pollGap : ∀ s l, R s (pollGapExpiry l s)
  startBit : ∀ s l a b, R s (startBit l a b s)
  mirrorStart : ∀ s, R s (mirrorWriteStart s)
  messageStart : ∀ s, R s (messageWriteStart s)
  grant : ∀ s, R s (busGrant s)
  ungrant : ∀ s, R s (bgntDeasserted s)
  accept : ∀ s, R s (busAccept s)
  busEnd : ∀ s a e, R s (busEnd a e s)
  busTimeout : ∀ s, R s (busTimeout s)

section

variable {R : State → State → Prop}

/-- R159: with RESET_N low a command in service changes nothing. -/
theorem Meanings.inService (h : Meanings R) {s t : State} {f : State → State} (hf : R s (f s))
    (ht : inService s f = .next t) : R s t := by
  unfold Machine.inService at ht
  obtain rfl : (if s.resetN then f s else s) = t := by simpa using ht
  split
  · exact hf
  · exact h.idle s

/-- R159: with RESET_N low a register read returns 0. -/
theorem Meanings.readInService (h : Meanings R) {s t : State} {f : State → State} (hf : R s (f s))
    (ht : readInService s f = .next t) : R s t := by
  unfold Machine.readInService at ht
  obtain rfl : (if s.resetN then f s else { s with readData := 0 }) = t := by simpa using ht
  split
  · exact hf
  · exact h.lowRead s

theorem Meanings.linkWrite (h : Meanings R) (s : State) (l : LinkId) (r : LinkReg) (v : Word) :
    R s (linkWrite l r v s) := by
  cases r with
  | control =>
    show R s (linkControlWrite l v s)
    unfold linkControlWrite
    split
    · exact h.enable s l
    · exact h.disable s l
  | rate => exact h.rate s l v
  | timing => exact h.timing s l v
  | poll => exact h.poll s l v
  | status => exact h.status s l v
  | mask => exact h.mask s l v

theorem Meanings.clientWrite (h : Meanings R) (s : State) (c : ClientId) (r : ClientReg) (v : Word) :
    R s (clientWrite c r v s) := by
  cases r with
  | stage i => exact h.stage s c i v
  | submit => exact h.submit s c v
  | resp i => exact h.idle s
  | pop => exact h.pop s c
  | fifoState => exact h.idle s
  | cause => exact h.causeWrite s c v
  | causeMask => exact h.causeMask s c v
  | linkWatch => exact h.linkWatch s c v
  | irqMode => exact h.irqMode s c v
  | msgAddr => exact h.msgAddr s c v
  | msgData => exact h.msgData s c v
  | msgKey => exact h.msgKey s c v
  | control =>
    show R s (if v.getLsbD 0 then Machine.clientReset c s else s)
    split
    · exact h.clientReset s c
    · exact h.idle s

theorem Meanings.registerWrite (h : Meanings R) (s : State) (offset : BitVec 10) (v : Word) :
    R s (registerWrite offset v s) := by
  unfold Machine.registerWrite
  cases decodeOffset offset with
  | devControl =>
    show R s (if v.getLsbD 0 then Machine.softReset s else s)
    split
    · exact h.softReset s
    · exact h.idle s
  | timeNow => exact h.idle s
  | busConfig => exact h.busConfig s v
  | occupancy i => exact h.idle s
  | link l r => exact h.linkWrite s l r v
  | client c r => exact h.clientWrite s c r v
  | undefined => exact h.idle s

/-- The taking of a request, by its owner. -/
theorem Meanings.request (h : Meanings R) {s t : State} {c : ClientId} {isKind : Nat → Bool}
    {f : ClientId → Request → State → Answer}
    (ht : Machine.inService s (takeRequest c isKind f) = .next t) (hf : f ∈ requestOwners) : R s t :=
  h.inService (h.take s c isKind f hf) ht

/-- What a command answers is a meaning's next state, or the state it found. -/
theorem Meanings.exec (h : Meanings R) {i : Instr} {s t : State} (ht : exec i s = .next t) : R s t := by
  cases i with
  | addStation c => exact h.request ht (by simp [requestOwners])
  | removeStation c => exact h.request ht (by simp [requestOwners])
  | queryStation c => exact h.request ht (by simp [requestOwners])
  | createPoint c => exact h.request ht (by simp [requestOwners])
  | lookupPoint c => exact h.request ht (by simp [requestOwners])
  | findPoint c => exact h.request ht (by simp [requestOwners])
  | nextPoint c => exact h.request ht (by simp [requestOwners])
  | modifyPoint c => exact h.request ht (by simp [requestOwners])
  | retirePoint c => exact h.request ht (by simp [requestOwners])
  | forcePoint c => exact h.request ht (by simp [requestOwners])
  | releasePoint c => exact h.request ht (by simp [requestOwners])
  | bind c => exact h.request ht (by simp [requestOwners])
  | unbind c => exact h.request ht (by simp [requestOwners])
  | resume c => exact h.request ht (by simp [requestOwners])
  | queryBinding c => exact h.request ht (by simp [requestOwners])
  | sendCommand c => exact h.request ht (by simp [requestOwners])
  | abortCommand c => exact h.request ht (by simp [requestOwners])
  | collect c => exact h.request ht (by simp [requestOwners])
  | badRequest c => exact h.request ht (by simp [requestOwners])
  | submit c v => exact h.inService (h.submit s c v) ht
  | respRead c i => exact h.readInService (h.respRead s c i) ht
  | pop c v => exact h.inService (h.pop s c) ht
  | causeRead c => exact h.readInService (h.causeRead s c) ht
  | causeWrite c v => exact h.inService (h.causeWrite s c v) ht
  | causeMaskWrite c v => exact h.inService (h.causeMask s c v) ht
  | linkWatchWrite c v => exact h.inService (h.linkWatch s c v) ht
  | irqModeWrite c v => exact h.inService (h.irqMode s c v) ht
  | msgAddrWrite c v => exact h.inService (h.msgAddr s c v) ht
  | msgDataWrite c v => exact h.inService (h.msgData s c v) ht
  | msgKeyWrite c v => exact h.inService (h.msgKey s c v) ht
  | clientReset c => exact h.inService (h.clientReset s c) ht
  | softReset => exact h.inService (h.softReset s) ht
  | linkEnable l => exact h.inService (h.enable s l) ht
  | linkDisable l => exact h.inService (h.disable s l) ht
  | rateWrite l v => exact h.inService (h.rate s l v) ht
  | statusWrite l v => exact h.inService (h.status s l v) ht
  | maskWrite l v => exact h.inService (h.mask s l v) ht
  | registerWrite o v => exact h.inService (h.registerWrite s o v) ht
  | hardwareReset =>
    obtain rfl : Machine.hardwareReset s = t := Host.Outcome.next.inj ht
    exact h.hardwareReset s
  | resetNRelease =>
    obtain rfl : Machine.resetNRelease s = t := Host.Outcome.next.inj ht
    exact h.release s
  | timeBaseTick => exact h.inService (h.tick s) ht
  | freshnessExpiry p => exact h.inService (h.freshness s p.val) ht
  | completionDeadlineExpiry k => exact h.inService (h.completion s k.val) ht
  | visitStart l => exact h.inService (h.visit s l) ht
  | commandExchangeStart l => exact h.inService (h.command s l) ht
  | frameSent l => exact h.inService (h.frameSent s l) ht
  | responseDeadlineExpiry l => exact h.inService (h.response s l) ht
  | characterReceived l d m b => exact h.inService (h.character s l d m b) ht
  | gapDeadlineExpiry l => exact h.inService (h.gap s l) ht
  | quietDeadlineExpiry l => exact h.inService (h.quiet s l) ht
  | pollGapDeadlineExpiry l => exact h.inService (h.pollGap s l) ht
  | mirrorWriteStart => exact h.inService (h.mirrorStart s) ht
  | messageWriteStart => exact h.inService (h.messageStart s) ht
  | busGrant =>
    obtain rfl : Machine.busGrant s = t := Host.Outcome.next.inj ht
    exact h.grant s
  | busAccept => exact h.inService (h.accept s) ht
  | busEndStatus a e => exact h.inService (h.busEnd s a e) ht
  | busTimeout => exact h.inService (h.busTimeout s) ht
  | startBitDetected l r p => exact h.inService (h.startBit s l r p) ht
  | bgntNDeasserted =>
    obtain rfl : bgntDeasserted s = t := Host.Outcome.next.inj ht
    exact h.ungrant s

/-- A step runs the command at the front of the queue on the rest of the machine, or idles. -/
theorem step_front {s : State} {i : Instr} {rest : List Instr} (hp : s.pending = i :: rest) :
    step s = Machine.exec i { s with pending := rest } := by
  rw [step, hp]

theorem step_idle {s : State} (hp : s.pending = []) : step s = .next s := by
  rw [step, hp]

/-- The inversion of a step: nothing, or one meaning, on the rest of the machine. -/
theorem Meanings.step (h : Meanings R) {s t : State} (ht : step s = .next t) :
    ∃ q, s = t ∨ R { s with pending := q } t := by
  cases hp : s.pending with
  | nil =>
    rw [step_idle hp] at ht
    exact ⟨[], .inl (Host.Outcome.next.inj ht)⟩
  | cons i rest =>
    rw [step_front hp] at ht
    exact ⟨rest, .inr (h.exec ht)⟩

/-- A law that does not look at the queue of commands, kept by every meaning, is kept by every step. -/
theorem Meanings.keeps {P : State → Prop} (h : Meanings (fun s t => P s → P t))
    (hq : ∀ s q, P s → P { s with pending := q }) {s t : State} (hs : P s) (ht : Machine.step s = .next t) :
    P t := by
  obtain ⟨q, rfl | hR⟩ := h.step ht
  · exact hs
  · exact hR (hq s q hs)

end

end Sys2Proof.Machine
end


section
/-! The laws of one point record (R10, R11, R29, R36, R39, R42, R22): what each change of a record keeps. -/

namespace Sys2Proof.Machine

/-! ## A record but for its deadline -/

/-- The laws of a point record that do not speak of its deadline. -/
structure Point.FieldsLawful (p : Point) : Prop where
  confirm : 1 ≤ p.confirm ∧ p.confirm ≤ 3
  run : p.run ≤ p.confirm
  forced : p.forced.isSome = (p.state == .forced)
  view : ∀ f, p.forced = some f →
    p.value = some f.value ∧ p.quality = .good ∧ p.stale = none ∧ p.notified = f.value
  reported : p.state ≠ .retiring → p.reported.Lawful
  retiring : p.state = .retiring → p.run = 0

section

variable {p q : Point}

theorem Point.Lawful.fields (h : p.Lawful) : p.FieldsLawful :=
  ⟨h.confirm, h.run, h.forced, h.view, h.reported, h.retiring⟩

theorem Point.FieldsLawful.lawful (h : p.FieldsLawful)
    (hd : p.deadline.isSome = (p.liveEligible && p.period != 0))
    (hl : ∀ d, p.deadline = some d → d.length = p.period.toNat) : p.Lawful :=
  ⟨h.confirm, h.run, hd, hl, h.forced, h.view, h.reported, h.retiring⟩

/-- R42: the forced part is present in FORCED only. -/
theorem Point.FieldsLawful.state_of_forced (h : p.FieldsLawful) {f : ForcedPart}
    (hf : p.forced = some f) : p.state = .forced := by
  have hs := h.forced
  rw [hf] at hs
  simpa using hs.symm

theorem Point.FieldsLawful.state_of_unforced (h : p.FieldsLawful) (hf : p.forced = none)
    (hr : p.state ≠ .retiring) : ∃ u : ReportedState, p.state = u.toPointState := by
  have hs := h.forced
  rw [hf] at hs
  cases hp : p.state with
  | awaiting => exact ⟨.awaiting, rfl⟩
  | live => exact ⟨.live, rfl⟩
  | stale => exact ⟨.stale, rfl⟩
  | forced => simp [hp] at hs
  | retiring => exact absurd hp hr

/-- R21: LIVE-eligible is being LIVE to reporting, in a point that is not RETIRING. -/
theorem Point.FieldsLawful.liveEligible_eq (h : p.FieldsLawful) (hr : p.state ≠ .retiring) :
    p.liveEligible = (p.reported.state == .live) := by
  cases hf : p.forced with
  | none =>
    obtain ⟨u, hu⟩ := h.state_of_unforced hf hr
    rw [Point.reported_of_unforced hf hu, Point.liveEligible, hu]
    cases u <;> rfl
  | some f =>
    rw [Point.liveEligible, h.state_of_forced hf]

/-- R36, Table 2-4: a record whose deadline was lawful before an entry has it lawful after the refresh. -/
theorem Point.FieldsLawful.refresh (hq : q.FieldsLawful) (hp : p.Lawful) (hd : q.deadline = p.deadline)
    (hper : q.period = p.period) (hr : q.state ≠ .retiring)
    (hlive : p.liveEligible = true → q.reported.state = .live) (now : BitVec 32) :
    (q.refreshDeadline now).Lawful := by
  have helig := hq.liveEligible_eq hr
  unfold Point.refreshDeadline
  split
  · rename_i hx
    obtain ⟨hs, hz⟩ := hx
    refine Point.FieldsLawful.lawful
      ⟨hq.confirm, hq.run, hq.forced, hq.view, hq.reported, hq.retiring⟩ ?_ ?_
    · show true = (q.liveEligible && q.period != 0)
      rw [helig, hs]
      simpa using hz
    · rintro d ⟨⟩
      rfl
  · rename_i hx
    refine hq.lawful ?_ ?_
    · rw [hd, hper, hp.deadline, helig]
      by_cases hz : p.period = 0
      · simp [hz]
      · have hns : q.reported.state ≠ .live := fun hs => hx ⟨hs, hper ▸ hz⟩
        have hne : p.liveEligible = false := Bool.eq_false_iff.mpr (fun hl => hns (hlive hl))
        simp [hne, hns]
    · rw [hd, hper]
      exact hp.length

/-- A record that differs only in what the laws do not speak of. -/
theorem Point.Lawful.with_bindings (h : p.Lawful) (bs : List Nat) :
    ({ p with bindings := bs } : Point).Lawful :=
  ⟨h.confirm, h.run, h.deadline, h.length, h.forced, h.view, h.reported, h.retiring⟩

theorem Point.Lawful.with_pendingCmd (h : p.Lawful) (k : Option Nat) :
    ({ p with pendingCmd := k } : Point).Lawful :=
  ⟨h.confirm, h.run, h.deadline, h.length, h.forced, h.view, h.reported, h.retiring⟩

/-! ## Entries (R28 to R34) -/

/-- R29: the run count never exceeds the confirm count. -/
theorem Point.nextRun_le (h : 1 ≤ p.confirm) (v : Word) : p.nextRun v ≤ p.confirm := by
  unfold Point.nextRun
  split
  · exact Nat.min_le_right _ _
  · exact h

/-- R11: an accepted value and a FAULT entry leave lawful fields. -/
theorem Reported.lawful_accepted (v : Word) : (⟨.live, some v, .good, none⟩ : Reported).Lawful :=
  ⟨fun h => (by cases h), fun _ _ => rfl, rfl⟩

theorem Reported.lawful_faulty (v : Option Word) : (⟨.live, v, .bad, none⟩ : Reported).Lawful :=
  ⟨fun h => (by cases h), fun _ h => (by cases h), rfl⟩

/-- The fields that reporting acts on are set to lawful ones. -/
theorem Point.FieldsLawful.setReported (h : p.FieldsLawful) (hr : p.state ≠ .retiring) {r : Reported}
    (hl : r.Lawful) : (p.setReported r).FieldsLawful ∧ (p.setReported r).reported = r ∧
      (p.setReported r).state ≠ .retiring := by
  cases hf : p.forced with
  | none =>
    rw [Point.setReported_of_unforced hf]
    have hrep : ({ p with
        state := r.state.toPointState
        value := r.value
        quality := r.quality
        stale := r.stale } : Point).reported = r := Point.reported_of_unforced hf rfl
    have hns : r.state.toPointState ≠ .retiring := by cases r.state <;> exact fun hs => by cases hs
    refine ⟨⟨h.confirm, h.run, ?_, ?_, fun _ => by rw [hrep]; exact hl, fun hs => absurd hs hns⟩, hrep, hns⟩
    · show p.forced.isSome = (r.state.toPointState == .forced)
      rw [hf]
      cases r.state <;> rfl
    · intro f hff
      exact absurd (hf.symm.trans hff) (by simp)
  | some f =>
    rw [Point.setReported_of_forced hf]
    refine ⟨⟨h.confirm, h.run, ?_, ?_, fun _ => hl, fun hs => absurd hs hr⟩, rfl, hr⟩
    · rw [← h.forced, hf]
      rfl
    · rintro g ⟨⟩
      exact h.view f hf

theorem Point.setReported_keeps (p : Point) (r : Reported) :
    (p.setReported r).deadline = p.deadline ∧ (p.setReported r).period = p.period ∧
      (p.setReported r).notified = p.notified ∧ (p.setReported r).forced.isSome = p.forced.isSome := by
  unfold Point.setReported
  split
  · rename_i f hf
    exact ⟨rfl, rfl, rfl, by rw [hf]; rfl⟩
  · exact ⟨rfl, rfl, rfl, rfl⟩

/-- R30, R44: the record after an accepted value, but for its deadline. -/
theorem Point.FieldsLawful.accept (h : p.FieldsLawful) (hr : p.state ≠ .retiring) (v : Word)
    (now : BitVec 32) :
    (p.accept v now).1.FieldsLawful ∧ (p.accept v now).1.deadline = p.deadline ∧
      (p.accept v now).1.period = p.period ∧ (p.accept v now).1.state ≠ .retiring := by
  obtain ⟨hfields, hrep, hns⟩ := h.setReported hr (Reported.lawful_accepted v)
  obtain ⟨hd, hper, -, hforced⟩ := p.setReported_keeps ⟨.live, some v, .good, none⟩
  unfold Point.accept
  cases hf : p.forced with
  | some f =>
    exact ⟨⟨hfields.confirm, hfields.run, hfields.forced, hfields.view, hfields.reported,
      hfields.retiring⟩, hd, hper, hns⟩
  | none =>
    have hnone : (p.setReported ⟨.live, some v, .good, none⟩).forced = none := by
      rw [hf] at hforced
      simpa using hforced
    refine ⟨⟨hfields.confirm, hfields.run, hfields.forced, ?_, hfields.reported, hfields.retiring⟩, hd,
      hper, hns⟩
    intro g hg
    exact absurd (hnone.symm.trans hg) (by simp)

/-- R33, R44: the record after a FAULT entry, but for its deadline. -/
theorem Point.FieldsLawful.takeFault (h : p.FieldsLawful) (hr : p.state ≠ .retiring) :
    p.takeFault.1.FieldsLawful ∧ p.takeFault.1.deadline = p.deadline ∧
      p.takeFault.1.period = p.period ∧ p.takeFault.1.state ≠ .retiring := by
  obtain ⟨hfields, hrep, hns⟩ := h.setReported hr (Reported.lawful_faulty p.reported.value)
  obtain ⟨hd, hper, -, -⟩ := p.setReported_keeps ⟨.live, p.reported.value, .bad, none⟩
  have hq : ({ p.setReported ⟨.live, p.reported.value, .bad, none⟩ with run := 0 } :
      Point).FieldsLawful :=
    ⟨hfields.confirm, Nat.zero_le _, hfields.forced, hfields.view, hfields.reported, fun _ => rfl⟩
  unfold Point.takeFault
  cases p.forced with
  | some f => exact ⟨hq, hd, hper, hns⟩
  | none => exact ⟨hq, hd, hper, hns⟩

/-- R28 to R34, R36: an entry leaves the record lawful. -/
theorem Point.Lawful.takeEntry (h : p.Lawful) (hr : p.state ≠ .retiring) (e : Entry) (now : BitVec 32) :
    (p.takeEntry e now).1.Lawful := by
  have hcounted : ({ p with reportCount := p.reportCount + 1 } : Point).FieldsLawful :=
    ⟨h.confirm, h.run, h.forced, h.view, h.reported, h.retiring⟩
  unfold Point.takeEntry
  dsimp only
  split
  · obtain ⟨hq, hd, hper, hns⟩ := hcounted.takeFault hr
    exact hq.refresh h hd hper hns (fun _ => Point.takeFault_reported_state _) now
  · have hcand : ({ p with
        reportCount := p.reportCount + 1
        candidate := e.value
        run := ({ p with reportCount := p.reportCount + 1 } : Point).nextRun e.value } : Point).FieldsLawful :=
      ⟨h.confirm, Point.nextRun_le (p := { p with reportCount := p.reportCount + 1 }) h.confirm.1 _,
        h.forced, h.view, h.reported, fun hs => absurd hs hr⟩
    split
    · obtain ⟨hq, hd, hper, hns⟩ := hcand.accept hr e.value now
      exact hq.refresh h hd hper hns (fun _ => Point.accept_reported_state _ _ _) now
    · refine hcand.refresh h rfl rfl hr (fun hl => ?_) now
      have hlive := h.fields.liveEligible_eq hr
      rw [hl] at hlive
      exact beq_iff_eq.mp hlive.symm

/-! ## Ageing, retirement, forcing, new settings -/

/-- R37, R40, R45: ageing leaves a LIVE-eligible record lawful. -/
theorem Point.Lawful.age (h : p.Lawful) (he : p.liveEligible = true) (cause : StaleCause) :
    (p.age cause).Lawful := by
  have hr : p.state ≠ .retiring := by
    intro hs
    rw [Point.liveEligible, hs] at he
    cases he
  have hlive : p.reported.state = .live := by
    have hl := h.fields.liveEligible_eq hr
    rw [he] at hl
    exact beq_iff_eq.mp hl.symm
  have hstale : ({ p.reported with state := .stale, stale := some cause } : Reported).Lawful :=
    ⟨fun hs => (by cases hs),
      fun _ hg => (h.reported hr).good (by rw [hlive]; exact fun hs => by cases hs) hg, rfl⟩
  obtain ⟨hfields, hrep, hns⟩ := h.fields.setReported hr hstale
  have haged : (p.age cause).FieldsLawful :=
    ⟨hfields.confirm, Nat.zero_le _, hfields.forced, hfields.view, hfields.reported, fun _ => rfl⟩
  refine haged.lawful ?_ (fun d hd => by cases hd)
  have hstate : (p.age cause).reported.state = .stale := congrArg Reported.state hrep
  rw [haged.liveEligible_eq hns, hstate]
  rfl

/-- R22: retirement leaves the record lawful. -/
theorem Point.Lawful.retire (h : p.Lawful) : p.retire.Lawful where
  confirm := h.confirm
  run := Nat.zero_le _
  deadline := rfl
  length := fun d hd => by cases hd
  forced := rfl
  view := fun f hf => by cases hf
  reported := fun hs => absurd rfl hs
  retiring := fun _ => rfl

/-- R42: the deadline goes on with the underlying fields. -/
theorem Point.Lawful.force (h : p.Lawful) (hr : p.state ≠ .retiring) (v : Word) : (p.force v).Lawful where
  confirm := h.confirm
  run := h.run
  deadline := by
    show p.deadline.isSome = ((p.reported.state == .live) && p.period != 0)
    rw [h.deadline, h.fields.liveEligible_eq hr]
  length := h.length
  forced := rfl
  view := by
    rintro f ⟨⟩
    exact ⟨rfl, rfl, rfl, rfl⟩
  reported := fun _ => h.reported hr
  retiring := fun hs => by cases hs

/-- R43. -/
theorem Point.Lawful.reforce (h : p.Lawful) (hs : p.state = .forced) (v : Word) : (p.reforce v).Lawful := by
  have hsome := h.forced
  rw [hs] at hsome
  obtain ⟨f, hf⟩ := Option.isSome_iff_exists.mp hsome
  have hq : p.reforce v = { p with forced := some { f with value := v }, value := some v, notified := v } := by
    unfold Point.reforce
    rw [hf]
    rfl
  obtain ⟨-, hgood, hstale, -⟩ := h.view f hf
  have hr : p.state ≠ .retiring := by rw [hs]; exact fun hx => by cases hx
  have hrep := Point.reported_of_forced hf
  rw [hq]
  refine ⟨h.confirm, h.run, ?_, h.length, ?_, ?_, ?_, fun hx => absurd hx hr⟩
  · have hd := h.deadline
    rw [h.fields.liveEligible_eq hr, hrep] at hd
    rw [hd, Point.liveEligible, hs]
    rfl
  · show true = (p.state == .forced)
    rw [hs]
    rfl
  · rintro g ⟨⟩
    exact ⟨rfl, hgood, hstale, rfl⟩
  · intro _
    have hl := h.reported hr
    rw [hrep] at hl
    exact hl

/-- R46: the underlying fields come back with the deadline that ran for them. -/
theorem Point.Lawful.release (h : p.Lawful) (hs : p.state = .forced) : (p.release p.reported).Lawful := by
  have hr : p.state ≠ .retiring := by rw [hs]; exact fun hx => by cases hx
  have hrep : (p.release p.reported).reported = p.reported :=
    Point.reported_of_unforced (p := p.release p.reported) rfl rfl
  have hns : p.reported.state.toPointState ≠ .retiring := by
    cases p.reported.state <;> exact fun hx => by cases hx
  have hfields : (p.release p.reported).FieldsLawful := by
    refine ⟨h.confirm, h.run, ?_, fun f hf => (by cases hf), fun _ => ?_, fun hx => absurd hx hns⟩
    · show false = (p.reported.state.toPointState == .forced)
      cases p.reported.state <;> rfl
    · rw [hrep]
      exact h.reported hr
  refine hfields.lawful ?_ h.length
  show p.deadline.isSome = _
  rw [hfields.liveEligible_eq hns, hrep, h.deadline, h.fields.liveEligible_eq hr]
  rfl

/-- R21, Table 1-7. -/
theorem Point.Lawful.changePeriod (h : p.Lawful) (period : BitVec 16) (now : BitVec 32) :
    (p.changePeriod period now).Lawful := by
  refine ⟨h.confirm, h.run, ?_, ?_, h.forced, h.view, h.reported, h.retiring⟩
  · show (if p.liveEligible then _ else _ : Option Deadline).isSome = (p.liveEligible && period != 0)
    cases he : p.liveEligible with
    | false =>
      have hd := h.deadline
      rw [he] at hd
      simpa using hd
    | true =>
      by_cases hz : period = 0
      · subst hz
        rfl
      · simp only [if_true, if_neg hz, Bool.true_and]
        simpa using hz
  · intro d hd
    change (if p.liveEligible then _ else _ : Option Deadline) = some d at hd
    show d.length = period.toNat
    cases he : p.liveEligible with
    | false =>
      have hnone := h.deadline
      rw [he] at hnone hd
      simp only [Bool.false_eq_true, if_false] at hd
      rw [hd] at hnone
      simp at hnone
    | true =>
      rw [he] at hd
      by_cases hz : period = 0
      · simp [hz] at hd
      · simp only [if_true, hz, if_false, Option.some.injEq] at hd
        rw [← hd]

/-- R20. -/
theorem Point.Lawful.modified (h : p.Lawful) {r : Request} (hr : badConfirm r = false)
    (hs : p.state ≠ .retiring) (now : BitVec 32) : (p.modified r now).Lawful := by
  have hconfirm : ∀ q : Point, q.Lawful → q.state ≠ .retiring →
      (if r.w1.getLsbD 16 then { q with confirm := fieldOf r.w2 0 8, run := 0 } else q : Point).Lawful := by
    intro q hq hqs
    split
    · rename_i hb
      have hrange : 1 ≤ fieldOf r.w2 0 8 ∧ fieldOf r.w2 0 8 ≤ 3 := by
        simp only [badConfirm, hb, Bool.true_and, Bool.or_eq_false_iff, decide_eq_false_iff_not] at hr
        omega
      exact ⟨hrange, Nat.zero_le _, hq.deadline, hq.length, hq.forced, hq.view, hq.reported,
        fun _ => rfl⟩
    · exact hq
  have hdeadband : ∀ q : Point, q.Lawful →
      (if r.w1.getLsbD 17 then { q with deadband := r.w2.extractLsb' 16 16 } else q : Point).Lawful := by
    intro q hq
    split
    · exact ⟨hq.confirm, hq.run, hq.deadline, hq.length, hq.forced, hq.view, hq.reported, hq.retiring⟩
    · exact hq
  have hkey : ∀ q : Point, q.Lawful →
      (if r.w1.getLsbD 19 then { q with key := r.w2.extractLsb' 8 4 } else q : Point).Lawful := by
    intro q hq
    split
    · exact ⟨hq.confirm, hq.run, hq.deadline, hq.length, hq.forced, hq.view, hq.reported, hq.retiring⟩
    · exact hq
  have hall := hkey _ (hdeadband _ (hconfirm p h hs))
  unfold Point.modified
  dsimp only
  split
  · exact hall.changePeriod _ now
  · exact hall

/-- R16: a new record. -/
theorem Point.lawful_new {confirm : Nat} (h : 1 ≤ confirm ∧ confirm ≤ 3) (station : Nat) (number : Byte)
    (key : BitVec 4) (deadband period : BitVec 16) :
    (newPoint station number key confirm deadband period).Lawful where
  confirm := h
  run := Nat.zero_le _
  deadline := rfl
  length := fun d hd => by cases hd
  forced := rfl
  view := fun f hf => by cases hf
  reported := fun _ => ⟨fun _ => ⟨rfl, rfl⟩, fun hs => absurd rfl hs, rfl⟩
  retiring := fun hs => by cases hs

/-! ## Changes of a record in place -/

/-- A change of a point's record in place: it keeps its station, number, bindings and pending command, it is
RETIRING after as before, and it stays lawful. -/
structure Point.Moves (a b : Point) : Prop where
  station : b.station = a.station
  number : b.number = a.number
  bindings : b.bindings = a.bindings
  pendingCmd : b.pendingCmd = a.pendingCmd
  retiring : b.state = .retiring ↔ a.state = .retiring
  lawful : a.Lawful → b.Lawful

theorem Point.setReported_moves (p : Point) (r : Reported) (hr : p.state ≠ .retiring) :
    (p.setReported r).station = p.station ∧ (p.setReported r).number = p.number ∧
      (p.setReported r).bindings = p.bindings ∧ (p.setReported r).pendingCmd = p.pendingCmd ∧
      (p.setReported r).state ≠ .retiring := by
  unfold Point.setReported
  split
  · exact ⟨rfl, rfl, rfl, rfl, hr⟩
  · refine ⟨rfl, rfl, rfl, rfl, ?_⟩
    show r.state.toPointState ≠ .retiring
    cases r.state <;> exact fun hs => by cases hs

theorem Point.refreshDeadline_moves (p : Point) (now : BitVec 32) :
    (p.refreshDeadline now).station = p.station ∧ (p.refreshDeadline now).number = p.number ∧
      (p.refreshDeadline now).bindings = p.bindings ∧
      (p.refreshDeadline now).pendingCmd = p.pendingCmd ∧ (p.refreshDeadline now).state = p.state := by
  unfold Point.refreshDeadline
  split <;> exact ⟨rfl, rfl, rfl, rfl, rfl⟩

theorem Point.accept_moves (p : Point) (v : Word) (now : BitVec 32) (hr : p.state ≠ .retiring) :
    (p.accept v now).1.station = p.station ∧ (p.accept v now).1.number = p.number ∧
      (p.accept v now).1.bindings = p.bindings ∧ (p.accept v now).1.pendingCmd = p.pendingCmd ∧
      (p.accept v now).1.state ≠ .retiring := by
  have hset := p.setReported_moves ⟨.live, some v, .good, none⟩ hr
  unfold Point.accept
  cases p.forced <;> exact hset

theorem Point.takeFault_moves (p : Point) (hr : p.state ≠ .retiring) :
    p.takeFault.1.station = p.station ∧ p.takeFault.1.number = p.number ∧
      p.takeFault.1.bindings = p.bindings ∧ p.takeFault.1.pendingCmd = p.pendingCmd ∧
      p.takeFault.1.state ≠ .retiring := by
  have hset := p.setReported_moves ⟨.live, p.reported.value, .bad, none⟩ hr
  unfold Point.takeFault
  cases p.forced <;> exact hset

theorem Point.Moves.takeEntry (hr : p.state ≠ .retiring) (e : Entry) (now : BitVec 32) :
    p.Moves (p.takeEntry e now).1 := by
  have hmoves : (p.takeEntry e now).1.station = p.station ∧ (p.takeEntry e now).1.number = p.number ∧
      (p.takeEntry e now).1.bindings = p.bindings ∧
      (p.takeEntry e now).1.pendingCmd = p.pendingCmd ∧ (p.takeEntry e now).1.state ≠ .retiring := by
    unfold Point.takeEntry
    dsimp only
    split
    · obtain ⟨h1, h2, h3, h4, h5⟩ := Point.refreshDeadline_moves
        ({ p with reportCount := p.reportCount + 1 } : Point).takeFault.1 now
      obtain ⟨k1, k2, k3, k4, k5⟩ :=
        Point.takeFault_moves { p with reportCount := p.reportCount + 1 } hr
      exact ⟨h1.trans k1, h2.trans k2, h3.trans k3, h4.trans k4, by rw [h5]; exact k5⟩
    split
    · obtain ⟨h1, h2, h3, h4, h5⟩ := Point.refreshDeadline_moves (({ p with
        reportCount := p.reportCount + 1
        candidate := e.value
        run := ({ p with reportCount := p.reportCount + 1 } : Point).nextRun e.value } :
          Point).accept e.value now).1 now
      obtain ⟨k1, k2, k3, k4, k5⟩ := Point.accept_moves ({ p with
        reportCount := p.reportCount + 1
        candidate := e.value
        run := ({ p with reportCount := p.reportCount + 1 } : Point).nextRun e.value } :
          Point) e.value now hr
      exact ⟨h1.trans k1, h2.trans k2, h3.trans k3, h4.trans k4, by rw [h5]; exact k5⟩
    · obtain ⟨h1, h2, h3, h4, h5⟩ := Point.refreshDeadline_moves ({ p with
        reportCount := p.reportCount + 1
        candidate := e.value
        run := ({ p with reportCount := p.reportCount + 1 } : Point).nextRun e.value } : Point) now
      exact ⟨h1, h2, h3, h4, by rw [h5]; exact hr⟩
  obtain ⟨h1, h2, h3, h4, h5⟩ := hmoves
  exact ⟨h1, h2, h3, h4, ⟨fun hs => absurd hs h5, fun hs => absurd hs hr⟩, fun hl => hl.takeEntry hr e now⟩

/-- R21: a LIVE-eligible point is not RETIRING. -/
theorem Point.not_retiring_of_liveEligible (he : p.liveEligible = true) : p.state ≠ .retiring := by
  intro hs
  rw [Point.liveEligible, hs] at he
  cases he

theorem Point.Moves.age (he : p.liveEligible = true) (cause : StaleCause) : p.Moves (p.age cause) := by
  have hr := Point.not_retiring_of_liveEligible he
  obtain ⟨h1, h2, h3, h4, h5⟩ :=
    p.setReported_moves { p.reported with state := .stale, stale := some cause } hr
  exact ⟨h1, h2, h3, h4, ⟨fun hs => absurd hs h5, fun hs => absurd hs hr⟩, fun hl => hl.age he cause⟩

theorem Point.Moves.force (hr : p.state ≠ .retiring) (v : Word) : p.Moves (p.force v) :=
  ⟨rfl, rfl, rfl, rfl, ⟨fun hs => (by cases hs), fun hs => absurd hs hr⟩, fun hl => hl.force hr v⟩

theorem Point.Moves.reforce (hs : p.state = .forced) (v : Word) : p.Moves (p.reforce v) :=
  ⟨rfl, rfl, rfl, rfl, Iff.rfl, fun hl => hl.reforce hs v⟩

theorem Point.Moves.release (hs : p.state = .forced) : p.Moves (p.release p.reported) := by
  refine ⟨rfl, rfl, rfl, rfl, ⟨fun hx => ?_, fun hx => ?_⟩, fun hl => hl.release hs⟩
  · change p.reported.state.toPointState = .retiring at hx
    cases hu : p.reported.state <;> rw [hu] at hx <;> cases hx
  · rw [hs] at hx
    cases hx

theorem Point.Moves.modified {r : Request} (hb : badConfirm r = false) (hr : p.state ≠ .retiring)
    (now : BitVec 32) : p.Moves (p.modified r now) := by
  have hmoves : (p.modified r now).station = p.station ∧ (p.modified r now).number = p.number ∧
      (p.modified r now).bindings = p.bindings ∧ (p.modified r now).pendingCmd = p.pendingCmd ∧
      (p.modified r now).state = p.state := by
    unfold Point.modified Point.changePeriod
    dsimp only
    repeat' split
    all_goals exact ⟨rfl, rfl, rfl, rfl, rfl⟩
  obtain ⟨h1, h2, h3, h4, h5⟩ := hmoves
  exact ⟨h1, h2, h3, h4, by rw [h5], fun hl => hl.modified hb hr now⟩

end

end Sys2Proof.Machine
end


section
/-! The laws that look at neither the windows, the time nor the pins: the shorter list of meanings that keep
such a law (`KeptByCore`), and the parts that the end of an exchange and a departure are made of
(`KeptByParts`). Each law is then a list of the parts that touch the fields it speaks of. -/

namespace Sys2Proof.Machine

/-! ## The core of the machine -/

/-- Two states agree in all but the windows, the time, the pins and the queue of commands. -/
structure State.SameCore (s t : State) : Prop where
  stations : t.stations = s.stations
  pollLists : t.pollLists = s.pollLists
  points : t.points = s.points
  bindings : t.bindings = s.bindings
  mirrorQueue : t.mirrorQueue = s.mirrorQueue
  slots : t.slots = s.slots
  cmdQueues : t.cmdQueues = s.cmdQueues
  tagSets : t.tagSets = s.tagSets
  doneLists : t.doneLists = s.doneLists
  links : t.links = s.links
  mwm : t.mwm = s.mwm

theorem State.SameCore.refl (s : State) : s.SameCore s := by constructor <;> rfl

theorem State.SameCore.of_modifyClient (s : State) (c : ClientId) (f : Client → Client) :
    s.SameCore (s.modifyClient c f) := by constructor <;> rfl

theorem State.SameCore.of_settle (s : State) : s.SameCore (settle s) := by constructor <;> rfl

theorem State.SameCore.of_noteTaking (s : State) (c : ClientId) : s.SameCore (s.noteTaking c) := by
  constructor <;> rfl

theorem State.SameCore.trans {s t u : State} (h : s.SameCore t) (k : t.SameCore u) : s.SameCore u where
  stations := k.stations.trans h.stations
  pollLists := k.pollLists.trans h.pollLists
  points := k.points.trans h.points
  bindings := k.bindings.trans h.bindings
  mirrorQueue := k.mirrorQueue.trans h.mirrorQueue
  slots := k.slots.trans h.slots
  cmdQueues := k.cmdQueues.trans h.cmdQueues
  tagSets := k.tagSets.trans h.tagSets
  doneLists := k.doneLists.trans h.doneLists
  links := k.links.trans h.links
  mwm := k.mwm.trans h.mwm

/-- An update of a window that may pass its message on. -/
theorem State.SameCore.of_settle_modifyClient (s : State) (c : ClientId) (f : Client → Client) :
    s.SameCore (settle (s.modifyClient c f)) :=
  (State.SameCore.of_modifyClient s c f).trans (State.SameCore.of_settle _)

/-- An update of link `l` that leaves its exchange, and whose round position is the old one, a station of
the poll list, or end of round. -/
structure LinkKeeps (s : State) (l : LinkId) (f : Link → Link) : Prop where
  exchange : (f (s.link l)).activity.exchange = (s.link l).activity.exchange
  roundPos : (f (s.link l)).roundPos = (s.link l).roundPos ∨
    ∀ h, (f (s.link l)).roundPos = some h → h ∈ s.pollList l

/-- The arbiter leaves the link in GAP, IDLE or at an open decision point. -/
theorem arbitrate_exchange (s : State) (l : LinkId) (n : Nat) (k : Link) :
    (arbitrate s l n k).activity.exchange = none := by
  rcases arbitrate_outcome s l n k with ⟨h, -⟩ | ⟨h, -⟩ | ⟨h, -⟩ <;> rw [h] <;> rfl

/-- The arbiter leaves the round position, ends the round, or starts one from the head of the list. -/
theorem arbitrate_roundPos (s : State) (l : LinkId) : ∀ (n : Nat) (k : Link),
    (arbitrate s l n k).roundPos = k.roundPos ∨
      ∀ h, (arbitrate s l n k).roundPos = some h → h ∈ s.pollList l := by
  intro n
  induction n with
  | zero =>
    intro k
    unfold arbitrate
    split
    · exact .inl rfl
    split
    · exact .inl rfl
    split
    · exact .inl rfl
    split <;> exact .inr (by simp [Link.endRound])
  | succ n ih =>
    intro k
    unfold arbitrate
    split
    · exact .inl rfl
    split
    · exact .inl rfl
    split
    · exact .inl rfl
    split
    · exact .inr (by simp [Link.endRound])
    dsimp only
    split
    · exact .inr (by simp [Link.endRound])
    · rename_i h more hl
      rcases ih { k.endRound s.now with pollGap := .stopped, roundPos := some h } with hk | hk
      · right
        intro j hj
        rw [hk] at hj
        obtain rfl : h = j := Option.some.inj hj
        rw [hl]
        exact List.mem_cons_self
      · exact .inr hk

theorem beginRound_exchange (s : State) (l : LinkId) (k : Link) :
    (beginRound s l k).activity.exchange = none := by
  unfold beginRound
  split
  · rfl
  · exact arbitrate_exchange s l _ _

/-- R91: a round starts at the head of the poll list, or there is none. -/
theorem beginRound_roundPos (s : State) (l : LinkId) (k : Link) :
    ∀ h, (beginRound s l k).roundPos = some h → h ∈ s.pollList l := by
  intro h
  unfold beginRound
  split
  · simp
  · rename_i j more hl
    rcases arbitrate_roundPos s l roundsAtOnce { k with pollGap := .stopped, roundPos := some j } with
      hk | hk
    · rw [hk, hl]
      rintro ⟨⟩
      exact List.mem_cons_self
    · exact hk h

theorem decideLink_exchange (s : State) (l : LinkId) (k : Link) :
    (decideLink s l k).activity.exchange = none := by
  unfold decideLink
  split
  · exact beginRound_exchange s l k
  · exact arbitrate_exchange s l _ _
  · exact arbitrate_exchange s l _ _

theorem decideLink_roundPos (s : State) (l : LinkId) (k : Link) :
    (decideLink s l k).roundPos = k.roundPos ∨
      ∀ h, (decideLink s l k).roundPos = some h → h ∈ s.pollList l := by
  unfold decideLink
  split
  · exact .inr (beginRound_roundPos s l k)
  · exact arbitrate_roundPos s l _ _
  · exact arbitrate_roundPos s l _ _

/-- A decision point of a link without an exchange in flight. -/
theorem LinkKeeps.of_decideLink {s : State} {l : LinkId} (h : (s.link l).activity.exchange = none) :
    LinkKeeps s l (decideLink s l) where
  exchange := (decideLink_exchange s l _).trans h.symm
  roundPos := decideLink_roundPos s l _

/-- R90: a link's first due station is in its poll list. -/
theorem dueStation_mem {s : State} {l : LinkId} {k : Link} {sid : Nat}
    (h : dueStation s l k = some sid) : sid ∈ s.pollList l := by
  have hm := List.mem_of_find?_eq_some h
  unfold fromPosition at hm
  split at hm
  · simp at hm
  · exact (List.dropWhile_sublist _).subset hm

/-! ## The owners of requests and the meanings that touch the core -/

/-- A condition is kept by the changes of the state that the owners of the requests make. -/
structure KeptByActs (P : State → Prop) : Prop where
  point : ∀ {s h p q}, s.points.find h = some p → p.Moves q → P s →
    P { s with points := s.points.put h q }
  event : ∀ {s} h e, P s → P (pointEvent h e s)
  addStation : ∀ {s l a limit h}, 1 ≤ a.toNat → a.toNat ≤ 126 → 1 ≤ limit → limit ≤ 4 →
    addressHeld s l a = false → s.stations.lowestFree 256 = some h → P s →
    P (placeStation h (newStation (s.link l).running l a limit) s)
  removeStation : ∀ {s h st}, s.stations.find h = some st → st.state ≠ .leaving → st.chain = [] → P s →
    P (removeRecord h st s)
  createPoint : ∀ {s sid st number confirm h} key deadband period, s.stations.find sid = some st →
    st.state ≠ .leaving → pointByNumber s st.chain number.toNat = none → 1 ≤ confirm ∧ confirm ≤ 3 →
    s.points.lowestFree 1024 = some h → P s →
    P (placePoint h (newPoint sid number key confirm deadband period) s)
  retirePoint : ∀ {s h p}, s.points.find h = some p → p.state ≠ .retiring → P s →
    P (retireRecord h p s)
  bind : ∀ {s h p b} c key address trigger, s.points.find h = some p → p.state ≠ .retiring →
    p.bindings.length < 8 → s.bindings.lowestFree 2048 = some b → P s →
    P (placeBinding b (newBinding h c key address trigger) s)
  detach : ∀ {s b r}, s.bindings.find b = some r → r.state = .active ∨ r.state = .suspended →
    r.inFlight = true → P s →
    P ((unqueueBinding b s).modifyBinding b (fun r => { r with state := .detaching, fault := none }))
  unbind : ∀ {s b r}, s.bindings.find b = some r → r.state = .active ∨ r.state = .suspended →
    r.inFlight = false → P s → P (freeBinding b s)
  resume : ∀ {s b r}, s.bindings.find b = some r → r.state = .suspended → P s →
    P (queueBinding b (s.modifyBinding b (fun r => { r with state := .active, fault := none })))
  sendCommand : ∀ {s h p st k} c hostTag value, s.points.find h = some p → p.state ≠ .retiring →
    s.stations.find p.station = some st → st.state = .present → p.pendingCmd = none →
    clientSlots s c < 16 → s.slots.lowestFree 32 = some k → P s →
    P (placeSlot k (newSlot c hostTag h p.station value) st.link s)
  endQueued : ∀ {s h r} result, s.slots.find h = some r → r.state = .queued → P s →
    P (endSlot result s h)
  endAccepted : ∀ {s h r} result, s.slots.find h = some r → r.state = .accepted → P s →
    P (finishSlot h result 0 .abandoned s)
  mark : ∀ {s h r} a, s.slots.find h = some r → r.state = .sent → P s →
    P (s.modifySlot h (fun r => { r with abort := some a }))
  collect : ∀ {s c h rest r}, s.doneList c = h :: rest → s.slots.find h = some r → P s →
    P { s with slots := s.slots.drop h, doneLists := s.doneLists.set c rest }

/-- A law of the core is kept by the owners of the requests, and so by the taking of requests. -/
structure KeptByOwners (P : State → Prop) : Prop extends KeptByActs P where
  core : ∀ {s t}, s.SameCore t → P s → P t

/-- R83, R86: an answer is one to the kind of the exchange. -/
def ExchangeOutcome.Fits (o : ExchangeOutcome) (k : ExchangeKind) : Prop :=
  ∀ r, o = .answered r → ∃ bs, r = replyOf k bs

theorem Receiver.closure_fits {k : ExchangeKind} {rx : Receiver} {o : ExchangeOutcome}
    (h : rx.closure k = some o) : o.Fits k := by
  intro r hr
  subst hr
  unfold Receiver.closure at h
  split at h
  · split at h <;> cases h
  split at h
  · have hclose : closingChecks k rx = .answered r := Option.some.inj h
    unfold closingChecks at hclose
    split at hclose
    · cases hclose
    split at hclose
    · cases hclose
    split at hclose
    · cases hclose
    · cases hclose
      exact ⟨_, rfl⟩
  · cases h

/-- A law of the core is kept: by every command. -/
structure KeptByCore (P : State → Prop) : Prop extends KeptByOwners P where
  link : ∀ {s l f}, LinkKeeps s l f → P s → P (s.modifyLink l f)
  phase : ∀ {s m}, m.phase.transaction = s.mwm.phase.transaction → P s → P { s with mwm := m }
  softReset : ∀ {s}, P s → P (softReset s)
  hardwareReset : ∀ {s}, P s → P (hardwareReset s)
  enable : ∀ {s} l, P s → P (enableLink l s)
  disable : ∀ {s} l, P s → P (disableLink l s)
  visit : ∀ {s l sid st}, (s.link l).activity = .deciding → dueStation s l (s.link l) = some sid →
    s.stations.find sid = some st → P s → P (s.modifyLink l (fun k =>
      { (k.send (visitExchange k sid st)) with
        roundPos := successor (s.pollList l) sid
        burst := 0 }))
  command : ∀ {s l h}, (s.link l).activity = .deciding → s.oldestEligible l = some h → P s →
    P (startCommand l h s)
  ends : ∀ {s l x o}, o.Fits x.kind → (s.link l).activity.exchange = some x → P s →
    P (endExchange l x o s)
  mirrorStart : ∀ {s}, P s → P (mirrorWriteStart s)
  messageStart : ∀ {s}, P s → P (messageWriteStart s)
  endTransaction : ∀ {s t} e, s.mwm.phase.transaction = some t → P s → P (endTransaction t e s)

section

variable {P : State → Prop}

/-- The owners that only answer. -/
theorem queryStation_state (c : ClientId) (r : Request) (s : State) :
    (queryStation c r s).state = s := by
  unfold queryStation
  dsimp only
  repeat' split
  all_goals rfl

theorem lookupPoint_state (c : ClientId) (r : Request) (s : State) : (lookupPoint c r s).state = s := by
  unfold lookupPoint
  repeat' split
  all_goals rfl

theorem findPoint_state (c : ClientId) (r : Request) (s : State) : (findPoint c r s).state = s := by
  unfold findPoint
  dsimp only
  repeat' split
  all_goals rfl

theorem nextPoint_state (c : ClientId) (r : Request) (s : State) : (nextPoint c r s).state = s := by
  unfold nextPoint
  dsimp only
  repeat' split
  all_goals rfl

theorem queryBinding_state (c : ClientId) (r : Request) (s : State) :
    (queryBinding c r s).state = s := by
  unfold queryBinding
  repeat' split
  all_goals rfl

/-- R14: a request with a point key is refused, or acts on its point. -/
theorem withPoint_cases (r : Request) (s : State) (wrong : Point → Bool) (act : Nat → Point → Answer) :
    (withPoint r s wrong act).state = s ∨ ∃ p, r.handle < 1024 ∧ s.points.find r.handle = some p ∧
      wrong p = false ∧ withPoint r s wrong act = act r.handle p := by
  unfold withPoint
  split
  · exact .inl rfl
  rename_i hh
  split
  · exact .inl rfl
  rename_i p hp
  split
  · exact .inl rfl
  split
  · exact .inl rfl
  rename_i hw
  exact .inr ⟨p, Nat.not_le.mp hh, hp, Bool.eq_false_iff.mpr hw, rfl⟩

/-- R6: ADD_STATION is refused, or allocates the lowest FREE station. -/
theorem addStation_cases (c : ClientId) (r : Request) (s : State) :
    (addStation c r s).state = s ∨ ∃ (l : LinkId) (a : Byte) (limit h : Nat), 1 ≤ a.toNat ∧ a.toNat ≤ 126 ∧
      1 ≤ limit ∧ limit ≤ 4 ∧ addressHeld s l a = false ∧ s.stations.lowestFree 256 = some h ∧
      (addStation c r s).state = placeStation h (newStation (s.link l).running l a limit) s := by
  unfold addStation
  dsimp only
  split
  · exact .inl rfl
  rename_i hrange
  split
  · exact .inl rfl
  rename_i hheld
  split
  · exact .inl rfl
  rename_i h hh
  have ha : (BitVec.ofNat 8 (fieldOf r.w1 8 8)).toNat = fieldOf r.w1 8 8 := by
    rw [BitVec.toNat_ofNat]
    omega
  exact .inr ⟨_, _, _, h, by omega, by omega, by omega, by omega, Bool.eq_false_iff.mpr hheld, hh, rfl⟩

/-- R7: REMOVE_STATION is refused, or removes a station without points. -/
theorem removeStation_cases (c : ClientId) (r : Request) (s : State) :
    (removeStation c r s).state = s ∨ ∃ h st, s.stations.find h = some st ∧ st.state ≠ .leaving ∧
      st.chain = [] ∧ (removeStation c r s).state = removeRecord h st s := by
  unfold removeStation
  dsimp only
  split
  · exact .inl rfl
  split
  · exact .inl rfl
  rename_i st hst
  split
  · exact .inl rfl
  rename_i hl
  split
  · exact .inl rfl
  rename_i hc
  refine .inr ⟨_, st, hst, hl, ?_, rfl⟩
  unfold Station.pointCount at hc
  exact List.eq_nil_of_length_eq_zero (by omega)

/-- R16: CREATE_POINT is refused, or allocates the lowest FREE point. -/
theorem createPoint_cases (c : ClientId) (r : Request) (s : State) :
    (createPoint c r s).state = s ∨ ∃ (sid : Nat) (st : Station) (number : Byte) (confirm h : Nat)
      (key : BitVec 4) (deadband period : BitVec 16), s.stations.find sid = some st ∧
      st.state ≠ .leaving ∧ pointByNumber s st.chain number.toNat = none ∧
      (1 ≤ confirm ∧ confirm ≤ 3) ∧ s.points.lowestFree 1024 = some h ∧
      (createPoint c r s).state = placePoint h (newPoint sid number key confirm deadband period) s := by
  unfold createPoint
  dsimp only
  split
  · exact .inl rfl
  rename_i hrange
  split
  · exact .inl rfl
  rename_i st hst
  split
  · exact .inl rfl
  rename_i hl
  split
  · exact .inl rfl
  rename_i hdup
  split
  · exact .inl rfl
  rename_i h hh
  have hn : (BitVec.ofNat 8 (fieldOf r.w1 16 16)).toNat = fieldOf r.w1 16 16 := by
    rw [BitVec.toNat_ofNat]
    omega
  refine .inr ⟨_, st, _, _, h, _, _, _, hst, hl, ?_, by omega, hh, rfl⟩
  rw [hn]
  simpa using hdup

/-- R62: BIND is refused, or allocates the lowest FREE binding. -/
theorem bindPoint_cases (c : ClientId) (r : Request) (s : State) :
    (bindPoint c r s).state = s ∨ ∃ (h b : Nat) (p : Point) (key : BitVec 4) (address : Word)
      (trigger : Trigger), s.points.find h = some p ∧ p.state ≠ .retiring ∧ p.bindings.length < 8 ∧
      s.bindings.lowestFree 2048 = some b ∧
      (bindPoint c r s).state = placeBinding b (newBinding h c key address trigger) s := by
  unfold bindPoint
  split
  · exact .inl rfl
  split
  · exact .inl rfl
  split
  · exact .inl rfl
  rename_i p hp
  split
  · exact .inl rfl
  rename_i hr
  split
  · exact .inl rfl
  rename_i hlimit
  split
  · exact .inl rfl
  rename_i b hb
  exact .inr ⟨_, b, p, _, _, _, hp, hr, Nat.not_le.mp hlimit, hb, rfl⟩

/-- R63, R64: a request on a client's own binding is refused, or acts on its binding. -/
theorem withOwnBinding_cases (c : ClientId) (r : Request) (s : State) (allowed : BindingState → Bool)
    (act : Nat → Binding → Answer) :
    (withOwnBinding c r s allowed act).state = s ∨ ∃ b, s.bindings.find r.handle = some b ∧
      allowed b.state = true ∧ withOwnBinding c r s allowed act = act r.handle b := by
  unfold withOwnBinding
  split
  · exact .inl rfl
  split
  · exact .inl rfl
  rename_i b hb
  split
  · exact .inl rfl
  split
  · rename_i ha
    exact .inr ⟨b, hb, ha, rfl⟩
  · exact .inl rfl

/-- R113: SEND_COMMAND is refused, or allocates the lowest FREE slot. -/
theorem sendCommand_cases (c : ClientId) (r : Request) (s : State) :
    (sendCommand c r s).state = s ∨ ∃ (h k : Nat) (p : Point) (st : Station), s.points.find h = some p ∧
      p.state ≠ .retiring ∧ s.stations.find p.station = some st ∧ st.state = .present ∧
      p.pendingCmd = none ∧ clientSlots s c < 16 ∧ s.slots.lowestFree 32 = some k ∧
      (sendCommand c r s).state = placeSlot k (newSlot c r.hostTag h p.station r.w2) st.link s := by
  unfold sendCommand
  rcases withPoint_cases r s (notCommandable s) _ with heq | ⟨p, -, hp, hw, heq⟩
  · exact .inl heq
  rw [heq]
  simp only [notCommandable, Bool.or_eq_false_iff, Bool.not_eq_false', canCommand] at hw
  obtain ⟨hr, hcan⟩ := hw
  split
  · exact .inl rfl
  rename_i hpend
  split
  · rename_i k l hk hl
    cases hst : s.stations.find p.station with
    | none => simp [hst] at hcan
    | some st =>
      simp only [hst, Bool.and_eq_true, beq_iff_eq] at hcan
      simp only [stationLink, hst, Option.map_some, Option.some.injEq] at hl
      unfold grantedSlot at hk
      split at hk
      · rename_i hcount
        refine .inr ⟨_, k, p, st, hp, by simpa using hr, hst, hcan.1, ?_, hcount, hk, by rw [hl]; rfl⟩
        simpa using hpend
      · cases hk
  · exact .inl rfl

/-- R119: ABORT_COMMAND is refused, or acts on a slot. -/
theorem abortCommand_cases (c : ClientId) (r : Request) (s : State) :
    (abortCommand c r s).state = s ∨ ∃ h k, s.slots.find h = some k ∧
      ((k.state = .queued ∧ (abortCommand c r s).state = endSlot .aborted s h) ∨
        (k.state = .sent ∧
          (abortCommand c r s).state = s.modifySlot h (fun r => { r with abort := some .aborted })) ∨
        (k.state = .accepted ∧ (abortCommand c r s).state = finishSlot h .aborted 0 .abandoned s)) := by
  unfold abortCommand
  split
  · exact .inl rfl
  split
  · exact .inl rfl
  rename_i k hk
  split
  · exact .inl rfl
  unfold abortSlot
  split
  · rename_i hq
    exact .inr ⟨_, k, hk, .inl ⟨hq, rfl⟩⟩
  · rename_i hq
    exact .inr ⟨_, k, hk, .inr (.inl ⟨hq, rfl⟩)⟩
  · rename_i hq
    exact .inr ⟨_, k, hk, .inr (.inr ⟨hq, rfl⟩)⟩
  · exact .inl rfl

/-- R120: COLLECT is refused, or takes the head of the client's done list. -/
theorem collect_cases (c : ClientId) (r : Request) (s : State) :
    (collect c r s).state = s ∨ ∃ h rest k, s.doneList c = h :: rest ∧ s.slots.find h = some k ∧
      (collect c r s).state =
        { s with slots := s.slots.drop h, doneLists := s.doneLists.set c rest } := by
  unfold collect
  split
  · exact .inl rfl
  rename_i h rest hd
  split
  · exact .inl rfl
  rename_i k hk
  exact .inr ⟨h, rest, k, hd, hk, rfl⟩

theorem isRetiring_eq_false {p : Point} (h : isRetiring p = false) : p.state ≠ .retiring := by
  intro hs
  rw [isRetiring, hs] at h
  cases h

theorem KeptByActs.modifyPoint (h : KeptByActs P) {s : State} (c : ClientId) (r : Request) (hs : P s) :
    P (modifyPoint c r s).state := by
  unfold Machine.modifyPoint
  split
  · exact hs
  rename_i hb
  rcases withPoint_cases r s isRetiring (fun h p =>
      okAnswer { s with points := s.points.put h (p.modified r s.now) } 0 0 0) with
    heq | ⟨p, -, hp, hw, heq⟩
  · rw [heq]
    exact hs
  · rw [heq]
    exact h.point hp (Point.Moves.modified (Bool.eq_false_iff.mpr hb) (isRetiring_eq_false hw) s.now) hs

theorem KeptByActs.forcePoint (h : KeptByActs P) {s : State} (c : ClientId) (r : Request) (hs : P s) :
    P (forcePoint c r s).state := by
  unfold Machine.forcePoint
  rcases withPoint_cases r s isRetiring (fun h p =>
      if p.state = .forced then
        okAnswer (pointEvent h .value { s with points := s.points.put h (p.reforce r.w2) }) 0 0 0
      else
        okAnswer (pointEvent h .quality { s with points := s.points.put h (p.force r.w2) }) 0 0 0) with
    heq | ⟨p, -, hp, hw, heq⟩
  · rw [heq]
    exact hs
  · rw [heq]
    split
    · rename_i hf
      exact h.event _ _ (h.point hp (Point.Moves.reforce hf _) hs)
    · exact h.event _ _ (h.point hp (Point.Moves.force (isRetiring_eq_false hw) _) hs)

theorem KeptByActs.releasePoint (h : KeptByActs P) {s : State} (c : ClientId) (r : Request) (hs : P s) :
    P (releasePoint c r s).state := by
  unfold Machine.releasePoint
  rcases withPoint_cases r s notForced (fun h p =>
      okAnswer (pointEvent h .quality { s with points := s.points.put h (p.release p.reported) })
        (place 0 8 p.reported.state.code) 0 0) with heq | ⟨p, -, hp, hw, heq⟩
  · rw [heq]
    exact hs
  · rw [heq]
    have hf : p.state = .forced := by simpa [notForced] using hw
    exact h.event _ _ (h.point hp (Point.Moves.release hf) hs)

/-- R37, R40, R45: the ageing of a point is a change of its record, and then an event or none. -/
theorem agePoint_keeps (hpoint : ∀ {s h p q}, s.points.find h = some p → p.Moves q → P s →
      P { s with points := s.points.put h q })
    (hevent : ∀ {s} h e, P s → P (pointEvent h e s)) {s : State} (cause : StaleCause) (k : Nat)
    (hs : P s) : P (agePoint cause s k) := by
  unfold agePoint
  split
  · exact hs
  · rename_i p hp
    split
    · rename_i he
      have haged := hpoint hp (Point.Moves.age he cause) hs
      dsimp only
      split
      · exact hevent _ _ haged
      · exact haged
    · exact hs

theorem KeptByActs.freshness (h : KeptByActs P) {s : State} (k : Nat) (hs : P s) :
    P (expirePoint k s) := by
  unfold expirePoint
  split
  · exact hs
  · split
    · exact agePoint_keeps h.point h.event _ _ hs
    · exact hs

theorem KeptByActs.ofAddStation (h : KeptByActs P) {s : State} (c : ClientId) (r : Request) (hs : P s) :
    P (Machine.addStation c r s).state := by
  rcases addStation_cases c r s with heq | ⟨l, a, limit, k, ha, ha', hl, hl', hheld, hk, heq⟩ <;> rw [heq]
  · exact hs
  · exact h.addStation ha ha' hl hl' hheld hk hs

theorem KeptByActs.ofRemoveStation (h : KeptByActs P) {s : State} (c : ClientId) (r : Request)
    (hs : P s) : P (Machine.removeStation c r s).state := by
  rcases removeStation_cases c r s with heq | ⟨k, st, hst, hl, hc, heq⟩ <;> rw [heq]
  · exact hs
  · exact h.removeStation hst hl hc hs

theorem KeptByActs.ofCreatePoint (h : KeptByActs P) {s : State} (c : ClientId) (r : Request) (hs : P s) :
    P (Machine.createPoint c r s).state := by
  rcases createPoint_cases c r s with
    heq | ⟨sid, st, number, confirm, k, key, deadband, period, hst, hl, hdup, hc, hk, heq⟩ <;> rw [heq]
  · exact hs
  · exact h.createPoint key deadband period hst hl hdup hc hk hs

theorem KeptByActs.ofRetirePoint (h : KeptByActs P) {s : State} (c : ClientId) (r : Request) (hs : P s) :
    P (Machine.retirePoint c r s).state := by
  unfold Machine.retirePoint
  rcases withPoint_cases r s isRetiring _ with heq | ⟨p, -, hp, hw, heq⟩ <;> rw [heq]
  · exact hs
  · exact h.retirePoint hp (isRetiring_eq_false hw) hs

theorem KeptByActs.ofBind (h : KeptByActs P) {s : State} (c : ClientId) (r : Request) (hs : P s) :
    P (bindPoint c r s).state := by
  rcases bindPoint_cases c r s with
    heq | ⟨k, b, p, key, address, trigger, hp, hr, hl, hb, heq⟩ <;> rw [heq]
  · exact hs
  · exact h.bind c key address trigger hp hr hl hb hs

theorem KeptByActs.ofUnbind (h : KeptByActs P) {s : State} (c : ClientId) (r : Request) (hs : P s) :
    P (unbindPoint c r s).state := by
  unfold unbindPoint
  rcases withOwnBinding_cases c r s unbindable _ with heq | ⟨b, hb, ha, heq⟩ <;> rw [heq]
  · exact hs
  have hstate : b.state = .active ∨ b.state = .suspended := by
    cases hx : b.state <;> simp [unbindable, hx] at ha <;> simp
  split
  · rename_i hf
    exact h.detach hb hstate hf hs
  · rename_i hf
    exact h.unbind hb hstate (Bool.eq_false_iff.mpr hf) hs

theorem KeptByActs.ofResume (h : KeptByActs P) {s : State} (c : ClientId) (r : Request) (hs : P s) :
    P (resumeBinding c r s).state := by
  unfold resumeBinding
  rcases withOwnBinding_cases c r s resumable _ with heq | ⟨b, hb, ha, heq⟩ <;> rw [heq]
  · exact hs
  · exact h.resume hb ((resumable_iff _).mp ha) hs

theorem KeptByActs.ofSendCommand (h : KeptByActs P) {s : State} (c : ClientId) (r : Request) (hs : P s) :
    P (Machine.sendCommand c r s).state := by
  rcases sendCommand_cases c r s with
    heq | ⟨k, j, p, st, hp, hr, hst, hpres, hpend, hcount, hj, heq⟩ <;> rw [heq]
  · exact hs
  · exact h.sendCommand c r.hostTag r.w2 hp hr hst hpres hpend hcount hj hs

theorem KeptByActs.ofAbort (h : KeptByActs P) {s : State} (c : ClientId) (r : Request) (hs : P s) :
    P (abortCommand c r s).state := by
  rcases abortCommand_cases c r s with
    heq | ⟨k, q, hq, ⟨hstate, heq⟩ | ⟨hstate, heq⟩ | ⟨hstate, heq⟩⟩ <;> rw [heq]
  · exact hs
  · exact h.endQueued _ hq hstate hs
  · exact h.mark _ hq hstate hs
  · exact h.endAccepted _ hq hstate hs

theorem KeptByActs.ofCollect (h : KeptByActs P) {s : State} (c : ClientId) (r : Request) (hs : P s) :
    P (Machine.collect c r s).state := by
  rcases collect_cases c r s with heq | ⟨k, rest, q, hd, hq, heq⟩ <;> rw [heq]
  · exact hs
  · exact h.collect hd hq hs

/-- R116: the expiry of a completion deadline ends an ACCEPTED slot. -/
theorem KeptByOwners.completion (h : KeptByOwners P) {s : State} (k : Nat) (hs : P s) :
    P (expireSlot k s) := by
  unfold expireSlot
  split
  · exact hs
  rename_i r hr
  split
  · rename_i hx
    exact h.core (State.SameCore.of_settle _) (h.endAccepted _ hr hx.1 hs)
  · exact hs

theorem KeptByActs.owner (h : KeptByActs P) {f : ClientId → Request → State → Answer}
    (hf : f ∈ requestOwners) (c : ClientId) (r : Request) {s : State} (hs : P s) : P (f c r s).state := by
  simp only [requestOwners, List.mem_cons, List.not_mem_nil, or_false] at hf
  rcases hf with rfl | rfl | rfl | rfl | rfl | rfl | rfl | rfl | rfl | rfl | rfl | rfl | rfl | rfl | rfl |
    rfl | rfl | rfl | rfl
  · exact h.ofAddStation c r hs
  · exact h.ofRemoveStation c r hs
  · rw [queryStation_state]; exact hs
  · exact h.ofCreatePoint c r hs
  · rw [lookupPoint_state]; exact hs
  · rw [findPoint_state]; exact hs
  · rw [nextPoint_state]; exact hs
  · exact h.modifyPoint c r hs
  · exact h.ofRetirePoint c r hs
  · exact h.forcePoint c r hs
  · exact h.releasePoint c r hs
  · exact h.ofBind c r hs
  · exact h.ofUnbind c r hs
  · exact h.ofResume c r hs
  · rw [queryBinding_state]; exact hs
  · exact h.ofSendCommand c r hs
  · exact h.ofAbort c r hs
  · exact h.ofCollect c r hs
  · exact hs

/-- The taking of a request is the owner's act, but for the windows. -/
theorem KeptByOwners.take (h : KeptByOwners P) {f : ClientId → Request → State → Answer}
    (hf : f ∈ requestOwners) (c : ClientId) (isKind : Nat → Bool) {s : State} (hs : P s) :
    P (takeRequest c isKind f s) := by
  unfold takeRequest
  split
  · exact hs
  · rename_i r rest _
    split
    · have howner := h.owner hf c r
        (h.core (State.SameCore.of_modifyClient s c (fun k => { k with requests := rest })) hs)
      exact h.core (((State.SameCore.of_modifyClient _ c _).trans
        (State.SameCore.of_noteTaking _ c)).trans (State.SameCore.of_settle _)) howner
    · exact hs

theorem KeptByCore.decision (h : KeptByCore P) {s : State} {l : LinkId}
    (hx : (s.link l).activity.exchange = none) (hs : P s) : P (decisionPoint l s) :=
  h.link (LinkKeeps.of_decideLink hx) hs

/-- An update of a link that leaves its activity's exchange and its round position. -/
theorem LinkKeeps.of_same {s : State} {l : LinkId} {f : Link → Link}
    (hx : (f (s.link l)).activity.exchange = (s.link l).activity.exchange)
    (hp : (f (s.link l)).roundPos = (s.link l).roundPos) : LinkKeeps s l f := ⟨hx, .inl hp⟩

theorem KeptByCore.visitStart (h : KeptByCore P) {s : State} (l : LinkId) (hs : P s) :
    P (visitStart l s) := by
  unfold Machine.visitStart
  dsimp only
  split
  · rename_i hd
    have hx : (s.link l).activity.exchange = none := by rw [hd]; rfl
    split
    · split
      · exact h.decision hx hs
      · rename_i sid hsid
        split
        · exact hs
        · rename_i st hst
          exact h.visit hd hsid hst hs
    · exact h.decision hx hs
  · exact hs

theorem KeptByCore.commandStart (h : KeptByCore P) {s : State} (l : LinkId) (hs : P s) :
    P (commandExchangeStart l s) := by
  unfold commandExchangeStart
  dsimp only
  split
  · rename_i hd
    have hx : (s.link l).activity.exchange = none := by rw [hd]; rfl
    split
    · split
      · rename_i k hk
        exact h.command hd hk hs
      · exact h.decision hx hs
    · exact h.decision hx hs
  · exact hs

theorem KeptByCore.frameSent (h : KeptByCore P) {s : State} (l : LinkId) (hs : P s) :
    P (frameSent l s) := by
  unfold Machine.frameSent
  split
  · rename_i x hx
    exact h.link (.of_same (by rw [hx]; rfl) rfl) hs
  · exact hs

theorem KeptByCore.response (h : KeptByCore P) {s : State} (l : LinkId) (hs : P s) :
    P (responseExpiry l s) := by
  unfold responseExpiry
  split
  · rename_i x d hx
    exact h.ends (fun _ hr => by cases hr) (by rw [hx]; rfl) hs
  · exact hs

theorem KeptByCore.gapExpiry (h : KeptByCore P) {s : State} (l : LinkId) (hs : P s) :
    P (gapExpiry l s) := by
  unfold Machine.gapExpiry
  split
  · rename_i x rx hx
    split
    · exact h.ends (fun _ hr => by cases hr) (by rw [hx]; rfl) hs
    · exact hs
  · exact hs

/-- A character in AWAITING or RECEIVING leaves the exchange, and may then end it. -/
theorem KeptByCore.receive (h : KeptByCore P) {s : State} {l : LinkId} {x : Exchange}
    (hx : (s.link l).activity.exchange = some x) (rx : Receiver) (data : Byte) (mark stop : Bool)
    (hs : P s) : P (receiveCharacter l x rx data mark stop s) := by
  have htaken : P (s.modifyLink l (fun k =>
      { k with activity := .receiving x (rx.take x data mark stop), inCharacter := false })) :=
    h.link (.of_same hx.symm rfl) hs
  unfold receiveCharacter
  dsimp only
  split
  · rename_i o ho
    refine h.ends (Receiver.closure_fits ho) ?_ htaken
    rw [State.link_modifyLink_same]
    rfl
  · exact htaken

theorem KeptByCore.character (h : KeptByCore P) {s : State} (l : LinkId) (data : Byte)
    (mark stop : Bool) (hs : P s) : P (characterReceived l data mark stop s) := by
  unfold characterReceived
  split
  · exact hs
  · exact hs
  · rename_i x d hx
    exact h.receive (by rw [hx]; rfl) _ data mark stop hs
  · rename_i x rx hx
    exact h.receive (by rw [hx]; rfl) _ data mark stop hs
  · exact h.link (.of_same rfl rfl) hs

theorem KeptByCore.startBit (h : KeptByCore P) {s : State} (l : LinkId) (a b : Bool) (hs : P s) :
    P (startBit l a b s) := by
  unfold Machine.startBit
  dsimp only
  split
  · exact hs
  split
  · exact hs
  · exact hs
  · rename_i x d hx
    split
    · exact h.link (.of_same (by rw [hx]; rfl) rfl) hs
    split
    · exact h.response l hs
    · exact hs
  · rename_i x rx hx
    split
    · exact h.link (.of_same (by rw [hx]; rfl) rfl) hs
    · exact hs
  · split
    · exact h.link (.of_same rfl rfl) hs
    · exact hs

theorem KeptByCore.quiet (h : KeptByCore P) {s : State} (l : LinkId) (hs : P s) :
    P (quietExpiry l s) := by
  unfold quietExpiry
  split
  · rename_i d hx
    exact h.decision (by rw [hx]; rfl) hs
  · exact hs

/-- Outside an exchange and QUIET a link holds no exchange. -/
theorem Activity.exchange_of_not_busy {a : Activity} (h : a.busy = false) : a.exchange = none := by
  cases a <;> first | rfl | cases h

theorem KeptByCore.pollGapExpiry (h : KeptByCore P) {s : State} (l : LinkId) (hs : P s) :
    P (pollGapExpiry l s) := by
  unfold Machine.pollGapExpiry
  split
  · split
    · have hexp : P (s.modifyLink l (fun k => { k with pollGap := .expired })) :=
        h.link (.of_same rfl rfl) hs
      dsimp only
      split
      · exact hexp
      · rename_i hb
        refine h.decision ?_ hexp
        rw [State.link_modifyLink_same]
        exact Activity.exchange_of_not_busy (Bool.eq_false_iff.mpr hb)
    · exact hs
  · exact hs
  · exact hs

theorem KeptByCore.flag (h : KeptByCore P) {s : State} (l : LinkId) (f : LinkFlag) (hs : P s) :
    P (setLinkFlag l f s) := h.link (.of_same rfl rfl) hs

theorem KeptByCore.settled (h : KeptByCore P) {s : State} (hs : P s) : P (settle s) :=
  h.core (State.SameCore.of_settle s) hs

theorem KeptByCore.rate (h : KeptByCore P) {s : State} (l : LinkId) (v : Word) (hs : P s) :
    P (rateWrite l v s) := by
  unfold rateWrite
  dsimp only
  split
  · exact h.settled (h.flag l _ hs)
  · exact h.link (.of_same rfl rfl) hs

/-- A phase with the same transaction. -/
theorem KeptByCore.busGrant (h : KeptByCore P) {s : State} (hs : P s) : P (busGrant s) := by
  have hpin : P { s with bgnt := true } := h.core (by constructor <;> rfl) hs
  unfold Machine.busGrant
  split
  · exact hs
  dsimp only
  split
  · rename_i t ht
    exact h.phase (s := { s with bgnt := true }) (by show some t = s.mwm.phase.transaction; rw [ht]; rfl)
      hpin
  · exact hpin

theorem KeptByCore.busAccept (h : KeptByCore P) {s : State} (hs : P s) : P (busAccept s) := by
  unfold Machine.busAccept
  split
  · rename_i t ht
    exact h.phase (by show some t = s.mwm.phase.transaction; rw [ht]; rfl) hs
  · exact hs

theorem KeptByCore.busEnd (h : KeptByCore P) {s : State} (a : Bool) (e : EndStatus) (hs : P s) :
    P (busEnd a e s) := by
  unfold Machine.busEnd
  split
  · rename_i t ht
    exact h.endTransaction _ (by rw [ht]; rfl) hs
  · rename_i t ht
    split
    · exact h.endTransaction _ (by rw [ht]; rfl) hs
    · exact hs
  · exact hs
  · exact hs

theorem KeptByCore.busTimeout (h : KeptByCore P) {s : State} (hs : P s) : P (busTimeout s) := by
  unfold Machine.busTimeout
  split
  · rename_i t ht
    exact h.endTransaction _ ht hs
  · exact hs

theorem submitWrite_sameCore (s : State) (c : ClientId) (v : Word) :
    s.SameCore (submitWrite c v s) := by
  unfold submitWrite
  split
  · exact State.SameCore.of_modifyClient s c _
  · exact State.SameCore.of_settle_modifyClient s c _

theorem respRead_sameCore (s : State) (c : ClientId) (i : Fin 4) : s.SameCore (respRead c i s) := by
  have hread : s.SameCore { s with readData := respWord (s.client c) i } := by constructor <;> rfl
  unfold respRead
  dsimp only
  split
  · exact hread.trans (State.SameCore.of_settle_modifyClient _ c _)
  · exact hread

theorem popWrite_sameCore (s : State) (c : ClientId) : s.SameCore (popWrite c s) := by
  unfold popWrite
  split
  · exact State.SameCore.of_settle_modifyClient s c _
  · exact State.SameCore.of_modifyClient s c _

theorem causeRead_sameCore (s : State) (c : ClientId) : s.SameCore (causeRead c s) := by
  have hread : s.SameCore { s with readData := s.causeWord c } := by constructor <;> rfl
  unfold causeRead
  dsimp only
  split
  · exact hread.trans (State.SameCore.of_settle_modifyClient _ c _)
  · exact hread

theorem resetNRelease_sameCore (s : State) : s.SameCore (resetNRelease s) := by
  unfold resetNRelease
  split
  · exact State.SameCore.refl s
  · constructor <;> rfl

/-- A law of the core that the listed meanings keep is kept by all of them. -/
theorem KeptByCore.meanings (h : KeptByCore P) : Meanings (fun s t => P s → P t) where
  idle := fun _ hs => hs
  take := fun _ c isKind _ hf hs => h.take hf c isKind hs
  submit := fun s c v hs => h.core (submitWrite_sameCore s c v) hs
  respRead := fun s c i hs => h.core (respRead_sameCore s c i) hs
  pop := fun s c hs => h.core (popWrite_sameCore s c) hs
  causeRead := fun s c hs => h.core (causeRead_sameCore s c) hs
  lowRead := fun _ hs => h.core (by constructor <;> rfl) hs
  causeWrite := fun s c _ hs => h.core (State.SameCore.of_modifyClient s c _) hs
  causeMask := fun s c _ hs => h.core (State.SameCore.of_settle_modifyClient s c _) hs
  linkWatch := fun s c _ hs => h.core (State.SameCore.of_settle_modifyClient s c _) hs
  irqMode := fun s c _ hs => h.core (State.SameCore.of_settle_modifyClient s c _) hs
  msgAddr := fun s c _ hs => h.core (State.SameCore.of_settle_modifyClient s c _) hs
  msgData := fun s c _ hs => h.core (State.SameCore.of_settle_modifyClient s c _) hs
  msgKey := fun s c _ hs => h.core (State.SameCore.of_settle_modifyClient s c _) hs
  clientReset := fun s c hs => h.core (State.SameCore.of_settle_modifyClient s c _) hs
  stage := fun s c _ _ hs => h.core (State.SameCore.of_modifyClient s c _) hs
  softReset := fun _ hs => h.softReset hs
  hardwareReset := fun _ hs => h.hardwareReset hs
  release := fun s hs => h.core (resetNRelease_sameCore s) hs
  tick := fun _ hs => h.core (by constructor <;> rfl) hs
  enable := fun _ l hs => h.enable l hs
  disable := fun _ l hs => h.disable l hs
  rate := fun _ l v hs => h.rate l v hs
  timing := fun _ _ _ hs => h.link (.of_same rfl rfl) hs
  poll := fun _ _ _ hs => h.link (.of_same rfl rfl) hs
  status := fun _ _ _ hs => h.link (.of_same rfl rfl) hs
  mask := fun _ _ _ hs => h.settled (h.link (.of_same rfl rfl) hs)
  busConfig := fun _ _ hs => h.phase rfl hs
  freshness := fun _ k hs => h.freshness k hs
  completion := fun _ k hs => h.completion k hs
  visit := fun _ l hs => h.visitStart l hs
  command := fun _ l hs => h.commandStart l hs
  frameSent := fun _ l hs => h.frameSent l hs
  response := fun _ l hs => h.response l hs
  character := fun _ l data mark stop hs => h.character l data mark stop hs
  gap := fun _ l hs => h.gapExpiry l hs
  quiet := fun _ l hs => h.quiet l hs
  pollGap := fun _ l hs => h.pollGapExpiry l hs
  startBit := fun _ l a b hs => h.startBit l a b hs
  mirrorStart := fun _ hs => h.mirrorStart hs
  messageStart := fun _ hs => h.messageStart hs
  grant := fun _ hs => h.busGrant hs
  ungrant := fun _ hs => h.core (by constructor <;> rfl) hs
  accept := fun _ hs => h.busAccept hs
  busEnd := fun _ a e hs => h.busEnd a e hs
  busTimeout := fun _ hs => h.busTimeout hs

/-- A law of the core that the listed meanings keep is kept by every step. -/
theorem KeptByCore.step (h : KeptByCore P) {s t : State} (hs : P s) (ht : Machine.step s = .next t) :
    P t :=
  h.meanings.keeps (fun _ _ hp => h.core (by constructor <;> rfl) hp) hs ht

end

end Sys2Proof.Machine
end


section
/-! What the end of an exchange and a departure are made of (R95 to R102, R121), for the laws of the core: a
law that each part keeps is kept by the whole. -/

namespace Sys2Proof.Machine

/-! ## The moves of a station's state -/

/-- A station moves between JOINING, PRESENT and SILENT: it keeps its link, address and chain, and its record
stays lawful. -/
structure Station.Moves (a b : Station) : Prop where
  link : b.link = a.link
  address : b.address = a.address
  chain : b.chain = a.chain
  leaving : b.state = .leaving ↔ a.state = .leaving
  lawful : a.Lawful → b.Lawful

/-- R96. -/
def Station.identified (typeCode : BitVec 16) (capacity : Nat) (st : Station) : Station :=
  { st with
    typeCode := some typeCode
    miss := 0
    state := .present
    capacity := min capacity st.limit
    staleCause := none }

theorem identAnswer_eq (sid : Nat) (l : LinkId) (typeCode : BitVec 16) (capacity : Nat) (s : State) :
    identAnswer sid l typeCode capacity s =
      setLinkFlag l .stationPresent (s.modifyStation sid (Station.identified typeCode capacity)) := rfl

theorem Station.Moves.identified {st : Station} (h : st.state ≠ .leaving) (typeCode : BitVec 16)
    (capacity : Nat) : st.Moves (st.identified typeCode capacity) where
  link := rfl
  address := rfl
  chain := rfl
  leaving := ⟨fun hs => (by cases hs), fun hs => absurd hs h⟩
  lawful := fun hl =>
    { limit := hl.limit
      address := hl.address
      capacity := Nat.min_le_right _ _
      absent := fun hs => absurd rfl hs
      stale := rfl
      miss := Nat.zero_le _
      leaving := fun hs => by cases hs }

/-- R97, R99: a new miss count of four bits. -/
theorem Station.Moves.miss {m : Nat} (hm : m ≤ 15) (st : Station) : st.Moves { st with miss := m } where
  link := rfl
  address := rfl
  chain := rfl
  leaving := Iff.rfl
  lawful := fun hl => { hl with miss := hm }

theorem Station.Moves.restart {st : Station} (h : st.state ≠ .leaving) : st.Moves st.restart where
  link := rfl
  address := rfl
  chain := rfl
  leaving := ⟨fun hs => (by cases hs), fun hs => absurd hs h⟩
  lawful := fun hl =>
    { limit := hl.limit
      address := hl.address
      capacity := Nat.zero_le _
      absent := fun _ => rfl
      stale := rfl
      miss := Nat.zero_le _
      leaving := fun hs => by cases hs }

theorem Station.Moves.fallSilent {st : Station} (h : st.state = .joining ∨ st.state = .present)
    (cause : StaleCause) : st.Moves (st.fallSilent cause) where
  link := rfl
  address := rfl
  chain := rfl
  leaving := ⟨fun hs => (by cases hs), fun hs => by rcases h with h | h <;> rw [h] at hs <;> cases hs⟩
  lawful := fun hl =>
    { limit := hl.limit
      address := hl.address
      capacity := Nat.zero_le _
      absent := fun _ => rfl
      stale := rfl
      miss := hl.miss
      leaving := fun hs => by cases hs }

theorem Station.Moves.rejoin (st : Station) : st.Moves st.rejoin := by
  unfold Station.rejoin
  split
  · rename_i h
    exact
      { link := rfl
        address := rfl
        chain := rfl
        leaving := ⟨fun hs => by (cases hs), fun hs => by rw [h] at hs; cases hs⟩
        lawful := fun hl =>
          { limit := hl.limit
            address := hl.address
            capacity := hl.capacity
            absent := fun _ => hl.absent (by rw [h]; exact fun hs => by cases hs)
            stale := rfl
            miss := Nat.zero_le _
            leaving := fun hs => by cases hs } }
  · exact ⟨rfl, rfl, rfl, Iff.rfl, id⟩

/-! ## The stations after a command's end -/

/-- R12: a point that leaves a chain leaves the rest of its station's record. -/
theorem testFree_station {s : State} {sid : Nat} {st : Station} (h : Nat)
    (hst : s.stations.find sid = some st) :
    ∃ chain, (testFree h s).stations.find sid = some { st with chain := chain } := by
  unfold testFree
  split
  · exact ⟨st.chain, hst⟩
  · rename_i p hp
    split
    · show ∃ chain, (s.stations.modify p.station _).find sid = _
      rw [Table.find_modify]
      split
      · rename_i hsid
        subst hsid
        rw [hst]
        exact ⟨_, rfl⟩
      · exact ⟨st.chain, hst⟩
    · exact ⟨st.chain, hst⟩

theorem finishSlot_station {s : State} {sid : Nat} {st : Station} (h : Nat) (result : CommandResult)
    (code : Byte) (fate : TagFate) (hst : s.stations.find sid = some st) :
    ∃ chain, (finishSlot h result code fate s).stations.find sid = some { st with chain := chain } := by
  cases hr : s.slots.find h with
  | none => rw [finishSlot_free hr]; exact ⟨st.chain, hst⟩
  | some r =>
    rw [finishSlot_eq hr]
    exact testFree_station _ hst

theorem commandAnswer_station {s : State} {sid : Nat} {st : Station} (h : Nat) (o : ExchangeOutcome)
    (hst : s.stations.find sid = some st) :
    ∃ chain, (commandAnswer h o s).stations.find sid = some { st with chain := chain } := by
  unfold commandAnswer
  repeat' split
  all_goals first
    | exact finishSlot_station _ _ _ _ hst
    | exact ⟨st.chain, hst⟩

theorem slotOutcome_station {s : State} {sid : Nat} {st : Station} (k : ExchangeKind)
    (o : ExchangeOutcome) (hst : s.stations.find sid = some st) :
    ∃ chain, (slotOutcome k o s).stations.find sid = some { st with chain := chain } := by
  cases k with
  | poll => exact ⟨st.chain, hst⟩
  | identReq => exact ⟨st.chain, hst⟩
  | command h tag => exact commandAnswer_station h o hst

/-! ## The slots of a departure -/

/-- R121: a slot that a departure ends. -/
def Slot.waits (r : Slot) : Prop := r.state = .queued ∨ r.state = .accepted

theorem mem_waitingSlots {s : State} {sid h : Nat} : h ∈ s.waitingSlots sid ↔
    h < 32 ∧ ∃ r, s.slots.find h = some r ∧ r.station = sid ∧ r.waits := by
  unfold State.waitingSlots Slot.waits
  rw [List.mem_filter, List.mem_range]
  refine and_congr Iff.rfl ?_
  cases s.slots.find h with
  | none => simp
  | some r => simp

theorem waitingSlots_nodup (s : State) (sid : Nat) : (s.waitingSlots sid).Nodup :=
  List.nodup_range.filter _

/-- R112: another slot's end leaves a slot. -/
theorem endSlot_find_ne {s : State} {h k : Nat} (hk : k ≠ h) (result : CommandResult) :
    (endSlot result s h).slots.find k = s.slots.find k := by
  unfold endSlot
  cases hr : (dequeue h s).slots.find h with
  | none => rw [finishSlot_free hr]; rfl
  | some r =>
    rw [finishSlot_slots hr, Table.find_put_ne _ _ hk]
    rfl

/-! ## The parts -/

/-- A law is kept by each part of a REPORT: its flags, entries and completions. -/
structure KeptByReports (P : State → Prop) : Prop where
  flag : ∀ {s} l f, P s → P (setLinkFlag l f s)
  complete : ∀ {s h r} result code, s.slots.find h = some r → r.state = .accepted → P s →
    P (finishSlot h result code .freed s)
  freeTag : ∀ {s} sid tag, (s.tagSet sid).find tag = some .abandoned → P s → P (freeTag sid tag s)
  point : ∀ {s h p q}, s.points.find h = some p → p.Moves q → P s →
    P { s with points := s.points.put h q }
  event : ∀ {s} h e, P s → P (pointEvent h e s)

/-- A law is kept by each part of an exchange's end and of a departure. -/
structure KeptByParts (P : State → Prop) : Prop extends KeptByReports P where
  endSlot : ∀ {s h r} result, s.slots.find h = some r → r.waits → P s → P (endSlot result s h)
  freeAllTags : ∀ {s} sid, P s → P (freeAllTags sid s)
  station : ∀ {s sid st f}, s.stations.find sid = some st → st.Moves (f st) → P s →
    P (s.modifyStation sid f)
  leave : ∀ {s sid st}, s.stations.find sid = some st → st.state = .leaving → P s →
    P (freeStation sid s)

section

variable {P : State → Prop}

/-- R121: the slots of a departure end one after the other. -/
theorem endSlots_keeps (hend : ∀ {s h r} result, s.slots.find h = some r → r.waits → P s →
      P (endSlot result s h)) (result : CommandResult) (xs : List Nat) :
    ∀ {s : State}, xs.Nodup → (∀ x ∈ xs, ∃ r, s.slots.find x = some r ∧ r.waits) → P s →
      P (xs.foldl (Machine.endSlot result) s) := by
  induction xs with
  | nil => exact fun _ _ hs => hs
  | cons x xs ih =>
    intro s hnd hw hs
    obtain ⟨hx, hxs⟩ := List.nodup_cons.mp hnd
    obtain ⟨r, hr, hrw⟩ := hw x List.mem_cons_self
    refine ih hxs ?_ (hend result hr hrw hs)
    intro y hy
    obtain ⟨q, hq, hqw⟩ := hw y (List.mem_cons_of_mem _ hy)
    have hne : y ≠ x := fun hyx => hx (hyx ▸ hy)
    exact ⟨q, by rw [endSlot_find_ne hne]; exact hq, hqw⟩

/-- R121: every slot that a departure ends waits before it. -/
theorem endWaitingSlots_keeps (hend : ∀ {s h r} result, s.slots.find h = some r → r.waits → P s →
      P (endSlot result s h)) {s : State} (sid : Nat) (result : CommandResult) (hs : P s) :
    P ((s.waitingSlots sid).foldl (Machine.endSlot result) s) := by
  refine endSlots_keeps hend result _ (waitingSlots_nodup s sid) (fun x hx => ?_) hs
  obtain ⟨-, r, hr, -, hw⟩ := mem_waitingSlots.mp hx
  exact ⟨r, hr, hw⟩

theorem KeptByParts.endStationCommands (h : KeptByParts P) {s : State} (sid : Nat)
    (result : CommandResult) (hs : P s) : P (endStationCommands sid result s) :=
  h.freeAllTags sid (endWaitingSlots_keeps (fun result hr hw hp => h.endSlot result hr hw hp) sid result hs)

theorem KeptByReports.completion (h : KeptByReports P) {s : State} (sid : Nat) (l : LinkId)
    (c : Completion) (hs : P s) : P (takeCompletion sid l s c) := by
  unfold takeCompletion
  split
  · exact h.flag _ _ hs
  · exact h.flag _ _ (h.freeTag _ _ ‹_› hs)
  · split
    · exact hs
    · rename_i r hr
      split
      · rename_i ha
        split
        · exact h.complete _ _ hr ha hs
        · exact h.complete _ _ hr ha hs
      · exact hs

theorem KeptByReports.completions (h : KeptByReports P) {s : State} (sid : Nat) (l : LinkId)
    (cs : List Completion) (hs : P s) : P (takeCompletions sid l cs s) :=
  foldl_invariant P _ (fun _ c hp => h.completion sid l c hp) cs s hs

theorem KeptByReports.entry (h : KeptByReports P) {s : State} (sid : Nat) (e : Entry) (hs : P s) :
    P (takeEntryAt sid s e) := by
  unfold takeEntryAt
  split
  · exact hs
  split
  · exact hs
  split
  · exact hs
  rename_i p hp
  split
  · exact hs
  rename_i hr
  have htaken := h.point hp (Point.Moves.takeEntry hr e s.now) hs
  dsimp only
  unfold announce
  split
  · exact h.event _ _ htaken
  · exact htaken

theorem KeptByReports.entries (h : KeptByReports P) {s : State} (sid : Nat) (es : List Entry)
    (hs : P s) : P (takeEntries sid es s) :=
  foldl_invariant P _ (fun _ e hp => h.entry sid e hp) es s hs

theorem KeptByReports.agePoints (h : KeptByReports P) {s : State} (sid : Nat) (cause : StaleCause)
    (hs : P s) : P (agePoints sid cause s) := by
  unfold Machine.agePoints
  split
  · exact hs
  · exact foldl_invariant P _ (fun _ k hp => agePoint_keeps h.point h.event cause k hp) _ s hs

theorem KeptByParts.silence (h : KeptByParts P) {s : State} {sid : Nat} {st : Station} (l : LinkId)
    (hst : s.stations.find sid = some st) (hj : st.state = .joining ∨ st.state = .present)
    (hs : P s) : P (silenceDeparture sid l s) :=
  h.agePoints _ _ (h.endStationCommands _ _ (h.flag _ _
    (h.station hst (Station.Moves.fallSilent hj .silent) hs)))

/-- R99, R100: a miss at a station that is not LEAVING. -/
theorem KeptByParts.miss (h : KeptByParts P) {s : State} (sid : Nat) (l : LinkId) (limit : BitVec 4)
    (hs : P s) : P (countMiss sid l limit.toNat s) := by
  unfold countMiss
  split
  · exact hs
  · rename_i st hst
    have hle : missAfter st.miss limit.toNat ≤ 15 :=
      (Nat.min_le_right _ _).trans (Nat.le_of_lt_succ limit.isLt)
    have hmiss : P (s.modifyStation sid (fun st => { st with miss := missAfter st.miss limit.toNat })) :=
      h.station hst (Station.Moves.miss hle st) hs
    dsimp only
    split
    · rename_i hj
      refine h.silence l (st := { st with miss := missAfter st.miss limit.toNat }) ?_ hj.2 hmiss
      simp [hst]
    · exact hmiss

/-- R96 to R100: an outcome at a station that is not LEAVING. -/
theorem KeptByParts.outcome (h : KeptByParts P) {s : State} {sid : Nat} {st : Station} (l : LinkId)
    (limit : BitVec 4) (o : ExchangeOutcome) (hst : s.stations.find sid = some st)
    (hl : st.state ≠ .leaving) (hs : P s) : P (applyOutcome sid l limit.toNat o s) := by
  have hclear : P (clearMiss sid s) := h.station hst (Station.Moves.miss (Nat.zero_le _) st) hs
  cases o with
  | answered r =>
    cases r with
    | report restarted es cs =>
      show P (if restarted then restartDeparture sid s
        else takeCompletions sid l cs (takeEntries sid es (clearMiss sid s)))
      split
      · exact h.endStationCommands _ _ (h.station hst (Station.Moves.restart hl) hs)
      · exact h.completions _ _ _ (h.entries _ _ hclear)
    | ident typeCode capacity =>
      show P (identAnswer sid l typeCode capacity s)
      rw [identAnswer_eq]
      exact h.flag _ _ (h.station hst (Station.Moves.identified hl typeCode capacity) hs)
    | ack code => exact hclear
  | silent => exact h.miss sid l limit hs
  | damaged f => exact h.miss sid l limit hs

theorem KeptByReports.receiveFlag (h : KeptByReports P) {s : State} (l : LinkId) (o : ExchangeOutcome)
    (hs : P s) : P (receiveFlag l o s) := by
  cases o with
  | answered r => exact hs
  | silent => exact h.flag _ _ hs
  | damaged f => exact h.flag _ _ hs

/-- R95: an exchange's result, once the slot of a COMMAND exchange has taken it. -/
theorem KeptByParts.stationOutcome (h : KeptByParts P) {s : State} (l : LinkId) (x : Exchange)
    (o : ExchangeOutcome) (hs : P s) (hslot : P (slotOutcome x.kind o s)) :
    P (stationOutcome l x o s) := by
  unfold Machine.stationOutcome
  split
  · exact hs
  · rename_i st hst
    split
    · rename_i hl
      exact h.leave hst hl hs
    · rename_i hl
      obtain ⟨chain, hchain⟩ := slotOutcome_station x.kind o hst
      exact h.outcome l x.missLimit o hchain hl hslot

theorem KeptByParts.linkOff (h : KeptByParts P) {s : State} (sid : Nat) (hs : P s) :
    P (stationLinkOff s sid) := by
  unfold stationLinkOff
  split
  · exact hs
  · rename_i st hst
    split
    · rename_i hj
      exact h.agePoints _ _ (h.endStationCommands _ _
        (h.station hst (Station.Moves.fallSilent hj .linkOff) hs))
    · exact hs

end

/-! ## The parts of a departure and of a point's retirement, for the laws of points and bindings -/

/-- R102: link disable, by its four steps. -/
theorem disableLink_keeps {P : State → Prop} {s : State} {l : LinkId} (hs : P s)
    (hcut : (s.link l).activity ≠ .disabled → P ((cutCommand (s.link l) s).modifyLink l Link.disable))
    (hoff : ∀ s sid, P s → P (stationLinkOff s sid))
    (hleave : ∀ s, P s → P ((leavingStations l s).foldl (fun s sid => freeStation sid s) s))
    (hsettle : ∀ s, P s → P (settle s)) : P (disableLink l s) := by
  unfold disableLink
  dsimp only
  split
  · exact hs
  · rename_i hd
    exact hsettle _ (hleave _ (foldl_invariant P _ hoff _ _ (hcut hd)))

end Sys2Proof.Machine
end


section
/-! The laws that look neither at the states of command slots nor at the exchange of a link: what is left to
show of each (`KeptByPieces`). -/

namespace Sys2Proof.Machine

/-! ## Three effects by their fields -/

/-- R113: the points, slots and command queues after a SEND_COMMAND. -/
theorem placeSlot_points (k : Nat) (r : Slot) (l : LinkId) (s : State) :
    (placeSlot k r l s).points = s.points.modify r.point (fun p => { p with pendingCmd := some k }) := by
  unfold placeSlot
  rw [(noticeNewSlot_frame l k _).2.2.2.2.2.2.2.1]
  rfl

/-- R102: the freeing of LEAVING stations touches stations and tag sets alone. -/
theorem freeStations_keeps {β : Type} (π : State → β) (hπ : ∀ s sid, π (freeStation sid s) = π s)
    (xs : List Nat) (s : State) : π (xs.foldl (fun s sid => freeStation sid s) s) = π s :=
  foldl_keeps π _ hπ xs s

/-- A law is kept by every command, the ends of commands and exchanges given by their pieces. -/
structure KeptByPieces (P : State → Prop) : Prop where
  core : ∀ {s t}, s.SameCore t → P s → P t
  anyLink : ∀ {s l f}, ((f (s.link l)).roundPos = (s.link l).roundPos ∨
    ∀ h, (f (s.link l)).roundPos = some h → h ∈ s.pollList l) → P s → P (s.modifyLink l f)
  phase : ∀ {s m}, m.phase.transaction = s.mwm.phase.transaction → P s → P { s with mwm := m }
  point : ∀ {s h p q}, s.points.find h = some p → p.Moves q → P s →
    P { s with points := s.points.put h q }
  event : ∀ {s} h e, P s → P (pointEvent h e s)
  station : ∀ {s sid st f}, s.stations.find sid = some st → st.Moves (f st) → P s →
    P (s.modifyStation sid f)
  leave : ∀ {s sid st}, s.stations.find sid = some st → st.state = .leaving → P s →
    P (freeStation sid s)
  leaveAll : ∀ {s} l, P s → P ((leavingStations l s).foldl (fun s sid => freeStation sid s) s)
  finish : ∀ {s} h result code fate, P s → P (finishSlot h result code fate s)
  slot : ∀ {s} h f, (∀ r, (f r).client = r.client) → P s → P (s.modifySlot h f)
  dequeue : ∀ {s} h, P s → P (dequeue h s)
  freeTag : ∀ {s} sid tag, P s → P (freeTag sid tag s)
  freeAllTags : ∀ {s} sid, P s → P (freeAllTags sid s)
  takeTag : ∀ {s} sid tag h, P s → P (s.setTagSet sid ((s.tagSet sid).put tag (.held h)))
  softReset : ∀ {s}, P s → P (softReset s)
  hardwareReset : ∀ {s}, P s → P (hardwareReset s)
  addStation : ∀ {s l a limit h}, 1 ≤ a.toNat → a.toNat ≤ 126 → 1 ≤ limit → limit ≤ 4 →
    addressHeld s l a = false → s.stations.lowestFree 256 = some h → P s →
    P (placeStation h (newStation (s.link l).running l a limit) s)
  removeStation : ∀ {s h st}, s.stations.find h = some st → st.state ≠ .leaving → st.chain = [] → P s →
    P (removeRecord h st s)
  createPoint : ∀ {s sid st number confirm h} key deadband period, s.stations.find sid = some st →
    st.state ≠ .leaving → pointByNumber s st.chain number.toNat = none → 1 ≤ confirm ∧ confirm ≤ 3 →
    s.points.lowestFree 1024 = some h → P s →
    P (placePoint h (newPoint sid number key confirm deadband period) s)
  retirePoint : ∀ {s h p}, s.points.find h = some p → p.state ≠ .retiring → P s →
    P (retireRecord h p s)
  bind : ∀ {s h p b} c key address trigger, s.points.find h = some p → p.state ≠ .retiring →
    p.bindings.length < 8 → s.bindings.lowestFree 2048 = some b → P s →
    P (placeBinding b (newBinding h c key address trigger) s)
  detach : ∀ {s b r}, s.bindings.find b = some r → r.state = .active ∨ r.state = .suspended →
    r.inFlight = true → P s →
    P ((unqueueBinding b s).modifyBinding b (fun r => { r with state := .detaching, fault := none }))
  unbind : ∀ {s b r}, s.bindings.find b = some r → r.state = .active ∨ r.state = .suspended →
    r.inFlight = false → P s → P (freeBinding b s)
  resume : ∀ {s b r}, s.bindings.find b = some r → r.state = .suspended → P s →
    P (queueBinding b (s.modifyBinding b (fun r => { r with state := .active, fault := none })))
  sendCommand : ∀ {s h p st k} c hostTag value, s.points.find h = some p → p.state ≠ .retiring →
    s.stations.find p.station = some st → st.state = .present → p.pendingCmd = none →
    clientSlots s c < 16 → s.slots.lowestFree 32 = some k → P s →
    P (placeSlot k (newSlot c hostTag h p.station value) st.link s)
  collect : ∀ {s c h rest r}, s.doneList c = h :: rest → s.slots.find h = some r → P s →
    P { s with slots := s.slots.drop h, doneLists := s.doneLists.set c rest }
  mirrorStart : ∀ {s}, P s → P (mirrorWriteStart s)
  messageStart : ∀ {s}, P s → P (messageWriteStart s)
  endTransaction : ∀ {s t} e, s.mwm.phase.transaction = some t → P s → P (endTransaction t e s)

section

variable {P : State → Prop}

/-- R23: the retirement's part at the Command Tracker. -/
theorem retireCommand_keeps (hfinish : ∀ {s} h result code fate, P s → P (finishSlot h result code fate s))
    (hslot : ∀ {s} h f, (∀ r, (f r).client = r.client) → P s → P (s.modifySlot h f))
    (hdequeue : ∀ {s} h, P s → P (dequeue h s))
    {s : State} (h : Nat) (hs : P s) : P (retireCommand h s) := by
  unfold retireCommand
  split
  · exact hs
  rename_i r hr
  split
  · exact hfinish _ _ _ _ (hdequeue _ hs)
  · exact hfinish _ _ _ _ hs
  · exact hslot _ _ (fun _ => rfl) hs
  · exact hs

theorem KeptByPieces.commandAnswer (h : KeptByPieces P) {s : State} (k : Nat) (o : ExchangeOutcome)
    (hs : P s) : P (commandAnswer k o s) := by
  unfold Machine.commandAnswer
  split
  · exact hs
  split
  · split
    · exact h.slot _ _ (fun _ => rfl) hs
    · exact h.finish _ _ _ _ hs
  · split
    · exact h.finish _ _ _ _ hs
    · exact h.finish _ _ _ _ hs
  · exact h.finish _ _ _ _ hs
  · exact h.finish _ _ _ _ hs

theorem KeptByPieces.slotOutcome (h : KeptByPieces P) {s : State} (k : ExchangeKind)
    (o : ExchangeOutcome) (hs : P s) : P (slotOutcome k o s) := by
  cases k with
  | poll => exact hs
  | identReq => exact hs
  | command k tag => exact h.commandAnswer k o hs

theorem KeptByPieces.flag (h : KeptByPieces P) {s : State} (l : LinkId) (f : LinkFlag) (hs : P s) :
    P (setLinkFlag l f s) := h.anyLink (.inl rfl) hs

theorem KeptByPieces.settled (h : KeptByPieces P) {s : State} (hs : P s) : P (settle s) :=
  h.core (State.SameCore.of_settle s) hs

theorem KeptByPieces.parts (h : KeptByPieces P) : KeptByParts P where
  flag := fun l f hs => h.flag l f hs
  complete := fun result code _ _ hs => h.finish _ result code _ hs
  endSlot := fun result _ _ hs => h.finish _ result 0 _ (h.dequeue _ hs)
  freeTag := fun sid tag _ hs => h.freeTag sid tag hs
  freeAllTags := fun sid hs => h.freeAllTags sid hs
  point := h.point
  event := h.event
  station := h.station
  leave := h.leave

theorem KeptByPieces.ends (h : KeptByPieces P) {s : State} (l : LinkId) (x : Exchange)
    (o : ExchangeOutcome) (hs : P s) : P (endExchange l x o s) := by
  have hflag := h.parts.receiveFlag l o hs
  exact h.settled (h.anyLink (.inl rfl) (h.parts.stationOutcome l x o hflag (h.slotOutcome _ _ hflag)))

theorem KeptByPieces.disable (h : KeptByPieces P) {s : State} (l : LinkId) (hs : P s) :
    P (disableLink l s) := by
  refine disableLink_keeps hs (fun _ => ?_) (fun _ sid hp => h.parts.linkOff sid hp)
    (fun _ hp => h.leaveAll l hp) (fun _ hp => h.settled hp)
  refine h.anyLink (.inr fun k hk => by cases hk) ?_
  unfold cutCommand
  split
  · exact hs
  split
  · exact h.finish _ _ _ _ hs
  · exact hs
  · exact hs

/-- R101: the stations of an enabled link. -/
theorem rejoin_keeps (hstation : ∀ {s sid st f}, s.stations.find sid = some st → st.Moves (f st) → P s →
      P (s.modifyStation sid f)) (xs : List Nat) {s : State} (hs : P s) :
    P (xs.foldl (fun s sid => s.modifyStation sid Station.rejoin) s) := by
  refine foldl_invariant P _ (fun s sid hp => ?_) xs s hs
  cases hst : s.stations.find sid with
  | none =>
    rw [State.modifyStation, Table.modify_none _ _ hst]
    exact hp
  | some st => exact hstation hst (Station.Moves.rejoin st) hp

/-- R101: the round that starts at a link's enable has its position in the poll list. -/
theorem KeptByPieces.enable (h : KeptByPieces P) {s : State} (l : LinkId) (hs : P s) :
    P (enableLink l s) := by
  unfold enableLink
  dsimp only
  split
  · split
    · exact h.settled (h.flag l _ hs)
    · exact h.anyLink (.inr (beginRound_roundPos _ l _)) (rejoin_keeps h.station _ hs)
  · exact hs

/-- R90, R92: the station after the one visited is in the poll list. -/
theorem successor_mem {xs : List Nat} {h k : Nat} (hk : successor xs h = some k) : k ∈ xs := by
  induction xs with
  | nil => cases hk
  | cons x r ih =>
    unfold successor at hk
    split at hk
    · exact List.mem_cons_of_mem _ (List.mem_of_mem_head? hk)
    · exact List.mem_cons_of_mem _ (ih hk)

theorem KeptByPieces.command (h : KeptByPieces P) {s : State} (l : LinkId) (k : Nat) (hs : P s) :
    P (startCommand l k s) := by
  unfold startCommand
  split
  · exact hs
  split
  · exact h.anyLink (.inl rfl) (h.slot _ _ (fun _ => rfl) (h.takeTag _ _ _ (h.dequeue _ hs)))
  · exact hs

/-- A law that the pieces keep is kept by every command. -/
theorem KeptByPieces.keptByCore (h : KeptByPieces P) : KeptByCore P where
  core := h.core
  link := fun hk hs => h.anyLink hk.roundPos hs
  phase := h.phase
  point := h.point
  event := h.event
  softReset := h.softReset
  hardwareReset := h.hardwareReset
  addStation := h.addStation
  removeStation := h.removeStation
  createPoint := h.createPoint
  retirePoint := h.retirePoint
  bind := h.bind
  detach := h.detach
  unbind := h.unbind
  resume := h.resume
  sendCommand := h.sendCommand
  endQueued := fun result _ _ hs => h.finish _ result 0 _ (h.dequeue _ hs)
  endAccepted := fun result _ _ hs => h.finish _ result 0 _ hs
  mark := fun _ _ _ hs => h.slot _ _ (fun _ => rfl) hs
  collect := h.collect
  enable := fun l hs => h.enable l hs
  disable := fun l hs => h.disable l hs
  visit := fun _ _ _ hs => h.anyLink (.inr fun _ hk => successor_mem hk) hs
  command := fun _ _ hs => h.command _ _ hs
  ends := fun _ _ hs => h.ends _ _ _ hs
  mirrorStart := h.mirrorStart
  messageStart := h.messageStart
  endTransaction := h.endTransaction

end

end Sys2Proof.Machine
end


section
/-! Every step keeps the laws of the point records (O51): they look at the table of points alone. -/

namespace Sys2Proof.Machine

theorem PointsLawful.congr {s t : State} (h : t.points = s.points) (hs : PointsLawful s) :
    PointsLawful t := by
  unfold PointsLawful at *
  rw [h]
  exact hs

theorem PointsLawful.testFree {s : State} (h : Nat) (hs : PointsLawful s) :
    PointsLawful (testFree h s) := by
  unfold Machine.testFree
  split
  · exact hs
  split
  · exact Table.All.drop hs h
  · exact hs

/-- R51: a binding leaves its point's chain. -/
theorem PointsLawful.freeBinding {s : State} (b : Nat) (hs : PointsLawful s) :
    PointsLawful (freeBinding b s) := by
  unfold Machine.freeBinding
  split
  · exact hs
  · exact PointsLawful.testFree _ (Table.All.modify hs (fun _ _ hp => hp.with_bindings _))

theorem PointsLawful.finishSlot {s : State} (h : Nat) (result : CommandResult) (code : Byte)
    (fate : TagFate) (hs : PointsLawful s) : PointsLawful (finishSlot h result code fate s) := by
  cases hr : s.slots.find h with
  | none => rw [finishSlot_free hr]; exact hs
  | some r =>
    rw [finishSlot_eq hr]
    exact PointsLawful.testFree _ (Table.All.modify hs (fun _ _ hp => hp.with_pendingCmd _))

theorem PointsLawful.closeBinding {s : State} (b : Nat) (hs : PointsLawful s) :
    PointsLawful (closeBinding s b) := by
  unfold Machine.closeBinding
  split
  · exact hs
  split
  · exact PointsLawful.congr (by simp) hs
  · exact PointsLawful.freeBinding b hs
  · exact hs
  · exact hs

theorem PointsLawful.closeBindings {s : State} (h : Nat) (hs : PointsLawful s) :
    PointsLawful (closeBindings h s) := by
  unfold Machine.closeBindings
  split
  · exact hs
  · exact foldl_invariant PointsLawful _ (fun _ b hp => hp.closeBinding b) _ s hs

theorem PointsLawful.retire {s : State} {h : Nat} {p : Point} (hp : p.Lawful) (hs : PointsLawful s) :
    PointsLawful (retireRecord h p s) := by
  have hput : PointsLawful { s with points := s.points.put h p.retire } :=
    Table.All.put hs hp.retire
  unfold retireRecord
  refine PointsLawful.testFree _ (PointsLawful.closeBindings _ ?_)
  split
  · exact hput
  · exact retireCommand_keeps (fun k result code fate hp => hp.finishSlot k result code fate)
      (fun _ _ _ hp => hp) (fun _ hp => hp) _ hput

theorem PointsLawful.mirrorEnd {s : State} (o : Owner) (e : Option WriteError) (hs : PointsLawful s) :
    PointsLawful (handOn o e s) := by
  have hcleared (b : Nat) : PointsLawful (s.modifyBinding b (fun r => { r with inFlight := false })) := hs
  unfold handOn
  split
  · unfold mirrorEndOk
    dsimp only
    repeat' split
    all_goals first
      | exact hs
      | exact PointsLawful.freeBinding _ (hcleared _)
  · unfold mirrorEndError
    dsimp only
    repeat' split
    all_goals first
      | exact hs
      | exact PointsLawful.freeBinding _ (hcleared _)
  · exact hs

/-- A point that is queued for its bindings is unchanged. -/
theorem queueBinding_points (b : Nat) (s : State) : (queueBinding b s).points = s.points := by simp

theorem PointsLawful.kept : KeptByPieces PointsLawful where
  core := fun hc hs => hs.congr hc.points
  anyLink := fun _ hs => hs
  phase := fun _ hs => hs
  point := fun hp hm hs => Table.All.put hs (hm.lawful (hs _ _ hp))
  event := fun _ _ hs => hs.congr (by simp)
  station := fun _ _ hs => hs
  leave := fun _ _ hs => hs
  leaveAll := fun l hs => hs.congr (freeStations_keeps State.points (fun _ _ => rfl) _ _)
  finish := fun k result code fate hs => hs.finishSlot k result code fate
  slot := fun _ _ _ hs => hs
  dequeue := fun _ hs => hs
  freeTag := fun _ _ hs => hs.congr (by simp)
  freeAllTags := fun _ hs => hs.congr (by simp)
  takeTag := fun _ _ _ hs => hs.congr (by simp)
  softReset := fun _ => Table.All.empty _
  hardwareReset := fun _ => Table.All.empty _
  addStation := fun _ _ _ _ _ _ hs => hs.congr (by simp)
  removeStation := fun _ _ _ hs => hs.congr (by simp)
  createPoint := fun _ _ _ _ _ _ hc _ hs => Table.All.put hs (Point.lawful_new hc _ _ _ _ _)
  retirePoint := fun hp _ hs => hs.retire (hs _ _ hp)
  bind := fun _ _ _ _ _ _ _ _ hs =>
    PointsLawful.congr (queueBinding_points _ _) (Table.All.modify hs (fun _ _ hp => hp.with_bindings _))
  detach := fun _ _ _ hs => hs
  unbind := fun _ _ _ hs => hs.freeBinding _
  resume := fun _ _ hs => hs.congr (queueBinding_points _ _)
  sendCommand := fun _ _ _ _ _ _ _ _ _ _ hs => by
    unfold PointsLawful
    rw [placeSlot_points]
    exact Table.All.modify hs (fun _ _ hp => hp.with_pendingCmd _)
  collect := fun _ _ hs => hs
  mirrorStart := fun hs => hs.congr (by simp)
  messageStart := fun hs => hs.congr (by simp)
  endTransaction := fun e _ hs => by
    unfold endTransaction
    dsimp only
    split
    · exact hs
    · exact PointsLawful.congr (s := handOn _ e (setPhase .idle _)) rfl (PointsLawful.mirrorEnd _ e hs)

/-- Settles O51: a law of the table of points, kept by every command. -/
theorem stepKeepsPointsLawful : Obligations.StepKeepsPointsLawful :=
  fun _ _ hs ht => PointsLawful.kept.keptByCore.step hs ht

end Sys2Proof.Machine
end


section
/-! Every step keeps the laws of the links (O55). First the receiver; then what each update of a link keeps;
then the laws of all four links through the parts of an exchange's end; then the commands. -/

namespace Sys2Proof.Machine

/-! ## The receiver (R78 to R82) -/

theorem crc_append (bs : List Byte) (b : Byte) : crc (bs ++ [b]) = crcByte (crc bs) b := by
  unfold crc
  rw [List.foldl_append]
  rfl

theorem Receiver.lawful_fresh : Receiver.fresh.Lawful where
  faulty := fun h => by cases h
  bytes := fun _ => rfl
  start := fun _ _ => ⟨Nat.zero_lt_two, rfl⟩
  expected := fun m _ h => by cases h

theorem Receiver.Lawful.stopGap {rx : Receiver} (h : rx.Lawful) (g : Option Nat) :
    ({ rx with gap := g } : Receiver).Lawful := ⟨h.faulty, h.bytes, h.start, h.expected⟩

/-- R78, R82: with no fault pending the receiver has counted fewer than 64 characters. -/
theorem Receiver.Lawful.count_lt {rx : Receiver} (h : rx.Lawful) : rx.count < 64 := by
  cases hf : rx.fault with
  | some f => exact h.faulty (by rw [hf]; rfl)
  | none =>
    cases he : rx.expected with
    | none =>
      obtain ⟨hc, -⟩ := h.start hf he
      omega
    | some m =>
      obtain ⟨-, hlt, -, hle, -⟩ := h.expected m hf he
      omega

/-- R81: the length byte that passes its check. -/
theorem length_of_characterCheck {address : Byte} {bs : List Byte} {data : Byte} {mark stop : Bool}
    (h : characterCheck address bs 2 data mark stop = none) : 1 ≤ data.toNat ∧ data.toNat ≤ 60 := by
  unfold characterCheck at h
  split at h
  · cases h
  split at h
  · cases h
  by_contra hn
  simp [fieldCheck, hn] at h

/-- R80 to R82: a character that does not close the frame leaves the receiver lawful. -/
theorem Receiver.Lawful.take {rx : Receiver} (h : rx.Lawful) {x : Exchange} {data : Byte}
    {mark stop : Bool} (hc : (rx.take x data mark stop).closure x.kind = none) :
    (rx.take x data mark stop).Lawful := by
  have hcount := h.count_lt
  unfold Receiver.take at hc ⊢
  dsimp only at hc ⊢
  cases hf : rx.fault with
  | some f =>
    simp only [hf, Receiver.closure, Config.maxFrame, ite_eq_right_iff, reduceCtorEq, imp_false] at hc ⊢
    exact ⟨fun _ => by (show rx.count + 1 < 64); omega, fun hn => (by cases hn), fun hn => (by cases hn),
      fun m hn => (by cases hn)⟩
  | none =>
    simp only [hf] at hc ⊢
    cases hk : characterCheck x.address rx.bytes (rx.count + 1) data mark stop with
    | some f =>
      simp only [hk, Receiver.closure, Config.maxFrame, ite_eq_right_iff, reduceCtorEq, imp_false] at hc ⊢
      exact ⟨fun _ => by (show rx.count + 1 < 64); omega, fun hn => (by cases hn), fun hn => (by cases hn),
        fun m hn => (by cases hn)⟩
    | none =>
      have hlen := h.bytes hf
      simp only [hk, Receiver.closure, ite_eq_right_iff, reduceCtorEq, imp_false] at hc ⊢
      refine ⟨fun hn => ?_, fun _ => ?_, fun _ he => ?_, fun m _ he => ?_⟩
      · simp at hn
      · simp [hlen]
      · dsimp only at he ⊢
        split at he
        · cases he
        · rename_i hn2
          obtain ⟨hlt, hcrc⟩ := h.start hf he
          refine ⟨by omega, ?_⟩
          rw [he, hcrc, crc_append]
          rfl
      · dsimp only at he ⊢
        split at he
        · rename_i hn2
          have hone : rx.count = 1 := by omega
          have hnone : rx.expected = none := by
            cases hx : rx.expected with
            | none => rfl
            | some k =>
              obtain ⟨h2, -⟩ := h.expected k hf hx
              omega
          rw [hn2] at hk
          obtain ⟨hlo, hhi⟩ := length_of_characterCheck hk
          obtain ⟨-, hcrc⟩ := h.start hf hnone
          have hm : data.toNat + 4 = m := Option.some.inj he
          refine ⟨by omega, by omega, by omega, by omega, ?_⟩
          rw [hnone, hcrc, List.take_of_length_le (by simp [hlen]; omega), crc_append]
          rfl
        · rename_i hn2
          obtain ⟨h2, hlt, h5, h64, hcrc⟩ := h.expected m hf he
          have hne : m ≠ rx.count + 1 := by
            intro hm
            apply hc
            rw [if_neg hn2, he, hm]
          refine ⟨by omega, by omega, h5, h64, ?_⟩
          rw [he, hcrc]
          by_cases hin : rx.count + 1 + 2 ≤ m
          · rw [List.take_of_length_le (i := m - 2) (l := rx.bytes) (by rw [hlen]; omega),
              List.take_of_length_le (by simp [hlen]; omega), crc_append, inCrc, decide_eq_true hin]
            rfl
          · rw [List.take_append_of_le_length (by rw [hlen]; omega), inCrc, decide_eq_false hin]
            rfl

/-! ## Updates of a link -/

/-- R103: the settings and the burst counter of a link are in their ranges. -/
structure Link.SettingsLawful (k : Link) : Prop where
  responseTimeout : k.config.responseTimeout ≠ 0
  completionTimeout : k.config.completionTimeout ≠ 0
  missLimit : k.config.missLimit ≠ 0
  burstLimit : 1 ≤ k.config.burstLimit.toNat ∧ k.config.burstLimit.toNat ≤ 8
  burst : k.burst ≤ 8

section

variable {k : Link}

theorem Link.SettingsLawful.congr {j : Link} (h : k.SettingsLawful) (hc : j.config = k.config)
    (hb : j.burst = k.burst) : j.SettingsLawful := by
  constructor
  · rw [hc]; exact h.responseTimeout
  · rw [hc]; exact h.completionTimeout
  · rw [hc]; exact h.missLimit
  · rw [hc]; exact h.burstLimit
  · rw [hb]; exact h.burst

theorem Link.Lawful.settings (h : k.Lawful) : k.SettingsLawful :=
  ⟨h.responseTimeout, h.completionTimeout, h.missLimit, h.burstLimit, h.burst⟩

/-- A link between exchanges: IDLE, GAP, an open decision point or QUIET. -/
theorem Link.SettingsLawful.lawful (h : k.SettingsLawful) (hd : k.config.divisor ≠ 0)
    (hx : k.activity.exchange = none) (hn : k.activity ≠ .disabled)
    (hidle : k.activity = .idle → k.pollGap = .stopped) (hgap : k.activity = .gap → k.inGap = true)
    (hexp : k.pollGap = .expired → k.activity.busy = true) : k.Lawful where
  divisor := fun _ => hd
  responseTimeout := h.responseTimeout
  completionTimeout := h.completionTimeout
  missLimit := h.missLimit
  burstLimit := h.burstLimit
  burst := h.burst
  disabled := fun hk => absurd hk hn
  idle := hidle
  gap := hgap
  expired := hexp
  exchange := fun x hk => by rw [hx] at hk; cases hk
  sending := fun x hk => by rw [hk] at hx; cases hx
  listening := fun x d hk => by rw [hk] at hx; cases hx
  receiver := fun x rx hk => by rw [hk] at hx; cases hx

/-- A link with an exchange in flight. -/
theorem Link.SettingsLawful.lawful_exchange (h : k.SettingsLawful) (hd : k.config.divisor ≠ 0)
    {x : Exchange} (hk : k.activity.exchange = some x) (hx : x.Lawful)
    (hs : ∀ x, k.activity = .sending x → k.inCharacter = false)
    (hl : ∀ x d, k.activity = .awaiting x d → k.inCharacter = false)
    (hr : ∀ x rx, k.activity = .receiving x rx → rx.Lawful) : k.Lawful where
  divisor := fun _ => hd
  responseTimeout := h.responseTimeout
  completionTimeout := h.completionTimeout
  missLimit := h.missLimit
  burstLimit := h.burstLimit
  burst := h.burst
  disabled := fun ha => by rw [ha] at hk; cases hk
  idle := fun ha => by rw [ha] at hk; cases hk
  gap := fun ha => by rw [ha] at hk; cases hk
  expired := fun _ => by cases ha : k.activity <;> rw [ha] at hk <;> first | rfl | cases hk
  exchange := fun y hy => by
    obtain rfl : x = y := Option.some.inj (hk.symm.trans hy)
    exact hx
  sending := hs
  listening := hl
  receiver := hr

theorem Link.Lawful.with_status (h : k.Lawful) (v : BitVec 11) : ({ k with status := v } : Link).Lawful :=
  ⟨h.divisor, h.responseTimeout, h.completionTimeout, h.missLimit, h.burstLimit, h.burst, h.disabled,
    h.idle, h.gap, h.expired, h.exchange, h.sending, h.listening, h.receiver⟩

theorem Link.Lawful.with_mask (h : k.Lawful) (v : BitVec 11) : ({ k with mask := v } : Link).Lawful :=
  ⟨h.divisor, h.responseTimeout, h.completionTimeout, h.missLimit, h.burstLimit, h.burst, h.disabled,
    h.idle, h.gap, h.expired, h.exchange, h.sending, h.listening, h.receiver⟩

/-- New settings in their ranges. -/
theorem Link.Lawful.with_config (h : k.Lawful) {c : LinkConfig}
    (hd : k.activity ≠ .disabled → c.divisor ≠ 0) (hr : c.responseTimeout ≠ 0)
    (hc : c.completionTimeout ≠ 0) (hm : c.missLimit ≠ 0)
    (hb : 1 ≤ c.burstLimit.toNat ∧ c.burstLimit.toNat ≤ 8) : ({ k with config := c } : Link).Lawful :=
  ⟨hd, hr, hc, hm, hb, h.burst, h.disabled, h.idle, h.gap, h.expired, h.exchange, h.sending, h.listening,
    h.receiver⟩

/-- R93: a decision point in GAP. -/
theorem Link.Lawful.openInGap (h : k.Lawful) : k.openInGap.Lawful := by
  unfold Link.openInGap
  split
  · rename_i hg
    refine Link.SettingsLawful.lawful (k := { k with activity := .deciding }) (h.settings.congr rfl rfl)
      (h.divisor (by rw [hg.1]; exact fun ha => by cases ha)) rfl (fun ha => by cases ha)
      (fun ha => by cases ha) (fun ha => by cases ha) (fun he => ?_)
    have hb := h.expired he
    rw [hg.1] at hb
    cases hb
  · exact h

/-- R92: the round position moves on. -/
theorem Link.Lawful.forget (h : k.Lawful) (list : List Nat) (j : Nat) : (k.forget list j).Lawful := by
  unfold Link.forget
  split
  · rename_i hp
    refine ⟨h.divisor, h.responseTimeout, h.completionTimeout, h.missLimit, h.burstLimit, h.burst,
      fun ha => ?_, h.idle, h.gap, h.expired, h.exchange, h.sending, h.listening, h.receiver⟩
    obtain ⟨-, hnone, -⟩ := h.disabled ha
    rw [hnone] at hp
    cases hp
  · exact h

/-- R89: the end of an exchange. -/
theorem Link.SettingsLawful.quiet (h : k.SettingsLawful) (hd : k.config.divisor ≠ 0) (n : Nat) :
    ({ k with activity := .quiet n } : Link).Lawful :=
  Link.SettingsLawful.lawful (k := { k with activity := .quiet n })
    (h.congr rfl rfl) hd rfl
    (fun ha => by cases ha) (fun ha => by cases ha) (fun ha => by cases ha) (fun _ => rfl)

/-- A link with an exchange in flight is RUNNING, with a divisor. -/
theorem Link.Lawful.divisor_of_exchange (h : k.Lawful) {x : Exchange}
    (hx : k.activity.exchange = some x) : k.config.divisor ≠ 0 :=
  h.divisor (fun ha => by rw [ha] at hx; cases hx)

/-! ## Decision points -/

/-- R93: the arbiter keeps the settings, and no expired poll gap is left. -/
theorem Link.SettingsLawful.arbitrate (h : k.SettingsLawful) (hd : k.config.divisor ≠ 0)
    (hp : k.pollGap ≠ .expired) (s : State) (l : LinkId) (n : Nat) : (arbitrate s l n k).Lawful := by
  obtain ⟨hconfig, hburst, -, -, -⟩ := arbitrate_keeps s l n k
  have hsettings : (Machine.arbitrate s l n k).SettingsLawful := h.congr hconfig hburst
  have hdiv : (Machine.arbitrate s l n k).config.divisor ≠ 0 := by rw [hconfig]; exact hd
  have hx := arbitrate_exchange s l n k
  rcases arbitrate_outcome s l n k with ⟨ha, hg⟩ | ⟨ha, hg⟩ | ⟨ha, hg⟩
  · refine hsettings.lawful hdiv hx ?_ ?_ ?_ (fun he => ?_)
    · rw [ha]; exact fun hc => by cases hc
    · rw [ha]; exact fun hc => by cases hc
    · rw [ha]; exact fun hc => by cases hc
    · rcases hg with hg | hg
      · exact absurd (hg.symm.trans he) hp
      · rw [hg] at he; cases he
  · refine hsettings.lawful hdiv hx ?_ ?_ (fun _ => hg) (fun he => ?_)
    · rw [ha]; exact fun hc => by cases hc
    · rw [ha]; exact fun hc => by cases hc
    · rw [Link.inGap, he] at hg; cases hg
  · refine hsettings.lawful hdiv hx ?_ (fun _ => hg) ?_ (fun he => ?_)
    · rw [ha]; exact fun hc => by cases hc
    · rw [ha]; exact fun hc => by cases hc
    · rw [hg] at he; cases he

theorem Link.SettingsLawful.beginRound (h : k.SettingsLawful) (hd : k.config.divisor ≠ 0) (s : State)
    (l : LinkId) : (beginRound s l k).Lawful := by
  unfold Machine.beginRound
  split
  · exact Link.SettingsLawful.lawful
      (k := { k with pollGap := .stopped, roundPos := none, activity := .idle })
      (h.congr rfl rfl) hd rfl
      (fun ha => by cases ha) (fun _ => rfl) (fun ha => by cases ha) (fun he => by cases he)
  · rename_i j _ _
    exact Link.SettingsLawful.arbitrate (k := { k with pollGap := .stopped, roundPos := some j })
      (h.congr rfl rfl) hd
      (fun he => by cases he) s l _

theorem Link.SettingsLawful.decide (h : k.SettingsLawful) (hd : k.config.divisor ≠ 0) (s : State)
    (l : LinkId) : (decideLink s l k).Lawful := by
  unfold decideLink
  split
  · exact h.beginRound hd s l
  · rename_i g hg
    exact h.arbitrate hd (by rw [hg]; exact fun he => by cases he) s l _
  · rename_i hg
    exact h.arbitrate hd (by rw [hg]; exact fun he => by cases he) s l _

/-! ## Exchanges -/

/-- R70, R93: an exchange fixes settings that are in their ranges. -/
theorem Link.Lawful.makeExchange (h : k.Lawful) (hn : k.activity ≠ .disabled) (kind : ExchangeKind)
    (sid : Nat) (st : Station) (code : Byte) (payload : List Byte) :
    (makeExchange k kind sid st code payload).Lawful :=
  ⟨h.divisor hn, h.responseTimeout, h.missLimit⟩

theorem Link.Lawful.visitExchange (h : k.Lawful) (hn : k.activity ≠ .disabled) (sid : Nat)
    (st : Station) : (visitExchange k sid st).Lawful := by
  unfold Machine.visitExchange
  split
  · exact h.makeExchange hn _ _ _ _ _
  · exact h.makeExchange hn _ _ _ _ _

/-- R77: the link enters SENDING, with a round position and a burst counter of its own. -/
theorem Link.Lawful.send (h : k.Lawful) (hn : k.activity ≠ .disabled) {x : Exchange} (hx : x.Lawful)
    (pos : Option Nat) {burst : Nat} (hb : burst ≤ 8) :
    ({ k.send x with roundPos := pos, burst := burst } : Link).Lawful :=
  Link.SettingsLawful.lawful_exchange (k := { k.send x with roundPos := pos, burst := burst })
    ⟨h.responseTimeout, h.completionTimeout, h.missLimit, h.burstLimit, hb⟩ (h.divisor hn)
    (x := x) rfl hx (fun _ _ => rfl) (fun _ _ ha => by cases ha) (fun _ _ ha => by cases ha)

theorem Link.Lawful.frameSent (h : k.Lawful) {x : Exchange} (hx : k.activity = .sending x) (d : Nat) :
    ({ k with activity := .awaiting x d } : Link).Lawful := by
  have hk : k.activity.exchange = some x := by rw [hx]; rfl
  exact Link.SettingsLawful.lawful_exchange (k := { k with activity := .awaiting x d })
    (h.settings.congr rfl rfl)
    (h.divisor_of_exchange hk) rfl (h.exchange x hk) (fun _ ha => by cases ha)
    (fun _ _ _ => h.sending x hx) (fun _ _ ha => by cases ha)

/-- R71, R78: a character, or its start bit, in RECEIVING. -/
theorem Link.Lawful.receiving (h : k.Lawful) {x : Exchange} (hk : k.activity.exchange = some x)
    {rx : Receiver} (hr : rx.Lawful) (c : Bool) :
    ({ k with activity := .receiving x rx, inCharacter := c } : Link).Lawful :=
  Link.SettingsLawful.lawful_exchange (k := { k with activity := .receiving x rx, inCharacter := c })
    (h.settings.congr rfl rfl) (h.divisor_of_exchange hk) rfl (h.exchange x hk) (fun _ ha => by cases ha)
    (fun _ _ ha => by cases ha) (fun _ _ ha => by cases ha; exact hr)

/-- R71: a character that will be discarded, in a link without an exchange, or the end of one. -/
theorem Link.Lawful.with_inCharacter (h : k.Lawful) (c : Bool)
    (hd : k.activity = .disabled → c = false) (hs : ∀ x, k.activity = .sending x → c = false)
    (hl : ∀ x d, k.activity = .awaiting x d → c = false) : ({ k with inCharacter := c } : Link).Lawful :=
  ⟨h.divisor, h.responseTimeout, h.completionTimeout, h.missLimit, h.burstLimit, h.burst,
    fun ha => ⟨(h.disabled ha).1, (h.disabled ha).2.1, hd ha⟩, h.idle, h.gap, h.expired, h.exchange, hs,
    hl, h.receiver⟩

/-- R102. -/
theorem Link.SettingsLawful.disable (h : k.SettingsLawful) : k.disable.Lawful where
  divisor := fun hn => absurd rfl hn
  responseTimeout := h.responseTimeout
  completionTimeout := h.completionTimeout
  missLimit := h.missLimit
  burstLimit := h.burstLimit
  burst := h.burst
  disabled := fun _ => ⟨rfl, rfl, rfl⟩
  idle := fun ha => by cases ha
  gap := fun ha => by cases ha
  expired := fun he => by cases he
  exchange := fun x hx => by cases hx
  sending := fun x ha => by cases ha
  listening := fun x d ha => by cases ha
  receiver := fun x rx ha => by cases ha

theorem Link.SettingsLawful.softReset (h : k.SettingsLawful) : k.softReset.Lawful :=
  Link.SettingsLawful.disable (k := { Link.reset with config := k.config, mask := k.mask })
    ⟨h.responseTimeout, h.completionTimeout, h.missLimit, h.burstLimit, Nat.zero_le _⟩

theorem Link.lawful_reset : Link.reset.Lawful :=
  Link.SettingsLawful.disable (k := Link.reset)
    ⟨by decide, by decide, by decide, by decide, Nat.zero_le _⟩

end

/-! ## The four links through the parts of an exchange's end -/

/-- Each link satisfies a condition of its own. -/
def LinksSatisfy (F : LinkId → Link → Prop) (s : State) : Prop := ∀ m, F m (s.link m)

/-- The parts of an exchange's end change a link's status, and its activity from GAP to an open decision. -/
structure LinkStable (F : LinkId → Link → Prop) : Prop where
  status : ∀ {m k} v, F m k → F m { k with status := v }
  opens : ∀ {m k}, F m k → F m k.openInGap

section

variable {F : LinkId → Link → Prop} {s t : State}

theorem LinksSatisfy.congr (h : t.links = s.links) (hs : LinksSatisfy F s) : LinksSatisfy F t := by
  intro m
  unfold State.link
  rw [h]
  exact hs m

theorem LinksSatisfy.modifyLink {l : LinkId} {f : Link → Link} (hs : LinksSatisfy F s)
    (hf : F l (s.link l) → F l (f (s.link l))) : LinksSatisfy F (s.modifyLink l f) := by
  intro m
  rw [State.link_modifyLink]
  split
  · rename_i hm
    subst hm
    exact hf (hs _)
  · exact hs m

theorem LinkStable.noticeFreedTag (hF : LinkStable F) (sid : Nat) (before : Bool)
    (hs : LinksSatisfy F s) : LinksSatisfy F (noticeFreedTag sid before s) := by
  unfold Machine.noticeFreedTag
  split
  · exact hs
  split
  · exact hs.modifyLink hF.opens
  · exact hs

theorem LinkStable.freeTag (hF : LinkStable F) (sid tag : Nat) (hs : LinksSatisfy F s) :
    LinksSatisfy F (freeTag sid tag s) := by
  unfold Machine.freeTag
  exact hF.noticeFreedTag sid _ (hs.congr (by simp))

theorem LinkStable.releaseTag (hF : LinkStable F) (r : Slot) (fate : TagFate) (hs : LinksSatisfy F s) :
    LinksSatisfy F (releaseTag r fate s) := by
  unfold Machine.releaseTag
  split
  · exact hs
  split
  · exact hF.freeTag _ _ hs
  · exact hs.congr (by simp)

theorem LinkStable.finishSlot (hF : LinkStable F) (h : Nat) (result : CommandResult) (code : Byte)
    (fate : TagFate) (hs : LinksSatisfy F s) : LinksSatisfy F (finishSlot h result code fate s) := by
  cases hr : s.slots.find h with
  | none => rw [finishSlot_free hr]; exact hs
  | some r =>
    rw [finishSlot_eq hr]
    exact LinksSatisfy.congr (s := Machine.releaseTag r fate s) (by simp) (hF.releaseTag r fate hs)

theorem LinkStable.endSlot (hF : LinkStable F) (h : Nat) (result : CommandResult) (hs : LinksSatisfy F s) :
    LinksSatisfy F (endSlot result s h) :=
  hF.finishSlot h result 0 .freed (s := dequeue h s) (hs.congr (by simp))

theorem LinkStable.freeAllTags (hF : LinkStable F) (sid : Nat) (hs : LinksSatisfy F s) :
    LinksSatisfy F (freeAllTags sid s) :=
  hF.noticeFreedTag sid _ (s := { s with tagSets := s.tagSets.drop sid }) hs

theorem LinkStable.parts (hF : LinkStable F) : KeptByParts (LinksSatisfy F) where
  flag := fun _ _ hs => hs.modifyLink (hF.status _)
  complete := fun result code _ _ hs => hF.finishSlot _ result code _ hs
  endSlot := fun result _ _ hs => hF.endSlot _ result hs
  freeTag := fun sid tag _ hs => hF.freeTag sid tag hs
  freeAllTags := fun sid hs => hF.freeAllTags sid hs
  point := fun _ _ hs => hs
  event := fun _ _ hs => hs.congr (by simp)
  station := fun _ _ hs => hs
  leave := fun _ _ hs => hs

theorem LinkStable.slotOutcome (hF : LinkStable F) (k : ExchangeKind) (o : ExchangeOutcome)
    (hs : LinksSatisfy F s) : LinksSatisfy F (slotOutcome k o s) := by
  cases k with
  | poll => exact hs
  | identReq => exact hs
  | command h tag =>
    show LinksSatisfy F (commandAnswer h o s)
    unfold commandAnswer
    repeat' split
    all_goals first
      | exact hs
      | exact hF.finishSlot _ _ _ _ hs

theorem LinkStable.stationOutcome (hF : LinkStable F) (l : LinkId) (x : Exchange) (o : ExchangeOutcome)
    (hs : LinksSatisfy F s) : LinksSatisfy F (stationOutcome l x o (receiveFlag l o s)) :=
  have hflag := hF.parts.receiveFlag l o hs
  hF.parts.stationOutcome l x o hflag (hF.slotOutcome _ _ hflag)

end

theorem linkStable_lawful : LinkStable (fun _ k => k.Lawful) where
  status := fun v h => h.with_status v
  opens := fun h => h.openInGap

/-- Every link is lawful, link `l` as far as its settings go. -/
def lawfulBut (l m : LinkId) (k : Link) : Prop :=
  if m = l then k.SettingsLawful ∧ k.config.divisor ≠ 0 else k.Lawful

theorem Link.openInGap_keeps (k : Link) :
    k.openInGap.config = k.config ∧ k.openInGap.burst = k.burst ∧ k.openInGap.roundPos = k.roundPos ∧
      k.openInGap.activity.exchange = k.activity.exchange ∧ k.openInGap.mask = k.mask ∧
      k.openInGap.status = k.status := by
  unfold Link.openInGap
  split
  · rename_i h
    exact ⟨rfl, rfl, rfl, by rw [h.1]; rfl, rfl, rfl⟩
  · exact ⟨rfl, rfl, rfl, rfl, rfl, rfl⟩

theorem linkStable_lawfulBut (l : LinkId) : LinkStable (lawfulBut l) where
  status := fun {m k} v h => by
    unfold lawfulBut at h ⊢
    split at h
    · rename_i hm
      obtain ⟨hk, hd⟩ := h
      rw [if_pos hm]
      exact ⟨hk.congr rfl rfl, hd⟩
    · rename_i hm
      rw [if_neg hm]
      exact h.with_status v
  opens := fun {m k} h => by
    obtain ⟨hconfig, hburst, -⟩ := k.openInGap_keeps
    unfold lawfulBut at h ⊢
    split at h
    · rename_i hm
      obtain ⟨hk, hd⟩ := h
      rw [if_pos hm, hconfig]
      exact ⟨hk.congr hconfig hburst, hd⟩
    · rename_i hm
      rw [if_neg hm]
      exact h.openInGap

/-! ## The commands -/

section

variable {s : State}

/-- R89: the end of an exchange asks of its own link the settings only. -/
theorem LinksLawful.endExchange {l : LinkId} {x : Exchange} (o : ExchangeOutcome)
    (hs : LinksSatisfy (lawfulBut l) s) : LinksLawful (endExchange l x o s) := by
  have hout := (linkStable_lawfulBut l).stationOutcome l x o hs
  rw [endExchange_quieted]
  intro m
  show (((stationOutcome l x o (receiveFlag l o s)).modifyLink l _).link m).Lawful
  rw [State.link_modifyLink]
  have hm := hout m
  unfold lawfulBut at hm
  split
  · rename_i heq
    have hl := hout l
    rw [lawfulBut, if_pos rfl] at hl
    exact hl.1.quiet hl.2 _
  · rename_i hne
    rwa [if_neg hne] at hm

/-- A lawful state, seen from the end of an exchange of link `l`. -/
theorem LinksLawful.but {l : LinkId} {x : Exchange} (hs : LinksLawful s)
    (hx : (s.link l).activity.exchange = some x) : LinksSatisfy (lawfulBut l) s := by
  intro m
  unfold lawfulBut
  split
  · rename_i hm
    subst hm
    exact ⟨(hs m).settings, (hs m).divisor_of_exchange hx⟩
  · exact hs m

theorem LinksLawful.congr {t : State} (h : t.links = s.links) (hs : LinksLawful s) : LinksLawful t :=
  LinksSatisfy.congr (F := fun _ k => k.Lawful) h hs

theorem LinksLawful.modifyLink {l : LinkId} {f : Link → Link} (hs : LinksLawful s)
    (hf : (s.link l).Lawful → (f (s.link l)).Lawful) : LinksLawful (s.modifyLink l f) :=
  LinksSatisfy.modifyLink (F := fun _ k => k.Lawful) hs hf

theorem LinksLawful.finishSlot (h : Nat) (result : CommandResult) (code : Byte) (fate : TagFate)
    (hs : LinksLawful s) : LinksLawful (finishSlot h result code fate s) :=
  linkStable_lawful.finishSlot h result code fate hs

theorem LinksLawful.decision {l : LinkId} (hs : LinksLawful s) (hn : (s.link l).activity ≠ .disabled) :
    LinksLawful (decisionPoint l s) :=
  hs.modifyLink (fun hk => hk.settings.decide (hk.divisor hn) s l)

/-- R93, R113: a new slot may open a decision. -/
theorem LinksLawful.noticeNewSlot (l : LinkId) (h : Nat) (hs : LinksLawful s) :
    LinksLawful (noticeNewSlot l h s) := by
  unfold Machine.noticeNewSlot
  split
  · exact hs.modifyLink (fun hk => hk.openInGap)
  · exact hs

/-- R91: a station appended while the link is IDLE. -/
theorem LinksLawful.appended (l : LinkId) (h : Nat) (hs : LinksLawful s) :
    LinksLawful (appendedWhileIdle l h s) := by
  unfold appendedWhileIdle
  split
  · rename_i ha
    have hn : (s.link l).activity ≠ .disabled := by rw [ha]; exact fun hc => by cases hc
    have hk := hs l
    intro m
    unfold decisionPoint
    rw [State.link_modifyLink, State.link_modifyLink_same, State.link_modifyLink]
    split
    · exact Link.SettingsLawful.decide (k := { s.link l with roundPos := some h })
        (hk.settings.congr rfl rfl)
        (hk.divisor hn) _ l
    · exact hs m
  · exact hs

theorem LinksLawful.remove {h : Nat} {st : Station} (hs : LinksLawful s) :
    LinksLawful (removeRecord h st s) := by
  have hleft : LinksLawful (leavePollList h st.link (freeAllTags h s)) :=
    LinksLawful.modifyLink (s := freeAllTags h s) (linkStable_lawful.freeAllTags h hs)
      (fun hk => hk.forget _ h)
  unfold removeRecord
  dsimp only
  split
  · exact hleft
  · exact hleft

theorem testFree_links (h : Nat) (s : State) : (testFree h s).links = s.links := by simp

theorem closeBindings_links (h : Nat) (s : State) : (closeBindings h s).links = s.links := by simp

theorem LinksLawful.retire {h : Nat} {p : Point} (hs : LinksLawful s) :
    LinksLawful (retireRecord h p s) := by
  unfold retireRecord
  refine LinksLawful.congr (testFree_links _ _) (LinksLawful.congr (closeBindings_links _ _) ?_)
  split
  · exact hs
  · exact retireCommand_keeps (P := LinksLawful) (fun k result code fate hp => hp.finishSlot k result code fate)
      (fun _ _ _ hp => hp) (fun _ hp => hp) _ hs

theorem LinksLawful.owners : KeptByOwners LinksLawful where
  core := fun hc hs => hs.congr hc.links
  point := fun _ _ hs => hs
  event := fun _ _ hs => hs.congr (by simp)
  addStation := fun _ _ _ _ _ _ hs => LinksLawful.appended _ _ (s := { (_ : State) with }) hs
  removeStation := fun _ _ _ hs => hs.remove
  createPoint := fun _ _ _ _ _ _ _ _ hs => hs
  retirePoint := fun _ _ hs => hs.retire
  bind := fun _ _ _ _ _ _ _ _ hs => hs.congr (by simp)
  detach := fun _ _ _ hs => hs
  unbind := fun _ _ _ hs => hs.congr (by simp)
  resume := fun _ _ hs => hs.congr (by simp)
  sendCommand := fun _ _ _ _ _ _ _ _ _ _ hs => LinksLawful.noticeNewSlot _ _ hs
  endQueued := fun result _ _ hs => linkStable_lawful.endSlot _ result hs
  endAccepted := fun result _ _ hs => hs.finishSlot _ result _ _
  mark := fun _ _ _ hs => hs
  collect := fun _ _ hs => hs

theorem LinksLawful.enable (l : LinkId) (hs : LinksLawful s) : LinksLawful (enableLink l s) := by
  unfold enableLink
  dsimp only
  split
  · split
    · exact LinksLawful.congr (s := setLinkFlag l .configError s) rfl
        (hs.modifyLink (fun hk => hk.with_status _))
    · rename_i hd
      have hrejoined := rejoin_keeps (P := fun t => t.links = s.links) (fun _ _ hp => hp) (s.pollList l)
        (rfl : s.links = s.links)
      refine LinksLawful.modifyLink (hs.congr hrejoined) (fun hk => ?_)
      refine Link.SettingsLawful.beginRound (k := { State.link _ l with roundCounter := 0, burst := 0 })
        ⟨hk.responseTimeout, hk.completionTimeout, hk.missLimit, hk.burstLimit, Nat.zero_le _⟩ ?_ _ l
      show ((State.link _ l).config).divisor ≠ 0
      unfold State.link
      rw [hrejoined]
      exact hd
  · exact hs

theorem LinksLawful.disable (l : LinkId) (hs : LinksLawful s) : LinksLawful (disableLink l s) := by
  refine disableLink_keeps hs (fun _ => ?_) (fun _ sid hp => linkStable_lawful.parts.linkOff sid hp)
    (fun _ hp => hp.congr (freeStations_keeps State.links (fun _ _ => rfl) _ _)) (fun _ hp => hp)
  have hcut : LinksLawful (cutCommand (s.link l) s) := by
    unfold cutCommand
    repeat' split
    all_goals first
      | exact hs
      | exact hs.finishSlot _ _ _ _
  exact hcut.modifyLink (fun hk => hk.settings.disable)

theorem LinksLawful.visit (l : LinkId) (hs : LinksLawful s) : LinksLawful (visitStart l s) := by
  unfold visitStart
  dsimp only
  split
  · rename_i ha
    have hn : (s.link l).activity ≠ .disabled := by rw [ha]; exact fun hc => by cases hc
    split
    · split
      · exact hs.decision hn
      · split
        · exact hs
        · exact hs.modifyLink (fun hk => hk.send hn (hk.visitExchange hn _ _) _ (Nat.zero_le _))
    · exact hs.decision hn
  · exact hs

/-- R94: a COMMAND exchange starts below the burst limit, which is at most 8. -/
theorem LinksLawful.command (l : LinkId) (hs : LinksLawful s) :
    LinksLawful (commandExchangeStart l s) := by
  unfold commandExchangeStart
  dsimp only
  split
  · rename_i ha
    have hn : (s.link l).activity ≠ .disabled := by rw [ha]; exact fun hc => by cases hc
    split
    · rename_i hopen
      split
      · unfold startCommand
        split
        · exact hs
        split
        · have hlt : (s.link l).burst < (s.link l).config.burstLimit.toNat := of_decide_eq_true hopen
          have hle := (hs l).burstLimit.2
          exact LinksLawful.modifyLink (hs.congr (by simp))
            (fun hk => Link.Lawful.send hk hn (hk.makeExchange hn _ _ _ _ _) _
              (show (s.link l).burst + 1 ≤ 8 by omega))
        · exact hs
      · exact hs.decision hn
    · exact hs.decision hn
  · exact hs

theorem LinksLawful.ends {l : LinkId} {x : Exchange} (o : ExchangeOutcome) (hs : LinksLawful s)
    (hx : (s.link l).activity.exchange = some x) : LinksLawful (Machine.endExchange l x o s) :=
  LinksLawful.endExchange o (hs.but hx)

theorem LinksLawful.response (l : LinkId) (hs : LinksLawful s) : LinksLawful (responseExpiry l s) := by
  unfold responseExpiry
  split
  · rename_i x d hx
    exact hs.ends _ (by rw [hx]; rfl)
  · exact hs

theorem LinksLawful.gapExpiry (l : LinkId) (hs : LinksLawful s) : LinksLawful (gapExpiry l s) := by
  unfold Machine.gapExpiry
  split
  · rename_i x rx hx
    split
    · exact hs.ends _ (by rw [hx]; rfl)
    · exact hs
  · exact hs

/-- R80 to R83: the character that closes the frame ends the exchange, whatever the receiver has become. -/
theorem LinksLawful.receive {l : LinkId} {x : Exchange} {rx : Receiver} (hs : LinksLawful s)
    (hx : (s.link l).activity.exchange = some x) (hr : rx.Lawful) (data : Byte) (mark stop : Bool) :
    LinksLawful (receiveCharacter l x rx data mark stop s) := by
  unfold receiveCharacter
  dsimp only
  split
  · refine LinksLawful.endExchange _ (LinksSatisfy.modifyLink (hs.but hx) (fun hk => ?_))
    rw [lawfulBut, if_pos rfl] at hk ⊢
    exact ⟨hk.1.congr rfl rfl, hk.2⟩
  · rename_i hc
    exact hs.modifyLink (fun hk => hk.receiving hx (hr.take hc) false)

theorem LinksLawful.character (l : LinkId) (data : Byte) (mark stop : Bool) (hs : LinksLawful s) :
    LinksLawful (characterReceived l data mark stop s) := by
  unfold characterReceived
  split
  · exact hs
  · exact hs
  · rename_i x d hx
    exact hs.receive (by rw [hx]; rfl) Receiver.lawful_fresh data mark stop
  · rename_i x rx hx
    exact hs.receive (by rw [hx]; rfl) ((hs l).receiver x rx hx) data mark stop
  · exact hs.modifyLink (fun hk => hk.with_inCharacter false (fun _ => rfl) (fun _ _ => rfl)
      (fun _ _ _ => rfl))

theorem LinksLawful.startBit (l : LinkId) (a b : Bool) (hs : LinksLawful s) :
    LinksLawful (startBit l a b s) := by
  unfold Machine.startBit
  dsimp only
  split
  · exact hs
  split
  · exact hs
  · exact hs
  · rename_i x d hx
    split
    · exact hs.modifyLink (fun hk => hk.receiving (by rw [hx]; rfl) Receiver.lawful_fresh true)
    split
    · exact hs.response l
    · exact hs
  · rename_i x rx hx
    split
    · exact hs.modifyLink (fun hk => hk.receiving (by rw [hx]; rfl)
        ((hk.receiver x rx hx).stopGap none) true)
    · exact hs
  · rename_i hdisabled hsending hawaiting hreceiving
    split
    · refine hs.modifyLink (fun hk => hk.with_inCharacter true (fun ha => ?_) (fun x ha => ?_)
        (fun x d ha => ?_))
      · exact absurd ha hdisabled
      · exact absurd ha (hsending x)
      · exact absurd ha (hawaiting x d)
    · exact hs

theorem LinksLawful.frame (l : LinkId) (hs : LinksLawful s) : LinksLawful (frameSent l s) := by
  unfold frameSent
  split
  · rename_i x hx
    exact hs.modifyLink (fun hk => hk.frameSent hx _)
  · exact hs

theorem LinksLawful.quiet (l : LinkId) (hs : LinksLawful s) : LinksLawful (quietExpiry l s) := by
  unfold quietExpiry
  split
  · rename_i d hx
    exact hs.decision (by rw [hx]; exact fun hc => by cases hc)
  · exact hs

/-- R89: a poll gap that expires during an exchange or QUIET waits; a DISABLED link has none. -/
theorem LinksLawful.pollGap (l : LinkId) (hs : LinksLawful s) : LinksLawful (pollGapExpiry l s) := by
  unfold pollGapExpiry
  split
  · rename_i d hd
    have hk := hs l
    have hn : (s.link l).activity ≠ .disabled := by
      intro ha
      obtain ⟨hstopped, -⟩ := hk.disabled ha
      rw [hstopped] at hd
      cases hd
    split
    · dsimp only
      split
      · rename_i hb
        refine hs.modifyLink (fun hk => ⟨hk.divisor, hk.responseTimeout, hk.completionTimeout, hk.missLimit,
          hk.burstLimit, hk.burst, fun ha => absurd ha hn, fun ha => ?_, fun ha => ?_, fun _ => hb,
          hk.exchange, hk.sending, hk.listening, hk.receiver⟩)
        · change (s.link l).activity = .idle at ha
          rw [ha] at hb
          cases hb
        · change (s.link l).activity = .gap at ha
          rw [ha] at hb
          cases hb
      · intro m
        unfold decisionPoint
        rw [State.link_modifyLink, State.link_modifyLink_same, State.link_modifyLink]
        split
        · exact Link.SettingsLawful.decide (k := { s.link l with pollGap := .expired })
            (hk.settings.congr rfl rfl) (hk.divisor hn) _ l
        · exact hs m
    · exact hs
  · exact hs
  · exact hs

theorem atLeastOne_ne_zero {n : Nat} (hn : 0 < n) (v : BitVec n) : atLeastOne v ≠ 0 := by
  unfold atLeastOne
  split
  · intro h
    have ht := congrArg BitVec.toNat h
    have hlt : 1 < 2 ^ n := Nat.one_lt_two_pow (by omega)
    simp [Nat.mod_eq_of_lt hlt] at ht
  · assumption

theorem burstLimitOf_range (v : BitVec 4) :
    1 ≤ (burstLimitOf v).toNat ∧ (burstLimitOf v).toNat ≤ 8 := by
  unfold burstLimitOf atLeastOne
  split
  · exact ⟨by decide, by decide⟩
  split
  · exact ⟨by decide, by decide⟩
  · rename_i h8 h0
    have hne : v.toNat ≠ 0 := fun h => h0 (BitVec.eq_of_toNat_eq h)
    omega

theorem LinksLawful.rate (l : LinkId) (v : Word) (hs : LinksLawful s) : LinksLawful (rateWrite l v s) := by
  unfold rateWrite
  dsimp only
  split
  · exact LinksLawful.congr (s := setLinkFlag l .configError s) rfl
      (hs.modifyLink (fun hk => hk.with_status _))
  · rename_i hd
    refine hs.modifyLink (fun hk => hk.with_config (fun hn hz => hd ⟨hz, ?_⟩) hk.responseTimeout
      hk.completionTimeout hk.missLimit hk.burstLimit)
    simpa [Link.running] using hn

theorem LinksLawful.meanings : Meanings (fun s t => LinksLawful s → LinksLawful t) where
  idle := fun _ hs => hs
  take := fun _ c isKind _ hf hs => LinksLawful.owners.take hf c isKind hs
  submit := fun s c v hs => hs.congr (submitWrite_sameCore s c v).links
  respRead := fun s c i hs => hs.congr (respRead_sameCore s c i).links
  pop := fun s c hs => hs.congr (popWrite_sameCore s c).links
  causeRead := fun s c hs => hs.congr (causeRead_sameCore s c).links
  lowRead := fun _ hs => hs
  causeWrite := fun _ _ _ hs => hs
  causeMask := fun _ _ _ hs => hs
  linkWatch := fun _ _ _ hs => hs
  irqMode := fun _ _ _ hs => hs
  msgAddr := fun _ _ _ hs => hs
  msgData := fun _ _ _ hs => hs
  msgKey := fun _ _ _ hs => hs
  clientReset := fun _ _ hs => hs
  stage := fun _ _ _ _ hs => hs
  softReset := fun s hs l => by
    show ((s.links.map Link.softReset).get l).Lawful
    rw [Quad.get_map]
    exact (hs l).settings.softReset
  hardwareReset := fun s _ l => by
    show ((Quad.all Link.reset).get l).Lawful
    rw [Quad.get_all]
    exact Link.lawful_reset
  release := fun s hs => hs.congr (resetNRelease_sameCore s).links
  tick := fun _ hs => hs
  enable := fun _ l hs => hs.enable l
  disable := fun _ l hs => hs.disable l
  rate := fun _ l v hs => hs.rate l v
  timing := fun _ _ _ hs => hs.modifyLink (fun hk => hk.with_config hk.divisor
    (atLeastOne_ne_zero (by decide) _) (atLeastOne_ne_zero (by decide) _) hk.missLimit hk.burstLimit)
  poll := fun _ _ _ hs => hs.modifyLink (fun hk => hk.with_config hk.divisor hk.responseTimeout
    hk.completionTimeout (atLeastOne_ne_zero (by decide) _) (burstLimitOf_range _))
  status := fun _ _ _ hs => hs.modifyLink (fun hk => hk.with_status _)
  mask := fun s l v hs => LinksLawful.modifyLink (s := s) hs (fun hk => hk.with_mask _)
  busConfig := fun _ _ hs => hs
  freshness := fun _ k hs => LinksLawful.owners.freshness k hs
  completion := fun _ k hs => LinksLawful.owners.completion k hs
  visit := fun _ l hs => hs.visit l
  command := fun _ l hs => hs.command l
  frameSent := fun _ l hs => hs.frame l
  response := fun _ l hs => hs.response l
  character := fun _ l data mark stop hs => hs.character l data mark stop
  gap := fun _ l hs => hs.gapExpiry l
  quiet := fun _ l hs => hs.quiet l
  pollGap := fun _ l hs => hs.pollGap l
  startBit := fun _ l a b hs => hs.startBit l a b
  mirrorStart := fun _ hs => hs.congr (by simp)
  messageStart := fun _ hs => hs.congr (by simp)
  grant := fun _ hs => hs.congr (by simp)
  ungrant := fun _ hs => hs
  accept := fun _ hs => hs.congr (by simp)
  busEnd := fun _ _ _ hs => hs.congr (by simp)
  busTimeout := fun _ hs => hs.congr (by simp)

/-- Settles O55: the arbiter, the exchange and the register writes keep each link lawful. -/
theorem stepKeepsLinksLawful : Obligations.StepKeepsLinksLawful :=
  fun _ _ hs ht => LinksLawful.meanings.keeps (fun _ _ hp => hp) hs ht

end

end Sys2Proof.Machine
end


section
/-! In MESSAGE mode no client stays ARMED while one of its causes is raised (O54). A meaning that may raise a
cause ends with the windows settled; the others leave each window's causes, or clear some of them. -/

namespace Sys2Proof.Machine

/-! ## Causes -/

/-- R150: LINK_EVENT looks at nothing of a link but whether it has a raised flag. -/
theorem linkEvent_congr {q p : Quad Link} (h : ∀ l, (p.get l).raised = (q.get l).raised)
    (watch : BitVec 4) : linkEvent p watch = linkEvent q watch := by
  have h0 : p.q0.raised = q.q0.raised := h 0
  have h1 : p.q1.raised = q.q1.raised := h 1
  have h2 : p.q2.raised = q.q2.raised := h 2
  have h3 : p.q3.raised = q.q3.raised := h 3
  unfold linkEvent
  rw [h0, h1, h2, h3]

theorem Client.notify_congr {q p : Quad Link} (h : ∀ l, (p.get l).raised = (q.get l).raised)
    (k : Client) : k.notify p = k.notify q := by
  unfold Client.notify Client.causes
  rw [linkEvent_congr h]

/-- A condition on seven flags, seen bit by bit. -/
theorem notify_iff (k : Client) (links : Quad Link) : k.notify links = true ↔
    ∃ i, i < 7 ∧ (k.causes links).getLsbD i = true ∧ k.mask.getLsbD i = true := by
  unfold Client.notify
  rw [bne_iff_ne, ne_eq, ← not_forall_not]
  refine not_congr ⟨fun h i hi => ?_, fun h => ?_⟩
  · obtain ⟨-, hc, hm⟩ := hi
    have hbit := congrArg (fun w => w.getLsbD i) h
    simp [hc, hm] at hbit
  · refine BitVec.eq_of_getLsbD_eq (fun i hi => ?_)
    rw [BitVec.getLsbD_and]
    cases hc : (k.causes links).getLsbD i with
    | false => simp
    | true =>
      cases hm : k.mask.getLsbD i with
      | false => simp
      | true => exact absurd ⟨hi, hc, hm⟩ (h i)

/-- Fewer causes under the same mask. -/
theorem notify_mono {j k : Client} {q p : Quad Link} (hm : j.mask = k.mask)
    (hc : ∀ i, i < 7 → (j.causes p).getLsbD i = true → (k.causes q).getLsbD i = true)
    (hk : k.notify q = false) : j.notify p = false := by
  rw [Bool.eq_false_iff] at hk ⊢
  intro hj
  obtain ⟨i, hi, hci, hmi⟩ := (notify_iff j p).mp hj
  exact hk ((notify_iff k q).mpr ⟨i, hi, hc i hi hci, hm ▸ hmi⟩)

/-- The seven causes by their bits (Table 11-2). -/
theorem causes_bits (k : Client) (links : Quad Link) :
    (k.causes links).getLsbD 0 = !k.responses.isEmpty ∧
      (k.causes links).getLsbD 1 = linkEvent links k.watch ∧
      (k.causes links).getLsbD 2 = k.sticky.commandDone ∧
      (k.causes links).getLsbD 3 = k.sticky.mirrorFault ∧
      (k.causes links).getLsbD 4 = k.sticky.messageFault ∧
      (k.causes links).getLsbD 5 = k.sticky.requestOverrun ∧
      (k.causes links).getLsbD 6 = k.sticky.responseUnderread := by
  unfold Client.causes
  exact ⟨BitVec.getLsbD_ofBoolListLE, BitVec.getLsbD_ofBoolListLE, BitVec.getLsbD_ofBoolListLE,
    BitVec.getLsbD_ofBoolListLE, BitVec.getLsbD_ofBoolListLE, BitVec.getLsbD_ofBoolListLE,
    BitVec.getLsbD_ofBoolListLE⟩

/-- A bit of the causes is implied when each cause is. -/
theorem causes_imp {j k : Client} {q p : Quad Link}
    (hr : j.responses.isEmpty = false → k.responses.isEmpty = false)
    (hl : linkEvent p j.watch = true → linkEvent q k.watch = true)
    (hs : (j.sticky.commandDone = true → k.sticky.commandDone = true) ∧
      (j.sticky.mirrorFault = true → k.sticky.mirrorFault = true) ∧
      (j.sticky.messageFault = true → k.sticky.messageFault = true) ∧
      (j.sticky.requestOverrun = true → k.sticky.requestOverrun = true) ∧
      (j.sticky.responseUnderread = true → k.sticky.responseUnderread = true)) :
    ∀ i, i < 7 → (j.causes p).getLsbD i = true → (k.causes q).getLsbD i = true := by
  obtain ⟨hs2, hs3, hs4, hs5, hs6⟩ := hs
  obtain ⟨j0, j1, j2, j3, j4, j5, j6⟩ := causes_bits j p
  obtain ⟨k0, k1, k2, k3, k4, k5, k6⟩ := causes_bits k q
  intro i hi
  match i, hi with
  | 0, _ =>
    rw [j0, k0, Bool.not_eq_true', Bool.not_eq_true']
    exact hr
  | 1, _ => rw [j1, k1]; exact hl
  | 2, _ => rw [j2, k2]; exact hs2
  | 3, _ => rw [j3, k3]; exact hs3
  | 4, _ => rw [j4, k4]; exact hs4
  | 5, _ => rw [j5, k5]; exact hs5
  | 6, _ => rw [j6, k6]; exact hs6

/-! ## Settled windows -/

/-- R153: after it no window is ARMED while it should pass on. -/
theorem settle_client (s : State) (c : ClientId) :
    (settle s).client c = (s.client c).settle s.links := Quad.get_map _ _ _

theorem Client.settle_eq (k : Client) (links : Quad Link) :
    k.settle links = { k with msgState := (k.settle links).msgState } := by
  unfold Client.settle
  split <;> rfl

theorem messagesSettled_settle (s : State) : MessagesSettled (settle s) := by
  intro c hmode harmed
  unfold State.notify
  rw [settle_client] at hmode harmed ⊢
  unfold Client.settle at hmode harmed ⊢
  split at hmode
  · rename_i h
    rw [if_pos h] at harmed
    cases harmed
  · rename_i h
    rw [if_neg h] at harmed ⊢
    rw [Bool.eq_false_iff]
    exact fun hn => h ⟨hmode, harmed, hn⟩

section

variable {s t : State}

/-- The same windows, and links whose raised flags are the same. -/
theorem MessagesSettled.congr (hs : MessagesSettled s) (hc : t.clients = s.clients)
    (hl : ∀ l, (t.link l).raised = (s.link l).raised) : MessagesSettled t := by
  intro c hmode harmed
  have hk : t.client c = s.client c := by unfold State.client; rw [hc]
  rw [hk] at hmode harmed
  have hn := hs c hmode harmed
  unfold State.notify at hn ⊢
  rw [hk, Client.notify_congr hl]
  exact hn

theorem MessagesSettled.same (hs : MessagesSettled s) (hc : t.clients = s.clients)
    (hl : t.links = s.links) : MessagesSettled t :=
  hs.congr hc (fun l => by unfold State.link; rw [hl])

/-- An update of a link that leaves its flags and their mask. -/
theorem MessagesSettled.modifyLink (hs : MessagesSettled s) {l : LinkId} {f : Link → Link}
    (hf : (f (s.link l)).status = (s.link l).status ∧ (f (s.link l)).mask = (s.link l).mask) :
    MessagesSettled (s.modifyLink l f) := by
  refine hs.congr rfl (fun m => ?_)
  rw [State.link_modifyLink]
  split
  · rename_i hm
    rw [hm, Link.raised, Link.raised, hf.1, hf.2]
  · rfl

/-- An update of a window that leaves it settled if it was. -/
theorem MessagesSettled.modifyClient (hs : MessagesSettled s) {c : ClientId} {f : Client → Client}
    (hmode : (f (s.client c)).mode = (s.client c).mode)
    (hstate : (f (s.client c)).msgState = (s.client c).msgState)
    (hn : (s.client c).notify s.links = false → (f (s.client c)).notify s.links = false) :
    MessagesSettled (s.modifyClient c f) := by
  intro d hm ha
  unfold State.notify
  rw [State.client_modifyClient] at hm ha ⊢
  split at hm
  · rename_i hd
    rw [if_pos hd] at ha ⊢
    rw [hmode] at hm
    rw [hstate] at ha
    exact hn (hs c hm ha)
  · rename_i hd
    rw [if_neg hd] at ha ⊢
    exact hs d hm ha

theorem beginRound_flags (s : State) (l : LinkId) (k : Link) :
    (beginRound s l k).status = k.status ∧ (beginRound s l k).mask = k.mask := by
  unfold beginRound
  split
  · exact ⟨rfl, rfl⟩
  · obtain ⟨-, -, hstatus, hmask, -⟩ := arbitrate_keeps s l roundsAtOnce { k with
      pollGap := .stopped
      roundPos := some _ }
    exact ⟨hstatus, hmask⟩

theorem decideLink_flags (s : State) (l : LinkId) (k : Link) :
    (decideLink s l k).status = k.status ∧ (decideLink s l k).mask = k.mask := by
  obtain ⟨-, -, hstatus, hmask, -⟩ := arbitrate_keeps s l roundsAtOnce k
  unfold decideLink
  split
  · exact beginRound_flags s l k
  · exact ⟨hstatus, hmask⟩
  · exact ⟨hstatus, hmask⟩

theorem MessagesSettled.decision (hs : MessagesSettled s) (l : LinkId) :
    MessagesSettled (decisionPoint l s) := hs.modifyLink (decideLink_flags s l _)

/-! ## The commands -/

theorem messagesSettled_take (hs : MessagesSettled s) (c : ClientId) (isKind : Nat → Bool)
    (f : ClientId → Request → State → Answer) : MessagesSettled (takeRequest c isKind f s) := by
  unfold takeRequest
  split
  · exact hs
  split
  · exact messagesSettled_settle _
  · exact hs

theorem MessagesSettled.submit (hs : MessagesSettled s) (c : ClientId) (v : Word) :
    MessagesSettled (submitWrite c v s) := by
  unfold submitWrite
  split
  · exact hs.modifyClient rfl rfl id
  · exact messagesSettled_settle _

theorem MessagesSettled.respRead (hs : MessagesSettled s) (c : ClientId) (i : Fin 4) :
    MessagesSettled (respRead c i s) := by
  unfold Machine.respRead
  dsimp only
  split
  · exact messagesSettled_settle _
  · exact hs

theorem MessagesSettled.pop (hs : MessagesSettled s) (c : ClientId) : MessagesSettled (popWrite c s) := by
  unfold popWrite
  split
  · exact messagesSettled_settle _
  · rename_i r rest hr
    refine hs.modifyClient rfl rfl (notify_mono rfl (causes_imp (fun _ => ?_) id ⟨id, id, id, id, id⟩))
    rw [hr]
    rfl

theorem MessagesSettled.causeRead (hs : MessagesSettled s) (c : ClientId) :
    MessagesSettled (causeRead c s) := by
  unfold Machine.causeRead
  dsimp only
  split
  · exact messagesSettled_settle _
  · exact hs.same rfl rfl

theorem MessagesSettled.causeWrite (hs : MessagesSettled s) (c : ClientId) (v : Word) :
    MessagesSettled (causeWrite c v s) := by
  refine hs.modifyClient rfl rfl (notify_mono rfl (causes_imp id id ⟨?_, ?_, ?_, ?_, ?_⟩)) <;>
    exact fun h => (Bool.and_eq_true_iff.mp h).1

theorem MessagesSettled.stage (hs : MessagesSettled s) (c : ClientId) (i : Fin 3) (v : Word) :
    MessagesSettled (stageWrite c i v s) := by
  refine hs.modifyClient ?_ ?_ ?_ <;> split <;> first | rfl | exact id

/-- R160, R159: after a reset no cause is raised. -/
theorem notify_eq_false_of_causes {k : Client} {links : Quad Link} (hr : k.responses = [])
    (hl : linkEvent links k.watch = false) (hs : k.sticky = Sticky.reset) : k.notify links = false := by
  have hcauses : k.causes links = 0 := by
    unfold Client.causes
    rw [hr, hl, hs]
    rfl
  unfold Client.notify
  rw [hcauses]
  simp

theorem linkEvent_eq_false {links : Quad Link} (h : ∀ l, (links.get l).raised = false)
    (watch : BitVec 4) : linkEvent links watch = false := by
  have h0 : links.q0.raised = false := h 0
  have h1 : links.q1.raised = false := h 1
  have h2 : links.q2.raised = false := h 2
  have h3 : links.q3.raised = false := h 3
  unfold linkEvent
  rw [h0, h1, h2, h3]
  simp

theorem messagesSettled_softReset (s : State) : MessagesSettled (softReset s) := by
  intro c _ _
  have hk : (softReset s).client c = (s.client c).softReset := Quad.get_map _ _ _
  unfold State.notify
  rw [hk]
  refine notify_eq_false_of_causes rfl (linkEvent_eq_false (fun l => ?_) _) rfl
  show ((s.links.map Link.softReset).get l).raised = false
  rw [Quad.get_map]
  simp [Link.raised, Link.softReset, Link.reset]

theorem messagesSettled_hardwareReset (s : State) : MessagesSettled (hardwareReset s) := by
  intro c hmode _
  have hk : (hardwareReset s).client c = Client.reset := Quad.get_all _ _
  rw [hk] at hmode
  cases hmode

theorem MessagesSettled.enable (hs : MessagesSettled s) (l : LinkId) :
    MessagesSettled (enableLink l s) := by
  unfold enableLink
  dsimp only
  split
  · split
    · exact messagesSettled_settle _
    · exact MessagesSettled.modifyLink
        (rejoin_keeps (P := MessagesSettled) (fun _ _ hp => hp) (s.pollList l) hs)
        (beginRound_flags _ l _)
  · exact hs

theorem MessagesSettled.disable (hs : MessagesSettled s) (l : LinkId) :
    MessagesSettled (disableLink l s) := by
  unfold disableLink
  dsimp only
  split
  · exact hs
  · exact messagesSettled_settle _

theorem messagesSettled_ends (l : LinkId) (x : Exchange) (o : ExchangeOutcome) (s : State) :
    MessagesSettled (endExchange l x o s) := by
  rw [endExchange_quieted]
  exact messagesSettled_settle _

theorem MessagesSettled.rate (hs : MessagesSettled s) (l : LinkId) (v : Word) :
    MessagesSettled (rateWrite l v s) := by
  unfold rateWrite
  dsimp only
  split
  · exact messagesSettled_settle _
  · exact hs.modifyLink ⟨rfl, rfl⟩

/-- R104: a write of STATUS clears flags. -/
theorem MessagesSettled.status (hs : MessagesSettled s) (l : LinkId) (v : Word) :
    MessagesSettled (statusWrite l v s) := by
  have hraised (m : LinkId) : ((statusWrite l v s).link m).raised = true → (s.link m).raised = true := by
    unfold statusWrite
    rw [State.link_modifyLink]
    split
    · rename_i hm
      subst hm
      simp only [Link.raised, bne_iff_ne, ne_eq]
      refine mt (fun h => ?_)
      have hcomm : (s.link m).status &&& ~~~(v.extractLsb' 0 11) &&& (s.link m).mask =
          ((s.link m).status &&& (s.link m).mask) &&& ~~~(v.extractLsb' 0 11) := by
        rw [BitVec.and_assoc, BitVec.and_comm (~~~_), BitVec.and_assoc]
      rw [hcomm, h]
      simp
    · exact id
  have hevent (w : BitVec 4) : linkEvent (statusWrite l v s).links w = true → linkEvent s.links w = true := by
    have h0 : (statusWrite l v s).links.q0.raised = true → s.links.q0.raised = true := hraised 0
    have h1 : (statusWrite l v s).links.q1.raised = true → s.links.q1.raised = true := hraised 1
    have h2 : (statusWrite l v s).links.q2.raised = true → s.links.q2.raised = true := hraised 2
    have h3 : (statusWrite l v s).links.q3.raised = true → s.links.q3.raised = true := hraised 3
    simp only [linkEvent, Bool.or_eq_true, Bool.and_eq_true]
    exact Or.imp (Or.imp (Or.imp (And.imp id h0) (And.imp id h1)) (And.imp id h2)) (And.imp id h3)
  intro c hmode harmed
  exact notify_mono rfl (causes_imp id (hevent _) ⟨id, id, id, id, id⟩) (hs c hmode harmed)

theorem MessagesSettled.completion (hs : MessagesSettled s) (h : Nat) :
    MessagesSettled (expireSlot h s) := by
  unfold expireSlot
  split
  · exact hs
  split
  · exact messagesSettled_settle _
  · exact hs

theorem MessagesSettled.visit (hs : MessagesSettled s) (l : LinkId) :
    MessagesSettled (visitStart l s) := by
  unfold visitStart
  dsimp only
  repeat' split
  all_goals first
    | exact hs
    | exact hs.decision l
    | exact hs.modifyLink ⟨rfl, rfl⟩

theorem MessagesSettled.startCommand (hs : MessagesSettled s) (l : LinkId) (h : Nat) :
    MessagesSettled (startCommand l h s) := by
  unfold Machine.startCommand
  split
  · exact hs
  split
  · have hclients (b : Nat) (tags : Table TagUse) (f : Slot → Slot) :
        (((dequeue h s).setTagSet b tags).modifySlot h f).clients = s.clients := by simp
    have hlinks (b : Nat) (tags : Table TagUse) (f : Slot → Slot) :
        (((dequeue h s).setTagSet b tags).modifySlot h f).links = s.links := by simp
    exact MessagesSettled.modifyLink (hs.same (hclients _ _ _) (hlinks _ _ _)) ⟨rfl, rfl⟩
  · exact hs

theorem MessagesSettled.command (hs : MessagesSettled s) (l : LinkId) :
    MessagesSettled (commandExchangeStart l s) := by
  unfold commandExchangeStart
  dsimp only
  split
  · split
    · split
      · exact hs.startCommand l _
      · exact hs.decision l
    · exact hs.decision l
  · exact hs

theorem MessagesSettled.frame (hs : MessagesSettled s) (l : LinkId) :
    MessagesSettled (frameSent l s) := by
  unfold frameSent
  split
  · exact hs.modifyLink ⟨rfl, rfl⟩
  · exact hs

theorem MessagesSettled.response (hs : MessagesSettled s) (l : LinkId) :
    MessagesSettled (responseExpiry l s) := by
  unfold responseExpiry
  split
  · exact messagesSettled_ends _ _ _ _
  · exact hs

theorem MessagesSettled.gapExpiry (hs : MessagesSettled s) (l : LinkId) :
    MessagesSettled (gapExpiry l s) := by
  unfold Machine.gapExpiry
  repeat' split
  all_goals first
    | exact hs
    | exact messagesSettled_ends _ _ _ _

theorem MessagesSettled.receive (hs : MessagesSettled s) (l : LinkId) (x : Exchange) (rx : Receiver)
    (data : Byte) (mark stop : Bool) : MessagesSettled (receiveCharacter l x rx data mark stop s) := by
  unfold receiveCharacter
  dsimp only
  split
  · exact messagesSettled_ends _ _ _ _
  · exact hs.modifyLink ⟨rfl, rfl⟩

theorem MessagesSettled.character (hs : MessagesSettled s) (l : LinkId) (data : Byte) (mark stop : Bool) :
    MessagesSettled (characterReceived l data mark stop s) := by
  unfold characterReceived
  split
  · exact hs
  · exact hs
  · exact hs.receive l _ _ data mark stop
  · exact hs.receive l _ _ data mark stop
  · exact hs.modifyLink ⟨rfl, rfl⟩

theorem MessagesSettled.startBit (hs : MessagesSettled s) (l : LinkId) (a b : Bool) :
    MessagesSettled (startBit l a b s) := by
  unfold Machine.startBit
  dsimp only
  repeat' split
  all_goals first
    | exact hs
    | exact hs.response l
    | exact hs.modifyLink ⟨rfl, rfl⟩

theorem MessagesSettled.quiet (hs : MessagesSettled s) (l : LinkId) :
    MessagesSettled (quietExpiry l s) := by
  unfold quietExpiry
  split
  · exact hs.decision l
  · exact hs

theorem MessagesSettled.pollGap (hs : MessagesSettled s) (l : LinkId) :
    MessagesSettled (pollGapExpiry l s) := by
  have hexpired : MessagesSettled (s.modifyLink l (fun k => { k with pollGap := .expired })) :=
    hs.modifyLink ⟨rfl, rfl⟩
  unfold pollGapExpiry
  split
  · split
    · dsimp only
      split
      · exact hexpired
      · exact hexpired.decision l
    · exact hs
  · exact hs
  · exact hs

theorem MessagesSettled.messageStart (hs : MessagesSettled s) : MessagesSettled (messageWriteStart s) := by
  unfold messageWriteStart
  split
  · rename_i c _ _
    have hflight : MessagesSettled (s.modifyClient c (fun k => { k with msgInFlight := true })) :=
      hs.modifyClient rfl rfl id
    exact hflight.same (by simp) (by simp)
  · exact hs

/-- R133: the end of a transaction hands its status on and settles, or is ignored. -/
theorem MessagesSettled.endTransaction (hs : MessagesSettled s) (t : Transaction) (e : Option WriteError) :
    MessagesSettled (endTransaction t e s) := by
  unfold Machine.endTransaction
  dsimp only
  split
  · exact hs
  · exact messagesSettled_settle _

theorem MessagesSettled.busEnd (hs : MessagesSettled s) (a : Bool) (e : EndStatus) :
    MessagesSettled (busEnd a e s) := by
  unfold Machine.busEnd
  repeat' split
  all_goals first
    | exact hs
    | exact hs.endTransaction _ _

theorem MessagesSettled.busTimeout (hs : MessagesSettled s) : MessagesSettled (busTimeout s) := by
  unfold Machine.busTimeout
  split
  · exact hs.endTransaction _ _
  · exact hs

theorem MessagesSettled.meanings : Meanings (fun s t => MessagesSettled s → MessagesSettled t) where
  idle := fun _ hs => hs
  take := fun _ c isKind f _ hs => messagesSettled_take hs c isKind f
  submit := fun _ c v hs => hs.submit c v
  respRead := fun _ c i hs => hs.respRead c i
  pop := fun _ c hs => hs.pop c
  causeRead := fun _ c hs => hs.causeRead c
  lowRead := fun _ hs => hs
  causeWrite := fun _ c v hs => hs.causeWrite c v
  causeMask := fun _ _ _ _ => messagesSettled_settle _
  linkWatch := fun _ _ _ _ => messagesSettled_settle _
  irqMode := fun _ _ _ _ => messagesSettled_settle _
  msgAddr := fun _ _ _ _ => messagesSettled_settle _
  msgData := fun _ _ _ _ => messagesSettled_settle _
  msgKey := fun _ _ _ _ => messagesSettled_settle _
  clientReset := fun _ _ _ => messagesSettled_settle _
  stage := fun _ c i v hs => hs.stage c i v
  softReset := fun s _ => messagesSettled_softReset s
  hardwareReset := fun s _ => messagesSettled_hardwareReset s
  release := fun s hs => by
    unfold resetNRelease
    split
    · exact hs
    · exact hs
  tick := fun _ hs => hs
  enable := fun _ l hs => hs.enable l
  disable := fun _ l hs => hs.disable l
  rate := fun _ l v hs => hs.rate l v
  timing := fun _ _ _ hs => hs.modifyLink ⟨rfl, rfl⟩
  poll := fun _ _ _ hs => hs.modifyLink ⟨rfl, rfl⟩
  status := fun _ l v hs => hs.status l v
  mask := fun _ _ _ _ => messagesSettled_settle _
  busConfig := fun _ _ hs => hs
  freshness := fun _ _ hs => hs.same (by simp) (by simp)
  completion := fun _ k hs => hs.completion k
  visit := fun _ l hs => hs.visit l
  command := fun _ l hs => hs.command l
  frameSent := fun _ l hs => hs.frame l
  response := fun _ l hs => hs.response l
  character := fun _ l data mark stop hs => hs.character l data mark stop
  gap := fun _ l hs => hs.gapExpiry l
  quiet := fun _ l hs => hs.quiet l
  pollGap := fun _ l hs => hs.pollGap l
  startBit := fun _ l a b hs => hs.startBit l a b
  mirrorStart := fun _ hs => hs.same (by simp) (by simp)
  messageStart := fun _ hs => hs.messageStart
  grant := fun _ hs => hs.same (by simp) (by simp)
  ungrant := fun _ hs => hs
  accept := fun _ hs => hs.same (by simp) (by simp)
  busEnd := fun _ a e hs => hs.busEnd a e
  busTimeout := fun _ hs => hs.busTimeout

end

/-- Settles O54: every meaning settles the windows, or raises no cause. -/
theorem stepKeepsMessagesSettled : Obligations.StepKeepsMessagesSettled :=
  fun _ _ hs ht => MessagesSettled.meanings.keeps (fun _ _ hp => hp) hs ht

end Sys2Proof.Machine
end


section
/-! Every step keeps the law of the bindings and of the Mirror Update Queue (O52). -/

namespace Sys2Proof.Machine

theorem mem_without {xs : List Nat} {h k : Nat} : k ∈ without xs h ↔ k ∈ xs ∧ k ≠ h := by
  simp [without]

theorem without_nodup {xs : List Nat} (hn : xs.Nodup) (h : Nat) : (without xs h).Nodup := hn.filter _

/-! ## The end of a mirror write -/

/-- R59, R60: the end of a binding's write clears its in-flight flag. -/
def Binding.landed (r : Binding) : Binding := { r with inFlight := false }

/-- R60: an ACTIVE binding whose write failed. -/
def suspendLanded (b : Nat) (e : WriteError) (s : State) : State :=
  (unqueueBinding b (s.modifyBinding b Binding.landed)).modifyBinding b (fun r =>
    { r with state := .suspended, fault := some e })

theorem mirrorEndOk_keeps {P : State → Prop} {s : State} {b : Nat} {final : Bool}
    (hclear : (∀ r, s.bindings.find b = some r → r.state ≠ .detaching) →
      P (s.modifyBinding b Binding.landed))
    (hfree : ∀ r, s.bindings.find b = some r → P (freeBinding b (s.modifyBinding b Binding.landed))) :
    P (mirrorEndOk b final s) := by
  have hfind : (s.modifyBinding b Binding.landed).bindings.find b = (s.bindings.find b).map Binding.landed :=
    Table.find_modify_same _ _ _
  unfold mirrorEndOk
  dsimp only
  split
  · rename_i hn
    refine hclear fun r hr => ?_
    cases hfind.symm.trans hn ▸ congrArg (Option.map Binding.landed) hr
  · rename_i q hq
    obtain ⟨r, hr, rfl⟩ := Option.map_eq_some_iff.mp (hfind.symm.trans hq)
    have hother (hd : r.state ≠ .detaching) : P (s.modifyBinding b Binding.landed) :=
      hclear fun p hp => by rwa [← Option.some.inj (hr.symm.trans hp)]
    split
    · rename_i hstate
      exact hother (fun hd => by cases hstate.symm.trans hd)
    · rename_i hstate
      exact hother (fun hd => by cases hstate.symm.trans hd)
    · rename_i hstate
      split
      · exact hfree r hr
      · exact hother (fun hd => by cases hstate.symm.trans hd)
    · exact hfree r hr

theorem mirrorEndError_keeps {P : State → Prop} {s : State} {b : Nat} {e : WriteError}
    (hclear : (∀ r, s.bindings.find b = some r → r.state ≠ .detaching) →
      P (s.modifyBinding b Binding.landed))
    (hfree : ∀ r, s.bindings.find b = some r → P (freeBinding b (s.modifyBinding b Binding.landed)))
    (hsuspend : ∀ r, s.bindings.find b = some r → r.state = .active →
      P (setSticky r.client .mirrorFault (suspendLanded b e s))) : P (mirrorEndError b e s) := by
  have hfind : (s.modifyBinding b Binding.landed).bindings.find b = (s.bindings.find b).map Binding.landed :=
    Table.find_modify_same _ _ _
  unfold mirrorEndError
  dsimp only
  split
  · rename_i hn
    refine hclear fun r hr => ?_
    cases hfind.symm.trans hn ▸ congrArg (Option.map Binding.landed) hr
  · rename_i q hq
    obtain ⟨r, hr, rfl⟩ := Option.map_eq_some_iff.mp (hfind.symm.trans hq)
    split
    · rename_i hstate
      exact hsuspend r hr hstate
    · rename_i hstate
      exact hclear fun p hp => by
        rw [← Option.some.inj (hr.symm.trans hp)]
        exact fun hd => by cases hstate.symm.trans hd
    · exact hfree r hr
    · exact hfree r hr

/-! ## The law -/

/-- The binding law but for the lawfulness and the in-flight flag of one binding: what holds between the end
of its write and the free of the binding, or the clearing of its flag. -/
structure MirrorLawBut (b : Nat) (s : State) : Prop where
  bindings : ∀ k r, k ≠ b → s.bindings.find k = some r → r.Lawful
  nodup : s.mirrorQueue.Nodup
  queued : ∀ k, k ≠ b → k ∈ s.mirrorQueue →
    ∃ r, s.bindings.find k = some r ∧ (r.state = .active ∨ r.state = .closing)
  inFlight : ∀ k r, k ≠ b → s.bindings.find k = some r → r.inFlight = true → s.mirrorInFlight k

section

variable {s t : State}

theorem State.mirrorInFlight_congr (h : t.mwm.phase.transaction = s.mwm.phase.transaction) (b : Nat) :
    t.mirrorInFlight b ↔ s.mirrorInFlight b := by
  unfold State.mirrorInFlight
  rw [h]

theorem MirrorLaw.congr (hs : MirrorLaw s) (hb : t.bindings = s.bindings)
    (hq : t.mirrorQueue = s.mirrorQueue)
    (hm : t.mwm.phase.transaction = s.mwm.phase.transaction) : MirrorLaw t where
  bindings := by rw [hb]; exact hs.bindings
  nodup := by rw [hq]; exact hs.nodup
  queued := by rw [hb, hq]; exact hs.queued
  inFlight := fun b r => by
    rw [hb, State.mirrorInFlight_congr hm]
    exact hs.inFlight b r

theorem MirrorLaw.but (hs : MirrorLaw s) (b : Nat) : MirrorLawBut b s where
  bindings := fun k r _ hr => hs.bindings k r hr
  nodup := hs.nodup
  queued := fun k _ => hs.queued k
  inFlight := fun k r _ hr => hs.inFlight k r hr

/-- The binding concerned gets a record for which the law holds. -/
theorem MirrorLawBut.modifyBinding {b : Nat} (hs : MirrorLawBut b s) (f : Binding → Binding)
    (hlawful : ∀ r, s.bindings.find b = some r → (f r).Lawful)
    (hflight : ∀ r, s.bindings.find b = some r → (f r).inFlight = true → s.mirrorInFlight b)
    (hqueued : b ∈ s.mirrorQueue →
      ∃ r, s.bindings.find b = some r ∧ ((f r).state = .active ∨ (f r).state = .closing)) :
        MirrorLaw (s.modifyBinding b f) where
  bindings := fun k r hr => by
    rw [State.modifyBinding_bindings, Table.find_modify] at hr
    split at hr
    · rename_i hk
      obtain ⟨q, hq, rfl⟩ := Option.map_eq_some_iff.mp hr
      exact hlawful q hq
    · rename_i hk
      exact hs.bindings k r hk hr
  nodup := hs.nodup
  queued := fun k hk => by
    rw [State.modifyBinding_bindings, Table.find_modify]
    split
    · rename_i hkb
      subst hkb
      obtain ⟨r, hr, hstate⟩ := hqueued hk
      exact ⟨f r, by rw [hr]; rfl, hstate⟩
    · rename_i hkb
      exact hs.queued k hkb hk
  inFlight := fun k r hr hf => by
    rw [State.modifyBinding_bindings, Table.find_modify] at hr
    split at hr
    · rename_i hk
      obtain ⟨q, hq, rfl⟩ := Option.map_eq_some_iff.mp hr
      exact hk ▸ hflight q hq hf
    · rename_i hk
      exact hs.inFlight k r hk hr hf

/-- R51: the binding that is freed leaves table and queue. -/
theorem MirrorLawBut.freeBinding {b : Nat} {r : Binding} (hr : s.bindings.find b = some r)
    (hs : MirrorLawBut b s) : MirrorLaw (freeBinding b s) := by
  unfold Machine.freeBinding
  rw [hr]
  refine MirrorLaw.congr (s := unqueueBinding b { s with bindings := s.bindings.drop b }) ?_
    (by simp) (by simp) (by simp)
  have hfind {k : Nat} {q : Binding} (hq : (s.bindings.drop b).find k = some q) :
      k ≠ b ∧ s.bindings.find k = some q := by
    rw [Table.find_drop] at hq
    split at hq
    · cases hq
    · rename_i hk
      exact ⟨hk, hq⟩
  exact
    { bindings := fun k q hq => hs.bindings k q (hfind hq).1 (hfind hq).2
      nodup := without_nodup hs.nodup b
      queued := fun k hk => by
        obtain ⟨hk, hkb⟩ := mem_without.mp hk
        obtain ⟨q, hq, hstate⟩ := hs.queued k hkb hk
        exact ⟨q, (Table.find_drop_ne _ hkb).trans hq, hstate⟩
      inFlight := fun k q hq => hs.inFlight k q (hfind hq).1 (hfind hq).2 }

theorem MirrorLaw.freeBinding (b : Nat) (hs : MirrorLaw s) : MirrorLaw (freeBinding b s) := by
  cases hr : s.bindings.find b with
  | none => unfold Machine.freeBinding; rw [hr]; exact hs
  | some r => exact (hs.but b).freeBinding hr

theorem MirrorLaw.unqueue (b : Nat) (hs : MirrorLaw s) : MirrorLaw (unqueueBinding b s) where
  bindings := hs.bindings
  nodup := without_nodup hs.nodup b
  queued := fun k hk => hs.queued k (mem_without.mp hk).1
  inFlight := hs.inFlight

/-- R54: an ACTIVE or CLOSING binding takes the last place of the queue. -/
theorem MirrorLaw.queue {b : Nat} {r : Binding} (hr : s.bindings.find b = some r)
    (hstate : r.state = .active ∨ r.state = .closing) (hs : MirrorLaw s) : MirrorLaw (queueBinding b s) := by
  unfold queueBinding
  split
  · exact hs
  · rename_i hb
    exact
      { bindings := hs.bindings
        nodup := by
          refine List.nodup_append.mpr ⟨hs.nodup, List.nodup_singleton b, ?_⟩
          intro x hx y hy hxy
          rw [List.mem_singleton] at hy
          subst hy hxy
          exact hb (List.contains_iff_mem.mpr hx)
        queued := fun k hk => by
          rcases List.mem_append.mp hk with hk | hk
          · exact hs.queued k hk
          · rw [List.mem_singleton] at hk
            exact ⟨r, hk ▸ hr, hstate⟩
        inFlight := hs.inFlight }

theorem MirrorLaw.queueIfSelected (e : EventClass) (b : Nat) (hs : MirrorLaw s) :
    MirrorLaw (queueIfSelected e s b) := by
  unfold Machine.queueIfSelected
  split
  · exact hs
  · rename_i r hr
    split
    · rename_i hsel
      exact hs.queue hr (.inl hsel.1)
    · exact hs

theorem MirrorLaw.pointEvent (h : Nat) (e : EventClass) (hs : MirrorLaw s) :
    MirrorLaw (pointEvent h e s) := by
  unfold Machine.pointEvent
  split
  · exact hs
  · exact foldl_invariant MirrorLaw _ (fun _ b hp => hp.queueIfSelected e b) _ s hs

theorem MirrorLaw.closeBinding (b : Nat) (hs : MirrorLaw s) : MirrorLaw (closeBinding s b) := by
  unfold Machine.closeBinding
  split
  · exact hs
  rename_i r hr
  split
  · rename_i ha
    have hclosing : MirrorLaw (s.modifyBinding b (fun r => { r with state := .closing })) := by
      refine (hs.but b).modifyBinding _ (fun q hq => ?_) (fun q hq => hs.inFlight b q hq)
        (fun _ => ⟨r, hr, .inr rfl⟩)
      have hl := hs.bindings b q hq
      obtain rfl : r = q := Option.some.inj (hr.symm.trans hq)
      exact
        { suspended := fun hx => by cases hx
          detaching := fun hx => by cases hx
          fault := by rw [hl.fault, ha]; rfl }
    exact hclosing.queue (r := { r with state := .closing })
      (by rw [State.modifyBinding_bindings, Table.find_modify_same, hr]; rfl) (.inr rfl)
  · exact hs.freeBinding b
  · exact hs
  · exact hs

theorem MirrorLaw.finishSlot (h : Nat) (result : CommandResult) (code : Byte) (fate : TagFate)
    (hs : MirrorLaw s) : MirrorLaw (finishSlot h result code fate s) :=
  hs.congr (by simp) (by simp) (by simp)

theorem MirrorLaw.closeBindings (h : Nat) (hs : MirrorLaw s) : MirrorLaw (closeBindings h s) := by
  unfold Machine.closeBindings
  split
  · exact hs
  · exact foldl_invariant MirrorLaw _ (fun _ b hp => hp.closeBinding b) _ s hs

theorem MirrorLaw.testFree (h : Nat) (hs : MirrorLaw s) : MirrorLaw (testFree h s) :=
  hs.congr (by simp) (by simp) (by simp)

theorem MirrorLaw.retire (h : Nat) (p : Point) (hs : MirrorLaw s) : MirrorLaw (retireRecord h p s) := by
  have hput : MirrorLaw { s with points := s.points.put h p.retire } := hs.congr rfl rfl rfl
  unfold retireRecord
  refine MirrorLaw.testFree _ (MirrorLaw.closeBindings _ ?_)
  split
  · exact hput
  · exact retireCommand_keeps (fun k result code fate hp => hp.finishSlot k result code fate)
      (fun _ _ _ hp => hp.congr rfl rfl rfl)
      (fun _ hp => hp.congr rfl rfl rfl) _ hput

/-- A new binding is at a FREE handle, so it is in the queue once it is placed. -/
theorem MirrorLaw.place {b : Nat} {r : Binding} (hfree : s.bindings.find b = none) (hr : r.Lawful)
    (hstate : r.state = .active) (hflight : r.inFlight = false) (hs : MirrorLaw s) :
    MirrorLaw (placeBinding b r s) := by
  refine MirrorLaw.queue (r := r) (Table.find_put_same _ b r) (.inl hstate) ?_
  have hfind {k : Nat} {q : Binding} (hq : (s.bindings.put b r).find k = some q) :
      q = r ∨ s.bindings.find k = some q := by
    rw [Table.find_put] at hq
    split at hq
    · exact .inl (Option.some.inj hq).symm
    · exact .inr hq
  exact
    { bindings := Table.All.put hs.bindings hr
      nodup := hs.nodup
      queued := fun k hk => by
        obtain ⟨q, hq, hqs⟩ := hs.queued k hk
        refine ⟨q, (Table.find_put_ne _ _ ?_).trans hq, hqs⟩
        rintro rfl
        rw [hfree] at hq
        cases hq
      inFlight := fun k q hq hf => by
        rcases hfind hq with rfl | hq
        · rw [hflight] at hf
          cases hf
        · exact hs.inFlight k q hq hf }

theorem Binding.lawful_new (point : Nat) (client : ClientId) (key : BitVec 4) (address : Word)
    (trigger : Trigger) : (newBinding point client key address trigger).Lawful where
  suspended := fun hx => by cases hx
  detaching := fun hx => by cases hx
  fault := rfl

/-- R56: while the MWM is IDLE no write is in flight. -/
theorem MirrorLaw.quiet (hs : MirrorLaw s) (hidle : s.mwm.phase.transaction = none) {b : Nat} {r : Binding}
    (hr : s.bindings.find b = some r) : r.inFlight = false := by
  rw [Bool.eq_false_iff]
  intro hf
  obtain ⟨t, -, ht, -⟩ := hs.inFlight b r hr hf
  rw [hidle] at ht
  cases ht

theorem MirrorLaw.start {b : Nat} {rest : List Nat} {r : Binding} (p : Point)
    (hidle : s.mwm.phase.transaction = none) (hq : s.mirrorQueue = b :: rest)
    (hr : s.bindings.find b = some r) (hs : MirrorLaw s) : MirrorLaw (startMirror b r p s) := by
  have hstate : r.state = .active ∨ r.state = .closing := by
    obtain ⟨q, hb, hstate⟩ := hs.queued b (hq ▸ List.mem_cons_self)
    rw [hr] at hb
    cases hb
    exact hstate
  have hbut : MirrorLawBut b (startTransaction (.mirror b (r.state == .closing)) r.address r.key
      (mirrorWriteKind s.mwm.lineSize) (mirrorRecord r.point p (r.sequence + 1)) (unqueueBinding b s)) :=
    { bindings := fun k q _ hk => hs.bindings k q hk
      nodup := without_nodup hs.nodup b
      queued := fun k _ => (hs.unqueue b).queued k
      inFlight := fun k q _ hk hf => by
        rw [hs.quiet hidle hk] at hf
        cases hf }
  refine MirrorLaw.congr (hbut.modifyBinding
    (fun q => { q with inFlight := true, sequence := r.sequence + 1 }) (fun q hk => ?_)
    (fun _ _ _ => ⟨_, _, rfl, rfl, rfl⟩) (fun hm => absurd rfl (mem_without.mp hm).2)) rfl rfl rfl
  obtain rfl : r = q := Option.some.inj (hr.symm.trans hk)
  have hl := hs.bindings b r hr
  exact
    { suspended := fun hx => by rcases hstate with h | h <;> rw [h] at hx <;> cases hx
      detaching := fun _ => rfl
      fault := hl.fault }

/-- R128: a message write starts while the MWM is IDLE. -/
theorem MirrorLaw.messageStart (hs : MirrorLaw s) : MirrorLaw (messageWriteStart s) := by
  unfold messageWriteStart
  split
  · rename_i c hidle _
    exact
      { bindings := hs.bindings
        nodup := hs.nodup
        queued := hs.queued
        inFlight := fun b r hr hf => by
          rw [hs.quiet (by rw [hidle]; rfl) hr] at hf
          cases hf }
  · exact hs

theorem MirrorLaw.mirrorStart (hs : MirrorLaw s) : MirrorLaw (mirrorWriteStart s) := by
  unfold mirrorWriteStart
  split
  · rename_i b rest hidle _ hq
    split
    · exact hs
    split
    · exact hs
    · exact hs.start _ (by rw [hidle]; rfl) hq ‹_›
  · exact hs

/-- R56, R58: while a message write is in flight, or none, no binding's write is. -/
theorem MirrorLaw.flags_clear (hs : MirrorLaw s)
    (hno : ∀ b, ¬ s.mirrorInFlight b) {b : Nat} {r : Binding} (hr : s.bindings.find b = some r) :
    r.inFlight = false := by
  rw [Bool.eq_false_iff]
  exact fun hf => hno b (hs.inFlight b r hr hf)

theorem MirrorLaw.idle (hs : MirrorLaw s) (hno : ∀ b, ¬ s.mirrorInFlight b) :
    MirrorLaw (setPhase .idle s) where
  bindings := hs.bindings
  nodup := hs.nodup
  queued := hs.queued
  inFlight := fun b r hr hf => by
    rw [hs.flags_clear hno hr] at hf
    cases hf

/-- R135: the write of binding `b` is over. -/
theorem MirrorLaw.idleBut (hs : MirrorLaw s) {b : Nat} (hno : ∀ k, k ≠ b → ¬ s.mirrorInFlight k) :
    MirrorLawBut b (setPhase .idle s) where
  bindings := fun k r _ hr => hs.bindings k r hr
  nodup := hs.nodup
  queued := fun k _ => hs.queued k
  inFlight := fun k r hk hr hf => absurd (hs.inFlight k r hr hf) (hno k hk)

/-- R59, R60: a binding whose write is over is freed whatever its record says. -/
theorem MirrorLawBut.endAndFree {b : Nat} {r : Binding} (f : Binding → Binding)
    (hr : s.bindings.find b = some r) (hs : MirrorLawBut b s) :
    MirrorLaw (Machine.freeBinding b (s.modifyBinding b f)) := by
  have hfind {k : Nat} (hk : k ≠ b) : (s.modifyBinding b f).bindings.find k = s.bindings.find k :=
    Table.find_modify_ne _ _ hk
  refine MirrorLawBut.freeBinding (r := f r)
    (by rw [State.modifyBinding_bindings, Table.find_modify_same, hr]; rfl)
    { bindings := fun k q hk hq => hs.bindings k q hk (hfind hk ▸ hq)
      nodup := hs.nodup
      queued := fun k hk hq => ?_
      inFlight := fun k q hk hq => hs.inFlight k q hk (hfind hk ▸ hq) }
  rw [hfind hk]
  exact hs.queued k hk hq

/-- R59, R60: the write of a binding that is not DETACHING is over. -/
theorem MirrorLaw.endAndClear {b : Nat} (hs : MirrorLaw s) (hno : ∀ k, k ≠ b → ¬ s.mirrorInFlight k)
    (hstate : ∀ r, s.bindings.find b = some r → r.state ≠ .detaching) :
    MirrorLaw ((setPhase .idle s).modifyBinding b Binding.landed) := by
  refine (hs.idleBut hno).modifyBinding _ (fun r hr => ?_) (fun _ _ hf => by cases hf) (hs.queued b)
  exact
    { suspended := fun _ => rfl
      detaching := fun hx => absurd hx (hstate r hr)
      fault := (hs.bindings b r hr).fault }

theorem MirrorLaw.endAndSuspend {b : Nat} {r : Binding} (e : WriteError)
    (hr : s.bindings.find b = some r) (hstate : r.state = .active) (hs : MirrorLaw s)
    (hno : ∀ k, k ≠ b → ¬ s.mirrorInFlight k) : MirrorLaw (suspendLanded b e (setPhase .idle s)) := by
  have hclear := hs.endAndClear hno (fun q hq => by
    rw [Option.some.inj (hq.symm.trans hr), hstate]
    exact fun h => by cases h)
  refine ((hclear.unqueue b).but b).modifyBinding _ (fun q hq => ?_) (fun q hq hf => ?_)
    (fun hm => absurd rfl (mem_without.mp hm).2)
  · have hq' : ((setPhase .idle s).bindings.modify b Binding.landed).find b = some q := hq
    rw [Table.find_modify_same] at hq'
    obtain ⟨_, _, rfl⟩ := Option.map_eq_some_iff.mp hq'
    exact
      { suspended := fun _ => rfl
        detaching := fun hx => by cases hx
        fault := rfl }
  · exact hclear.inFlight b q hq hf

theorem MirrorLaw.handOn {t : Transaction} (ht : s.mwm.phase.transaction = some t) (e : Option WriteError)
    (hs : MirrorLaw s) : MirrorLaw (handOn t.owner e (setPhase .idle s)) := by
  cases ho : t.owner with
  | message c =>
    have hno (b : Nat) : ¬ s.mirrorInFlight b := by
      rintro ⟨u, final, hu, hown, -⟩
      obtain rfl : t = u := Option.some.inj (ht.symm.trans hu)
      rw [ho] at hown
      cases hown
    exact (hs.idle hno).congr rfl rfl rfl
  | mirror b final =>
    have hno (k : Nat) (hk : k ≠ b) : ¬ s.mirrorInFlight k := by
      rintro ⟨u, final, hu, hown, -⟩
      obtain rfl : t = u := Option.some.inj (ht.symm.trans hu)
      rw [ho] at hown
      cases hown
      exact hk rfl
    have hclear := hs.endAndClear hno
    cases e with
    | none =>
      exact mirrorEndOk_keeps (s := setPhase .idle s) hclear
        (fun r hr => (hs.idleBut hno).endAndFree _ hr)
    | some e =>
      exact mirrorEndError_keeps (s := setPhase .idle s) hclear
        (fun r hr => (hs.idleBut hno).endAndFree _ hr)
        (fun r hr hstate => (MirrorLaw.endAndSuspend (s := s) e hr hstate hs hno).congr rfl rfl rfl)

theorem MirrorLaw.endTransaction {t : Transaction} (ht : s.mwm.phase.transaction = some t)
    (e : Option WriteError) (hs : MirrorLaw s) : MirrorLaw (endTransaction t e s) := by
  unfold Machine.endTransaction
  dsimp only
  split
  · rename_i hi
    refine hs.idle ?_
    rintro b ⟨u, final, hu, -, hfalse⟩
    obtain rfl : t = u := Option.some.inj (ht.symm.trans hu)
    rw [hi] at hfalse
    cases hfalse
  · exact (hs.handOn ht e).congr rfl rfl rfl

theorem MirrorLaw.empty (hb : s.bindings = ⟨[]⟩) (hq : s.mirrorQueue = []) : MirrorLaw s where
  bindings := by rw [hb]; exact Table.All.empty _
  nodup := by rw [hq]; exact List.nodup_nil
  queued := fun b h => by rw [hq] at h; cases h
  inFlight := fun b r h => by rw [hb] at h; cases h

theorem MirrorLaw.kept : KeptByPieces MirrorLaw where
  core := fun hc hs => hs.congr hc.bindings hc.mirrorQueue (by rw [hc.mwm])
  anyLink := fun _ hs => hs.congr rfl rfl rfl
  phase := fun hm hs => hs.congr rfl rfl hm
  point := fun _ _ hs => hs.congr rfl rfl rfl
  event := fun h e hs => hs.pointEvent h e
  station := fun _ _ hs => hs.congr rfl rfl rfl
  leave := fun _ _ hs => hs.congr rfl rfl rfl
  leaveAll := fun l hs => hs.congr (freeStations_keeps State.bindings (fun _ _ => rfl) _ _)
    (freeStations_keeps State.mirrorQueue (fun _ _ => rfl) _ _)
    (freeStations_keeps (fun s => s.mwm.phase.transaction) (fun _ _ => rfl) _ _)
  finish := fun k result code fate hs => hs.finishSlot k result code fate
  slot := fun _ _ _ hs => hs.congr rfl rfl rfl
  dequeue := fun _ hs => hs.congr rfl rfl rfl
  freeTag := fun _ _ hs => hs.congr (by simp) (by simp) (by simp)
  freeAllTags := fun _ hs => hs.congr (by simp) (by simp) (by simp)
  takeTag := fun _ _ _ hs => hs.congr (by simp) (by simp) (by simp)
  softReset := fun _ => MirrorLaw.empty rfl rfl
  hardwareReset := fun _ => MirrorLaw.empty rfl rfl
  addStation := fun _ _ _ _ _ _ hs => hs.congr (by simp) (by simp) (by simp)
  removeStation := fun _ _ _ hs => hs.congr (by simp) (by simp) (by simp)
  createPoint := fun _ _ _ _ _ _ _ _ hs => hs.congr rfl rfl rfl
  retirePoint := fun _ _ hs => hs.retire _ _
  bind := fun _ _ _ _ _ _ _ hb hs =>
    hs.place (Table.lowestFree_spec hb).1 (Binding.lawful_new _ _ _ _ _) rfl rfl
  detach := fun {_ b r} hb hstate hf hs => by
    refine ((hs.unqueue b).but b).modifyBinding _ (fun q hq => ?_)
      (fun q hq hf => hs.inFlight b q hq hf) (fun hm => absurd rfl (mem_without.mp hm).2)
    obtain rfl : r = q := Option.some.inj (hb.symm.trans hq)
    exact
      { suspended := fun hx => by cases hx
        detaching := fun _ => hf
        fault := rfl }
  unbind := fun _ _ _ hs => hs.freeBinding _
  resume := fun {_ b r} hb hstate hs => by
    refine MirrorLaw.queue (r := { r with state := .active, fault := none })
      (by rw [State.modifyBinding_bindings, Table.find_modify_same, hb]; rfl) (.inl rfl) ?_
    refine (hs.but b).modifyBinding _ (fun q hq => ?_) (fun q hq hf => hs.inFlight b q hq hf)
      (fun _ => ⟨r, hb, .inl rfl⟩)
    exact
      { suspended := fun hx => by cases hx
        detaching := fun hx => by cases hx
        fault := rfl }
  sendCommand := fun _ _ _ _ _ _ _ _ _ _ hs => hs.congr (by simp) (by simp) (by simp)
  collect := fun _ _ hs => hs.congr rfl rfl rfl
  mirrorStart := fun hs => hs.mirrorStart
  messageStart := fun hs => hs.messageStart
  endTransaction := fun e ht hs => hs.endTransaction ht e

end

/-- Settles O52: the pieces of every command keep the law. -/
theorem stepKeepsMirrorLaw : Obligations.StepKeepsMirrorLaw :=
  fun _ _ hs ht => MirrorLaw.kept.keptByCore.step hs ht

end Sys2Proof.Machine
end


section
/-! Every step keeps the tables canonical and within their sizes (O56). -/

namespace Sys2Proof.Machine

/-! ## Tables of bounded size -/

section

variable {α : Type}

/-- A table in canonical form whose handles are below `n`. -/
structure Table.Bounded (t : Table α) (n : Nat) : Prop where
  canonical : t.Canonical
  handles : t.All (fun h _ => h < n)

variable {t : Table α} {n : Nat}

theorem Table.Bounded.put (ht : t.Bounded n) {h : Nat} (hh : h < n) (a : α) : (t.put h a).Bounded n :=
  ⟨ht.canonical.put h a, ht.handles.put hh⟩

theorem Table.Bounded.update (ht : t.Bounded n) {h : Nat} {a : α} (ha : t.find h = some a) (b : α) :
    (t.put h b).Bounded n := ht.put (ht.handles h a ha) b

theorem Table.Bounded.drop (ht : t.Bounded n) (h : Nat) : (t.drop h).Bounded n :=
  ⟨ht.canonical.drop h, ht.handles.drop h⟩

theorem Table.Bounded.modify (ht : t.Bounded n) (h : Nat) (f : α → α) : (t.modify h f).Bounded n :=
  ⟨ht.canonical.modify h f, ht.handles.modify (fun _ _ hh => hh)⟩

theorem Table.Bounded.empty : (⟨[]⟩ : Table α).Bounded n := ⟨Table.canonical_empty, Table.All.empty _⟩

/-- In rows ascending by handle, each row is the one its handle finds. -/
theorem findRow_of_mem {rows : List (Nat × α)} (hr : rows.Pairwise (fun a b => a.1 < b.1)) {r : Nat × α}
    (hm : r ∈ rows) : findRow rows r.1 = some r.2 := by
  induction hr with
  | nil => cases hm
  | @cons x rest hx _ ih =>
    unfold findRow
    rcases List.mem_cons.mp hm with rfl | hm
    · exact if_pos rfl
    · rw [if_neg (Nat.ne_of_lt (hx r hm))]
      exact ih hm

/-- R161: as many records as handles, at most. -/
theorem Table.Bounded.size_le (ht : t.Bounded n) : t.size ≤ n := by
  have hnodup : (t.rows.map Prod.fst).Nodup :=
    (List.pairwise_map.mpr ht.canonical).imp (fun h => Nat.ne_of_lt h)
  have hrange : t.rows.map Prod.fst ⊆ List.range n := by
    intro h hh
    obtain ⟨r, hr, rfl⟩ := List.mem_map.mp hh
    exact List.mem_range.mpr (ht.handles r.1 r.2 (findRow_of_mem ht.canonical hr))
  have hlength := (hnodup.subperm hrange).length_le
  rwa [List.length_map, List.length_range] at hlength

end

/-! ## The slots of a client -/

/-- R109: a row added counts once. -/
theorem countP_putRow_le {α : Type} (p : Nat × α → Bool) (h : Nat) (a : α) (rows : List (Nat × α)) :
    (putRow rows h a).countP p ≤ rows.countP p + if p (h, a) then 1 else 0 := by
  induction rows with
  | nil => simp [putRow, List.countP_cons]
  | cons x rest ih =>
    obtain ⟨k, b⟩ := x
    unfold putRow
    split
    · rw [List.countP_cons]
    split
    · rw [List.countP_cons, List.countP_cons]
      omega
    · rw [List.countP_cons, List.countP_cons]
      omega

/-- A row replaced by one that counts alike. -/
theorem countP_putRow_same {α : Type} {p : Nat × α → Bool} {h : Nat} {a b : α} {rows : List (Nat × α)}
    (hr : rows.Pairwise (fun a b => a.1 < b.1)) (hb : findRow rows h = some b) (hp : p (h, a) = p (h, b)) :
    (putRow rows h a).countP p = rows.countP p := by
  induction hr with
  | nil => cases hb
  | @cons x rest hx _ ih =>
    obtain ⟨k, c⟩ := x
    unfold findRow at hb
    unfold putRow
    split at hb
    · rename_i hk
      subst hk
      cases hb
      rw [if_neg (Nat.lt_irrefl k), if_pos rfl, List.countP_cons, List.countP_cons, hp]
    · rename_i hk
      have hlt : k < h := hx (h, b) (findRow_mem hb)
      rw [if_neg (Nat.lt_asymm hlt), if_neg (Ne.symm hk), List.countP_cons, List.countP_cons, ih hb]

/-- The records of a client in a slot table. -/
def ownSlots (t : Table Slot) (c : ClientId) : Nat := t.rows.countP (fun r => r.2.client == c)

theorem clientSlots_eq (s : State) (c : ClientId) : clientSlots s c = ownSlots s.slots c :=
  List.countP_eq_length_filter.symm

theorem ownSlots_update {t : Table Slot} (ht : t.Canonical) {h : Nat} {r q : Slot}
    (hr : t.find h = some r) (hq : q.client = r.client) (c : ClientId) :
    ownSlots (t.put h q) c = ownSlots t c :=
  countP_putRow_same ht hr (by rw [hq])

theorem ownSlots_drop_le (t : Table Slot) (h : Nat) (c : ClientId) :
    ownSlots (t.drop h) c ≤ ownSlots t c :=
  List.Sublist.countP_le List.filter_sublist

/-! ## The law -/

section

variable {s t : State}

/-- The tables' part of the slots: bounded, and at most 16 of each client. -/
structure SlotTable (t : Table Slot) : Prop where
  bounded : t.Bounded 32
  perClient : ∀ c, ownSlots t c ≤ 16

theorem SlotTable.update {t : Table Slot} (ht : SlotTable t) {h : Nat} {r q : Slot}
    (hr : t.find h = some r) (hq : q.client = r.client) : SlotTable (t.put h q) :=
  ⟨ht.bounded.update hr q, fun c => by
    rw [ownSlots_update ht.bounded.canonical hr hq]
    exact ht.perClient c⟩

theorem SlotTable.modify {t : Table Slot} (ht : SlotTable t) (h : Nat) {f : Slot → Slot}
    (hf : ∀ r, (f r).client = r.client) : SlotTable (t.modify h f) := by
  cases hr : t.find h with
  | none => rw [Table.modify_none _ _ hr]; exact ht
  | some r => rw [Table.modify_some _ _ hr]; exact ht.update hr (hf r)

theorem SlotTable.drop {t : Table Slot} (ht : SlotTable t) (h : Nat) : SlotTable (t.drop h) :=
  ⟨ht.bounded.drop h, fun c => (ownSlots_drop_le t h c).trans (ht.perClient c)⟩

/-- R109: a client with fewer than 16 slots gets one more. -/
theorem SlotTable.add {t : Table Slot} (ht : SlotTable t) {h : Nat} (hh : h < 32) {q : Slot}
    (hq : ownSlots t q.client < 16) : SlotTable (t.put h q) := by
  refine ⟨ht.bounded.put hh q, fun c => ?_⟩
  have hcount : ownSlots (t.put h q) c ≤ ownSlots t c + if (q.client == c) = true then 1 else 0 :=
    countP_putRow_le (fun r : Nat × Slot => r.2.client == c) h q t.rows
  split at hcount
  · rename_i hc
    rw [beq_iff_eq] at hc
    subst hc
    omega
  · exact hcount.trans (ht.perClient c)

theorem SlotTable.empty : SlotTable ⟨[]⟩ := ⟨Table.Bounded.empty, fun _ => Nat.zero_le _⟩

/-- R111: the table of tag sets and each of its sets. -/
structure TagTable (t : Table (Table TagUse)) : Prop where
  canonical : t.Canonical
  sets : t.All (fun _ u => u.Canonical)

theorem TagTable.put {t : Table (Table TagUse)} (ht : TagTable t) (h : Nat) {u : Table TagUse}
    (hu : u.Canonical) : TagTable (t.put h u) := ⟨ht.canonical.put h u, ht.sets.put hu⟩

theorem TagTable.drop {t : Table (Table TagUse)} (ht : TagTable t) (h : Nat) : TagTable (t.drop h) :=
  ⟨ht.canonical.drop h, ht.sets.drop h⟩

theorem TagTable.empty : TagTable ⟨[]⟩ := ⟨Table.canonical_empty, Table.All.empty _⟩

theorem TagTable.tagSet (ht : TagTable s.tagSets) (sid : Nat) : (s.tagSet sid).Canonical := by
  unfold State.tagSet
  cases hu : s.tagSets.find sid with
  | none => exact Table.canonical_empty
  | some u => exact ht.sets sid u hu

theorem TagTable.setTagSet (ht : TagTable s.tagSets) (sid : Nat) {u : Table TagUse} (hu : u.Canonical) :
    TagTable (s.setTagSet sid u).tagSets := by
  show TagTable (if u.rows.isEmpty then s.tagSets.drop sid else s.tagSets.put sid u)
  split
  · exact ht.drop sid
  · exact ht.put sid hu

/-- The law by its five tables. -/
structure FiveTables (s : State) : Prop where
  stations : s.stations.Bounded 256
  points : s.points.Bounded 1024
  bindings : s.bindings.Bounded 2048
  slots : SlotTable s.slots
  tagSets : TagTable s.tagSets

theorem tablesLaw_iff : TablesLaw s ↔ FiveTables s where
  mp := fun h =>
    { stations := ⟨h.stations.1, h.stations.2⟩
      points := ⟨h.points.1, h.points.2⟩
      bindings := ⟨h.bindings.1, h.bindings.2⟩
      slots := ⟨⟨h.slots.1, h.slots.2⟩, fun c => clientSlots_eq s c ▸ h.perClient c⟩
      tagSets := ⟨h.tagSets.1, h.tagSets.2⟩ }
  mpr := fun h =>
    { stations := ⟨h.stations.canonical, h.stations.handles⟩
      points := ⟨h.points.canonical, h.points.handles⟩
      bindings := ⟨h.bindings.canonical, h.bindings.handles⟩
      slots := ⟨h.slots.bounded.canonical, h.slots.bounded.handles⟩
      tagSets := ⟨h.tagSets.canonical, h.tagSets.sets⟩
      perClient := fun c => (clientSlots_eq s c).symm ▸ h.slots.perClient c }

theorem FiveTables.congr (hs : FiveTables s) (hstations : t.stations = s.stations)
    (hpoints : t.points = s.points) (hbindings : t.bindings = s.bindings) (hslots : t.slots = s.slots)
    (htags : t.tagSets = s.tagSets) : FiveTables t :=
  ⟨hstations ▸ hs.stations, hpoints ▸ hs.points, hbindings ▸ hs.bindings, hslots ▸ hs.slots,
    htags ▸ hs.tagSets⟩

theorem FiveTables.testFree (h : Nat) (hs : FiveTables s) : FiveTables (testFree h s) := by
  unfold Machine.testFree
  split
  · exact hs
  split
  · exact { hs with
      stations := hs.stations.modify _ _
      points := hs.points.drop h }
  · exact hs

theorem FiveTables.freeTag (sid tag : Nat) (hs : FiveTables s) : FiveTables (freeTag sid tag s) := by
  have hset : FiveTables (s.setTagSet sid ((s.tagSet sid).drop tag)) :=
    { hs with tagSets := hs.tagSets.setTagSet sid ((hs.tagSets.tagSet sid).drop tag) }
  exact hset.congr (by simp [Machine.freeTag]) (by simp [Machine.freeTag]) (by simp [Machine.freeTag])
    (by simp [Machine.freeTag]) (by simp [Machine.freeTag])

theorem FiveTables.setTag (sid tag : Nat) (u : TagUse) (hs : FiveTables s) :
    FiveTables (s.setTagSet sid ((s.tagSet sid).put tag u)) :=
  { hs with tagSets := hs.tagSets.setTagSet sid ((hs.tagSets.tagSet sid).put tag u) }

theorem FiveTables.releaseTag (r : Slot) (fate : TagFate) (hs : FiveTables s) :
    FiveTables (releaseTag r fate s) := by
  unfold Machine.releaseTag
  split
  · exact hs
  split
  · exact hs.freeTag _ _
  · exact hs.setTag _ _ _

theorem FiveTables.finishSlot (h : Nat) (result : CommandResult) (code : Byte) (fate : TagFate)
    (hs : FiveTables s) : FiveTables (finishSlot h result code fate s) := by
  cases hr : s.slots.find h with
  | none => rw [finishSlot_free hr]; exact hs
  | some r =>
    rw [finishSlot_eq hr]
    exact FiveTables.testFree _
      { stations := hs.stations
        points := hs.points.modify _ _
        bindings := hs.bindings
        slots := hs.slots.update hr rfl
        tagSets := (hs.releaseTag r fate).tagSets }

theorem FiveTables.freeBinding (b : Nat) (hs : FiveTables s) : FiveTables (freeBinding b s) := by
  unfold Machine.freeBinding
  split
  · exact hs
  · exact FiveTables.testFree _
      { hs with
        points := hs.points.modify _ _
        bindings := hs.bindings.drop b }

theorem FiveTables.modifyBinding (b : Nat) (f : Binding → Binding) (hs : FiveTables s) :
    FiveTables (s.modifyBinding b f) := { hs with bindings := hs.bindings.modify b f }

theorem FiveTables.queueBinding (b : Nat) (hs : FiveTables s) : FiveTables (queueBinding b s) :=
  hs.congr (by simp) (by simp) (by simp) (by simp) (by simp)

theorem FiveTables.closeBinding (b : Nat) (hs : FiveTables s) : FiveTables (closeBinding s b) := by
  unfold Machine.closeBinding
  split
  · exact hs
  split
  · exact (hs.modifyBinding b _).queueBinding b
  · exact hs.freeBinding b
  · exact hs
  · exact hs

theorem FiveTables.closeBindings (h : Nat) (hs : FiveTables s) : FiveTables (closeBindings h s) := by
  unfold Machine.closeBindings
  split
  · exact hs
  · exact foldl_invariant FiveTables _ (fun _ b hp => hp.closeBinding b) _ s hs

theorem FiveTables.modifySlot (h : Nat) {f : Slot → Slot} (hf : ∀ r, (f r).client = r.client)
    (hs : FiveTables s) : FiveTables (s.modifySlot h f) := { hs with slots := hs.slots.modify h hf }

theorem FiveTables.retire {h : Nat} {p : Point} (hp : s.points.find h = some p) (hs : FiveTables s) :
    FiveTables (retireRecord h p s) := by
  have hput : FiveTables { s with points := s.points.put h p.retire } :=
    { hs with points := hs.points.update hp _ }
  unfold retireRecord
  refine FiveTables.testFree _ (FiveTables.closeBindings _ ?_)
  split
  · exact hput
  · exact retireCommand_keeps (fun k result code fate hp => hp.finishSlot k result code fate)
      (fun h _ hf hp => hp.modifySlot h hf) (fun _ hp => hp.congr rfl rfl rfl rfl rfl) _ hput

theorem FiveTables.freeStation (sid : Nat) (hs : FiveTables s) : FiveTables (freeStation sid s) :=
  { hs with
    stations := hs.stations.drop sid
    tagSets := hs.tagSets.drop sid }

theorem FiveTables.freeAllTags (sid : Nat) (hs : FiveTables s) : FiveTables (freeAllTags sid s) := by
  have hdrop : FiveTables { s with tagSets := s.tagSets.drop sid } :=
    { hs with tagSets := hs.tagSets.drop sid }
  exact hdrop.congr (by simp) (by simp) (by simp) (by simp) (by simp [Machine.freeAllTags])

theorem FiveTables.remove (h : Nat) (st : Station) (hs : FiveTables s) :
    FiveTables (removeRecord h st s) := by
  have hleft : FiveTables (leavePollList h st.link (Machine.freeAllTags h s)) :=
    (hs.freeAllTags h).congr rfl rfl rfl rfl rfl
  unfold removeRecord
  dsimp only
  split
  · exact { hleft with stations := hleft.stations.modify _ _ }
  · exact hleft.freeStation h

theorem FiveTables.handOn (o : Owner) (e : Option WriteError) (hs : FiveTables s) :
    FiveTables (handOn o e s) := by
  unfold Machine.handOn
  split
  · exact mirrorEndOk_keeps (fun _ => hs.modifyBinding _ _)
      (fun _ _ => (hs.modifyBinding _ _).freeBinding _)
  · exact mirrorEndError_keeps (fun _ => hs.modifyBinding _ _)
      (fun _ _ => (hs.modifyBinding _ _).freeBinding _)
      (fun _ _ _ => FiveTables.congr (s := suspendLanded _ _ s)
        (FiveTables.modifyBinding _ _ ((hs.modifyBinding _ Binding.landed).congr rfl rfl rfl rfl rfl))
        rfl rfl rfl rfl rfl)
  · exact hs.congr rfl rfl rfl rfl rfl

theorem FiveTables.mirrorStart (hs : FiveTables s) : FiveTables (mirrorWriteStart s) := by
  unfold mirrorWriteStart
  split
  · split
    · exact hs
    split
    · exact hs
    · exact (hs.modifyBinding _ _).congr rfl rfl rfl rfl rfl
  · exact hs

theorem FiveTables.empty (hstations : s.stations = ⟨[]⟩) (hpoints : s.points = ⟨[]⟩)
    (hbindings : s.bindings = ⟨[]⟩) (hslots : s.slots = ⟨[]⟩) (htags : s.tagSets = ⟨[]⟩) :
    FiveTables s :=
  ⟨hstations ▸ Table.Bounded.empty, hpoints ▸ Table.Bounded.empty, hbindings ▸ Table.Bounded.empty,
    hslots ▸ SlotTable.empty, htags ▸ TagTable.empty⟩

theorem FiveTables.kept : KeptByPieces FiveTables where
  core := fun hc hs => hs.congr hc.stations hc.points hc.bindings hc.slots hc.tagSets
  anyLink := fun _ hs => hs.congr rfl rfl rfl rfl rfl
  phase := fun _ hs => hs.congr rfl rfl rfl rfl rfl
  point := fun hp _ hs => { hs with points := hs.points.update hp _ }
  event := fun _ _ hs => hs.congr (by simp) (by simp) (by simp) (by simp) (by simp)
  station := fun _ _ hs => { hs with stations := hs.stations.modify _ _ }
  leave := fun _ _ hs => hs.freeStation _
  leaveAll := fun _ hs => foldl_invariant FiveTables _ (fun _ sid hp => hp.freeStation sid) _ _ hs
  finish := fun k result code fate hs => hs.finishSlot k result code fate
  slot := fun h _ hf hs => hs.modifySlot h hf
  dequeue := fun _ hs => hs.congr rfl rfl rfl rfl rfl
  freeTag := fun sid tag hs => hs.freeTag sid tag
  freeAllTags := fun sid hs => hs.freeAllTags sid
  takeTag := fun sid tag h hs => hs.setTag sid tag (.held h)
  softReset := fun _ => FiveTables.empty rfl rfl rfl rfl rfl
  hardwareReset := fun _ => FiveTables.empty rfl rfl rfl rfl rfl
  addStation := fun {s l a limit h} _ _ _ _ _ hh hs => by
    have hput : FiveTables { s with stations := s.stations.put h (newStation (s.link l).running l a limit) } :=
      { hs with stations := hs.stations.put (Table.lowestFree_spec hh).2.1 _ }
    exact hput.congr (by simp [placeStation, newStation]) (by simp) (by simp) (by simp) (by simp)
  removeStation := fun _ _ _ hs => hs.remove _ _
  createPoint := fun _ _ _ _ _ _ _ hh hs =>
    { hs with
      stations := hs.stations.modify _ _
      points := hs.points.put (Table.lowestFree_spec hh).2.1 _ }
  retirePoint := fun hp _ hs => hs.retire hp
  bind := fun {_ _ _ b} _ _ _ _ _ _ _ hb hs =>
    FiveTables.queueBinding b
      { hs with
        points := hs.points.modify _ _
        bindings := hs.bindings.put (Table.lowestFree_spec hb).2.1 _ }
  detach := fun _ _ _ hs => FiveTables.modifyBinding _ _ (hs.congr rfl rfl rfl rfl rfl)
  unbind := fun _ _ _ hs => hs.freeBinding _
  resume := fun _ _ hs => (hs.modifyBinding _ _).queueBinding _
  sendCommand := fun {s h p st k} c hostTag value _ _ _ _ _ hcount hk hs => by
    rw [clientSlots_eq] at hcount
    have hput : FiveTables { s with
        points := s.points.modify h (fun p => { p with pendingCmd := some k })
        slots := s.slots.put k (newSlot c hostTag h p.station value) } :=
      { hs with
        points := hs.points.modify _ _
        slots := hs.slots.add (Table.lowestFree_spec hk).2.1 hcount }
    exact hput.congr (by simp) (by rw [placeSlot_points]; rfl) (by simp) (by simp [placeSlot]) (by simp)
  collect := fun _ _ hs => { hs with slots := hs.slots.drop _ }
  mirrorStart := fun hs => hs.mirrorStart
  messageStart := fun hs => hs.congr (by simp) (by simp) (by simp) (by simp) (by simp)
  endTransaction := fun {s t} e _ hs => by
    have hidle : FiveTables (setPhase .idle s) := hs.congr rfl rfl rfl rfl rfl
    unfold endTransaction
    dsimp only
    split
    · exact hidle
    · exact (hidle.handOn t.owner e).congr rfl rfl rfl rfl rfl

end

/-- Settles O56: the pieces of every command keep the five tables; a table of bounded handles has no more
records than handles. -/
theorem stepKeepsTablesLaw : Obligations.StepKeepsTablesLaw := by
  refine ⟨fun s t hs ht => tablesLaw_iff.mpr
    (FiveTables.kept.keptByCore.step (tablesLaw_iff.mp hs) ht), fun s hs => ?_⟩
  obtain ⟨hstations, hpoints, hbindings, hslots, -⟩ := tablesLaw_iff.mp hs
  exact ⟨hstations.size_le, hpoints.size_le, hbindings.size_le, hslots.bounded.size_le⟩

end Sys2Proof.Machine
end


section
/-! Every step keeps the law of stations, poll lists, round positions and point chains (O57). -/

namespace Sys2Proof.Machine

/-! ## What the law looks at -/

/-- The parts of a station that the law compares with others. -/
def Station.seat (st : Station) : LinkId × Byte × List Nat × Bool :=
  (st.link, st.address, st.chain, decide (st.state = .leaving))

theorem Station.seat_eq_iff {a b : Station} : a.seat = b.seat ↔
    a.link = b.link ∧ a.address = b.address ∧ a.chain = b.chain ∧
      (a.state = .leaving ↔ b.state = .leaving) := by
  unfold Station.seat
  rw [Prod.mk.injEq, Prod.mk.injEq, Prod.mk.injEq, decide_eq_decide]

theorem Station.Moves.seat {a b : Station} (h : a.Moves b) : b.seat = a.seat :=
  Station.seat_eq_iff.mpr ⟨h.link, h.address, h.chain, h.leaving⟩

/-- The parts of a point that the law looks at. -/
def Point.seat (p : Point) : Nat × Byte := (p.station, p.number)

theorem Point.Moves.seat {a b : Point} (h : a.Moves b) : b.seat = a.seat := by
  unfold Point.seat
  rw [h.station, h.number]

/-- A record of a table, seen through a function of the records that a change of the table keeps. -/
theorem find_of_map_eq {α β : Type} {f : α → β} {o o' : Option α} (h : o'.map f = o.map f) {a : α}
    (ha : o' = some a) : ∃ b, o = some b ∧ f a = f b := by
  subst ha
  cases o with
  | none => cases h
  | some b => exact ⟨b, rfl, Option.some.inj h⟩

section

variable {s t : State}

/-- The table of stations keeps every record but for what its own law is about. -/
theorem map_modify {α β : Type} {f : α → β} (t : Table α) (h : Nat) {g : α → α}
    (hg : ∀ a, t.find h = some a → f (g a) = f a) (k : Nat) :
    ((t.modify h g).find k).map f = (t.find k).map f := by
  rw [Table.find_modify]
  split
  · rename_i hk
    subst hk
    cases ha : t.find k with
    | none => rfl
    | some a => exact congrArg some (hg a ha)
  · rfl

theorem map_put {α β : Type} {f : α → β} {t : Table α} {h : Nat} {a b : α} (ha : t.find h = some a)
    (hb : f b = f a) (k : Nat) : ((t.put h b).find k).map f = (t.find k).map f := by
  rw [Table.find_put]
  split
  · rename_i hk
    subst hk
    rw [ha]
    exact congrArg some hb
  · rfl

/-- A change of the state that the law does not see, but that it may move a round position within its poll
list. -/
structure SameDirectory (s t : State) : Prop where
  canonical : s.stations.Canonical → t.stations.Canonical
  stations : ∀ h, (t.stations.find h).map Station.seat = (s.stations.find h).map Station.seat
  lawful : s.stations.All (fun _ st => st.Lawful) → t.stations.All (fun _ st => st.Lawful)
  pollLists : t.pollLists = s.pollLists
  points : ∀ h, (t.points.find h).map Point.seat = (s.points.find h).map Point.seat
  roundPos : ∀ l, (t.link l).roundPos = (s.link l).roundPos ∨
    ∀ h, (t.link l).roundPos = some h → h ∈ s.pollList l

theorem SameDirectory.of_points (hst : t.stations = s.stations) (hl : t.pollLists = s.pollLists)
    (hp : ∀ h, (t.points.find h).map Point.seat = (s.points.find h).map Point.seat)
    (hr : ∀ l, (t.link l).roundPos = (s.link l).roundPos) : SameDirectory s t where
  canonical := fun h => by rw [hst]; exact h
  stations := fun h => by rw [hst]
  lawful := fun h => by rw [hst]; exact h
  pollLists := hl
  points := hp
  roundPos := fun l => .inl (hr l)

theorem SameDirectory.of_eq (hst : t.stations = s.stations) (hl : t.pollLists = s.pollLists)
    (hp : t.points = s.points) (hr : ∀ l, (t.link l).roundPos = (s.link l).roundPos) :
    SameDirectory s t := SameDirectory.of_points hst hl (fun h => by rw [hp]) hr

theorem DirectoryLaw.congr (hs : DirectoryLaw s) (h : SameDirectory s t) : DirectoryLaw t := by
  have hlist (l : LinkId) : t.pollList l = s.pollList l := by
    unfold State.pollList
    rw [h.pollLists]
  have hback {k : Nat} {st : Station} (hst : t.stations.find k = some st) := find_of_map_eq (h.stations k) hst
  have hforth {k : Nat} {st : Station} (hst : s.stations.find k = some st) :=
    find_of_map_eq (h.stations k).symm hst
  have pback {k : Nat} {p : Point} (hp : t.points.find k = some p) := find_of_map_eq (h.points k) hp
  have pforth {k : Nat} {p : Point} (hp : s.points.find k = some p) := find_of_map_eq (h.points k).symm hp
  refine
    { canonical := h.canonical hs.canonical
      stations := h.lawful hs.stations
      distinct := fun i j st st' hst hst' hlink haddress => ?_
      pollNodup := fun l => hlist l ▸ hs.pollNodup l
      pollList := fun l i => ?_
      roundPos := fun l i hi => ?_
      inChain := fun i p hp => ?_
      ofChain := fun sid st hst i hi => ?_
      ascending := fun sid st hst => ?_ }
  · obtain ⟨a, ha, hseat⟩ := hback hst
    obtain ⟨b, hb, hseat'⟩ := hback hst'
    obtain ⟨hl, had, -, -⟩ := Station.seat_eq_iff.mp hseat
    obtain ⟨hl', had', -, -⟩ := Station.seat_eq_iff.mp hseat'
    exact hs.distinct i j a b ha hb (hl.symm.trans (hlink.trans hl')) (had.symm.trans (haddress.trans had'))
  · rw [hlist, hs.pollList l i]
    constructor
    · rintro ⟨st, hst, hl, hleave⟩
      obtain ⟨a, ha, hseat⟩ := hforth hst
      obtain ⟨hlink, -, -, hleaving⟩ := Station.seat_eq_iff.mp hseat
      exact ⟨a, ha, hlink.symm.trans hl, fun hx => hleave (hleaving.mpr hx)⟩
    · rintro ⟨st, hst, hl, hleave⟩
      obtain ⟨a, ha, hseat⟩ := hback hst
      obtain ⟨hlink, -, -, hleaving⟩ := Station.seat_eq_iff.mp hseat
      exact ⟨a, ha, hlink.symm.trans hl, fun hx => hleave (hleaving.mpr hx)⟩
  · rw [hlist]
    rcases h.roundPos l with heq | hin
    · exact hs.roundPos l i (heq ▸ hi)
    · exact hin i hi
  · obtain ⟨q, hq, hseat⟩ := pback hp
    obtain ⟨st, hst, hi⟩ := hs.inChain i q hq
    obtain ⟨a, ha, hseat'⟩ := hforth hst
    obtain ⟨-, -, hchain, -⟩ := Station.seat_eq_iff.mp hseat'
    obtain ⟨hstation, -⟩ := Prod.mk.inj hseat
    exact ⟨a, hstation.symm ▸ ha, hchain ▸ hi⟩
  · obtain ⟨a, ha, hseat⟩ := hback hst
    obtain ⟨-, -, hchain, -⟩ := Station.seat_eq_iff.mp hseat
    obtain ⟨p, hp, hstation⟩ := hs.ofChain sid a ha i (hchain ▸ hi)
    obtain ⟨q, hq, hseat'⟩ := pforth hp
    obtain ⟨hpq, -⟩ := Prod.mk.inj hseat'
    exact ⟨q, hq, hpq.symm.trans hstation⟩
  · obtain ⟨a, ha, hseat⟩ := hback hst
    obtain ⟨-, -, hchain, -⟩ := Station.seat_eq_iff.mp hseat
    rw [hchain]
    refine (hs.ascending sid a ha).imp fun hlt p q hp hq => ?_
    obtain ⟨p', hp', hpseat⟩ := pback hp
    obtain ⟨q', hq', hqseat⟩ := pback hq
    obtain ⟨-, hpn⟩ := Prod.mk.inj hpseat
    obtain ⟨-, hqn⟩ := Prod.mk.inj hqseat
    rw [hpn, hqn]
    exact hlt p' q' hp' hq'

/-! ## Points leave and join their chains -/

theorem without_eq_of_notMem {xs : List Nat} {h : Nat} (hh : h ∉ xs) : without xs h = xs :=
  List.filter_eq_self.mpr fun x hx => by
    rw [bne_iff_ne]
    exact fun hxh => hh (hxh ▸ hx)

/-- R12: a point leaves the chain of its station. -/
theorem DirectoryLaw.freePoint {h : Nat} {p : Point} (hp : s.points.find h = some p)
    (hs : DirectoryLaw s) : DirectoryLaw (Machine.freePoint h p s) := by
  have hstations (k : Nat) : (Machine.freePoint h p s).stations.find k =
      if k = p.station then (s.stations.find p.station).map (fun st =>
        { st with chain := without st.chain h }) else s.stations.find k :=
    Table.find_modify _ _ _ _
  -- A station after the removal: the one before, its chain without the point.
  have hback {k : Nat} {st : Station} (hst : (Machine.freePoint h p s).stations.find k = some st) :
      ∃ a, s.stations.find k = some a ∧ st = { a with chain := without a.chain h } := by
    rw [hstations] at hst
    split at hst
    · rename_i hk
      subst hk
      obtain ⟨a, ha, rfl⟩ := Option.map_eq_some_iff.mp hst
      exact ⟨a, ha, rfl⟩
    · rename_i hk
      refine ⟨st, hst, ?_⟩
      rw [without_eq_of_notMem]
      intro hh
      obtain ⟨q, hq, hqk⟩ := hs.ofChain k st hst h hh
      rw [hp] at hq
      cases hq
      exact hk hqk.symm
  have hforth {k : Nat} {a : Station} (ha : s.stations.find k = some a) :
      ∃ chain, (Machine.freePoint h p s).stations.find k = some { a with chain := chain } ∧
        ∀ x, x ∈ a.chain → x ≠ h → x ∈ chain := by
    rw [hstations]
    split
    · rename_i hk
      subst hk
      exact ⟨without a.chain h, by rw [ha]; rfl, fun x hx hne => mem_without.mpr ⟨hx, hne⟩⟩
    · exact ⟨a.chain, ha, fun x hx _ => hx⟩
  have pback {k : Nat} {q : Point} (hq : (Machine.freePoint h p s).points.find k = some q) :
      k ≠ h ∧ s.points.find k = some q := by
    have hq' : (s.points.drop h).find k = some q := hq
    rw [Table.find_drop] at hq'
    split at hq'
    · cases hq'
    · rename_i hk
      exact ⟨hk, hq'⟩
  exact
    { canonical := hs.canonical.modify _ _
      stations := fun k st hst => by
        obtain ⟨a, ha, rfl⟩ := hback hst
        have hl := hs.stations k a ha
        exact { hl with leaving := fun hx => by rw [hl.leaving hx]; rfl }
      distinct := fun i j st st' hst hst' => by
        obtain ⟨a, ha, rfl⟩ := hback hst
        obtain ⟨b, hb, rfl⟩ := hback hst'
        exact hs.distinct i j a b ha hb
      pollNodup := hs.pollNodup
      pollList := fun l i => by
        refine (hs.pollList l i).trans ⟨?_, ?_⟩
        · rintro ⟨a, ha, hl, hleave⟩
          obtain ⟨chain, hst, -⟩ := hforth ha
          exact ⟨_, hst, hl, hleave⟩
        · rintro ⟨st, hst, hl, hleave⟩
          obtain ⟨a, ha, rfl⟩ := hback hst
          exact ⟨a, ha, hl, hleave⟩
      roundPos := hs.roundPos
      inChain := fun k q hq => by
        obtain ⟨hne, hq⟩ := pback hq
        obtain ⟨a, ha, hk⟩ := hs.inChain k q hq
        obtain ⟨chain, hst, hmem⟩ := hforth ha
        exact ⟨_, hst, hmem k hk hne⟩
      ofChain := fun sid st hst k hk => by
        obtain ⟨a, ha, rfl⟩ := hback hst
        obtain ⟨hk, hne⟩ := mem_without.mp hk
        obtain ⟨q, hq, hstation⟩ := hs.ofChain sid a ha k hk
        exact ⟨q, (Table.find_drop_ne _ hne).trans hq, hstation⟩
      ascending := fun sid st hst => by
        obtain ⟨a, ha, rfl⟩ := hback hst
        refine ((hs.ascending sid a ha).sublist List.filter_sublist).imp fun hlt q r hq hr => ?_
        exact hlt q r (pback hq).2 (pback hr).2 }

theorem DirectoryLaw.testFree (h : Nat) (hs : DirectoryLaw s) : DirectoryLaw (testFree h s) := by
  unfold Machine.testFree
  split
  · exact hs
  split
  · exact hs.freePoint ‹_›
  · exact hs

theorem mem_insertByNumber {s : State} {n h k : Nat} {xs : List Nat} :
    k ∈ insertByNumber s n h xs ↔ k = h ∨ k ∈ xs := by
  induction xs with
  | nil => simp [insertByNumber]
  | cons x r ih =>
    unfold insertByNumber
    split
    · split
      · exact List.mem_cons
      · rw [List.mem_cons, ih, List.mem_cons]
        exact or_left_comm
    · rw [List.mem_cons, ih, List.mem_cons]
      exact or_left_comm

/-- R12: a chain that ascends by number, and a point of a number that it does not hold. -/
theorem insertByNumber_pairwise {s : State} {n h : Nat} {R : Nat → Nat → Prop} {xs : List Nat}
    (hx : xs.Pairwise R) (hbefore : ∀ x ∈ xs, ∀ m, numberOf s x = some m → n < m → R h x)
    (hafter : ∀ x ∈ xs, (∀ m, numberOf s x = some m → ¬ n < m) → R x h)
    (hnext : ∀ x ∈ xs, ∀ m, numberOf s x = some m → n < m → ∀ y ∈ xs, R x y → R h y) :
    (insertByNumber s n h xs).Pairwise R := by
  induction hx with
  | nil => exact List.pairwise_singleton _ _
  | @cons x r hxr hr ih =>
    have htail : (insertByNumber s n h r).Pairwise R :=
      ih (fun y hy => hbefore y (List.mem_cons_of_mem _ hy)) (fun y hy => hafter y (List.mem_cons_of_mem _ hy))
        (fun y hy m hm hlt z hz => hnext y (List.mem_cons_of_mem _ hy) m hm hlt z (List.mem_cons_of_mem _ hz))
    have hskip (hno : ∀ m, numberOf s x = some m → ¬ n < m) :
        (x :: insertByNumber s n h r).Pairwise R := by
      refine List.pairwise_cons.mpr ⟨fun y hy => ?_, htail⟩
      rcases mem_insertByNumber.mp hy with rfl | hy
      · exact hafter x List.mem_cons_self hno
      · exact hxr y hy
    unfold insertByNumber
    split
    · rename_i m hm
      split
      · rename_i hlt
        refine List.pairwise_cons.mpr ⟨fun y hy => ?_, List.pairwise_cons.mpr ⟨hxr, hr⟩⟩
        rcases List.mem_cons.mp hy with rfl | hy
        · exact hbefore y List.mem_cons_self m hm hlt
        · exact hnext x List.mem_cons_self m hm hlt y (List.mem_cons_of_mem _ hy) (hxr y hy)
      · rename_i hlt
        exact hskip (fun m' hm' => by rw [hm] at hm'; cases hm'; exact hlt)
    · rename_i hm
      exact hskip (fun m' hm' => by rw [hm] at hm'; cases hm')

/-- R16: a new point joins the chain of its station. -/
theorem DirectoryLaw.placePoint {h : Nat} {p : Point} {st : Station} (hst : s.stations.find p.station = some st)
    (hl : st.state ≠ .leaving) (hfree : s.points.find h = none)
    (hnew : pointByNumber s st.chain p.number.toNat = none) (hs : DirectoryLaw s) :
    DirectoryLaw (Machine.placePoint h p s) := by
  have hput (k : Nat) : (Machine.placePoint h p s).points.find k =
      if k = h then some p else s.points.find k := Table.find_put _ _ _ _
  have hkept {k : Nat} {q : Point} (hq : s.points.find k = some q) :
      (Machine.placePoint h p s).points.find k = some q := by
    rw [hput, if_neg]
    · exact hq
    · rintro rfl
      rw [hfree] at hq
      cases hq
  have hold {k : Nat} {a : Station} (ha : s.stations.find k = some a) : h ∉ a.chain := by
    intro hh
    obtain ⟨q, hq, -⟩ := hs.ofChain k a ha h hh
    rw [hfree] at hq
    cases hq
  -- The chain of the point's station, with the point in its place.
  have hstations (k : Nat) : (Machine.placePoint h p s).stations.find k = if k = p.station then
      some { st with chain := insertByNumber s p.number.toNat h st.chain } else s.stations.find k := by
    refine (Table.find_modify _ _ _ _).trans ?_
    rw [hst]
    rfl
  have hascending : (insertByNumber s p.number.toNat h st.chain).Pairwise (fun a b =>
      ∀ q r, (Machine.placePoint h p s).points.find a = some q →
        (Machine.placePoint h p s).points.find b = some r → q.number.toNat < r.number.toNat) := by
    have hself {r : Point} (hr : (Machine.placePoint h p s).points.find h = some r) : r = p := by
      rw [hput, if_pos rfl] at hr
      exact (Option.some.inj hr).symm
    have hnumber {x : Nat} {r : Point} (hx : x ∈ st.chain)
        (hr : (Machine.placePoint h p s).points.find x = some r) : numberOf s x = some r.number.toNat := by
      rw [hput, if_neg (fun e : x = h => hold hst (e ▸ hx))] at hr
      exact numberOf_of_find hr
    refine insertByNumber_pairwise ?_ ?_ ?_ ?_
    · refine (hs.ascending _ st hst).imp_of_mem fun {a b} hx hy hlt q r hq hr => ?_
      rw [hput, if_neg (fun e : a = h => hold hst (e ▸ hx))] at hq
      rw [hput, if_neg (fun e : b = h => hold hst (e ▸ hy))] at hr
      exact hlt q r hq hr
    · intro x hx m hm hlt q r hq hr
      rw [hself hq]
      rw [hnumber hx hr] at hm
      cases hm
      exact hlt
    · intro x hx hno q r hq hr
      rw [hself hr]
      have hn := hnumber hx hq
      have hne : q.number.toNat ≠ p.number.toNat := by
        intro heq
        rw [pointByNumber_eq_find?, List.find?_eq_none] at hnew
        exact hnew x hx (decide_eq_true (heq ▸ hn))
      have hle := hno _ hn
      omega
    · intro x hx m hm hlt y hy hxy q r hq hr
      rw [hself hq]
      obtain ⟨x', hx', -⟩ := hs.ofChain _ st hst x hx
      have hlast := hxy x' r (hkept hx') hr
      rw [numberOf_of_find hx'] at hm
      cases hm
      omega
  have hback {k : Nat} {a : Station} (ha : (Machine.placePoint h p s).stations.find k = some a) :
      ∃ b, s.stations.find k = some b ∧ a.link = b.link ∧ a.address = b.address ∧ a.state = b.state ∧
        (b.Lawful → a.Lawful) ∧ (∀ x, x ∈ a.chain → x ∈ b.chain ∨ x = h ∧ k = p.station) := by
    rw [hstations] at ha
    split at ha
    · rename_i hk
      subst hk
      cases ha
      refine ⟨st, hst, rfl, rfl, rfl, fun hlaw => { hlaw with leaving := fun hx => absurd hx hl }, ?_⟩
      intro x hx
      rcases mem_insertByNumber.mp hx with hx | hx
      · exact .inr ⟨hx, rfl⟩
      · exact .inl hx
    · exact ⟨a, ha, rfl, rfl, rfl, id, fun x hx => .inl hx⟩
  have hforth {k : Nat} {b : Station} (hb : s.stations.find k = some b) :
      ∃ chain, (Machine.placePoint h p s).stations.find k = some { b with chain := chain } ∧
        ∀ x, x ∈ b.chain → x ∈ chain := by
    rw [hstations]
    split
    · rename_i hk
      subst hk
      rw [hst] at hb
      cases hb
      exact ⟨_, rfl, fun x hx => mem_insertByNumber.mpr (.inr hx)⟩
    · exact ⟨b.chain, hb, fun x hx => hx⟩
  exact
    { canonical := hs.canonical.modify _ _
      stations := fun k a ha => by
        obtain ⟨b, hb, -, -, -, hlaw, -⟩ := hback ha
        exact hlaw (hs.stations k b hb)
      distinct := fun i j a a' ha ha' hlink haddress => by
        obtain ⟨b, hb, hl, had, -⟩ := hback ha
        obtain ⟨b', hb', hl', had', -⟩ := hback ha'
        exact hs.distinct i j b b' hb hb' (hl.symm.trans (hlink.trans hl'))
          (had.symm.trans (haddress.trans had'))
      pollNodup := hs.pollNodup
      pollList := fun l i => by
        refine (hs.pollList l i).trans ⟨?_, ?_⟩
        · rintro ⟨b, hb, hlb, hleave⟩
          obtain ⟨chain, ha, -⟩ := hforth hb
          exact ⟨_, ha, hlb, hleave⟩
        · rintro ⟨a, ha, hla, hleave⟩
          obtain ⟨b, hb, hlink, -, hstate, -⟩ := hback ha
          exact ⟨b, hb, hlink ▸ hla, hstate ▸ hleave⟩
      roundPos := hs.roundPos
      inChain := fun k q hq => by
        rw [hput] at hq
        split at hq
        · rename_i hk
          subst hk
          cases hq
          exact ⟨_, by rw [hstations, if_pos rfl], mem_insertByNumber.mpr (.inl rfl)⟩
        · obtain ⟨b, hb, hk⟩ := hs.inChain k q hq
          obtain ⟨chain, ha, hmem⟩ := hforth hb
          exact ⟨_, ha, hmem k hk⟩
      ofChain := fun sid a ha k hk => by
        obtain ⟨b, hb, -, -, -, -, hmem⟩ := hback ha
        rcases hmem k hk with hk | ⟨rfl, rfl⟩
        · obtain ⟨q, hq, hstation⟩ := hs.ofChain sid b hb k hk
          exact ⟨q, hkept hq, hstation⟩
        · exact ⟨p, by rw [hput, if_pos rfl], rfl⟩
      ascending := fun sid a ha => by
        rw [hstations] at ha
        split at ha
        · cases ha
          exact hascending
        · refine (hs.ascending sid a ha).imp_of_mem fun {x y} hx hy hlt q r hq hr => ?_
          rw [hput, if_neg (fun e : x = h => hold ha (e ▸ hx))] at hq
          rw [hput, if_neg (fun e : y = h => hold ha (e ▸ hy))] at hr
          exact hlt q r hq hr }

/-! ## Stations leave and join their poll lists -/

/-- R102: a LEAVING station holds no points and is in no poll list. -/
theorem DirectoryLaw.freeStation {sid : Nat} (hs : DirectoryLaw s)
    (hl : ∀ st, s.stations.find sid = some st → st.state = .leaving) :
    DirectoryLaw (Machine.freeStation sid s) := by
  have hback {k : Nat} {a : Station} (ha : (s.stations.drop sid).find k = some a) :
      s.stations.find k = some a := by
    rw [Table.find_drop] at ha
    split at ha
    · cases ha
    · exact ha
  have hforth {k : Nat} {a : Station} (ha : s.stations.find k = some a)
      (hne : a.state ≠ .leaving ∨ a.chain ≠ []) : (s.stations.drop sid).find k = some a := by
    rw [Table.find_drop, if_neg]
    · exact ha
    · rintro rfl
      rcases hne with hne | hne
      · exact hne (hl a ha)
      · exact hne ((hs.stations k a ha).leaving (hl a ha))
  exact
    { canonical := hs.canonical.drop sid
      stations := hs.stations.drop sid
      distinct := fun i j a b ha hb => hs.distinct i j a b (hback ha) (hback hb)
      pollNodup := hs.pollNodup
      pollList := fun l i => (hs.pollList l i).trans
        ⟨fun ⟨a, ha, hla, hleave⟩ => ⟨a, hforth ha (.inl hleave), hla, hleave⟩,
          fun ⟨a, ha, hla, hleave⟩ => ⟨a, hback ha, hla, hleave⟩⟩
      roundPos := hs.roundPos
      inChain := fun k q hq => by
        obtain ⟨a, ha, hk⟩ := hs.inChain k q hq
        exact ⟨a, hforth ha (.inr (List.ne_nil_of_mem hk)), hk⟩
      ofChain := fun k a ha => hs.ofChain k a (hback ha)
      ascending := fun k a ha => hs.ascending k a (hback ha) }

theorem DirectoryLaw.freeStations (xs : List Nat) :
    ∀ {s : State}, (∀ sid ∈ xs, ∀ st, s.stations.find sid = some st → st.state = .leaving) → DirectoryLaw s →
      DirectoryLaw (xs.foldl (fun s sid => Machine.freeStation sid s) s) := by
  induction xs with
  | nil => exact fun _ hs => hs
  | cons x r ih =>
    intro s hl hs
    refine ih (fun sid hsid st hst => ?_) (hs.freeStation (hl x List.mem_cons_self))
    have hst' : (s.stations.drop x).find sid = some st := hst
    rw [Table.find_drop] at hst'
    split at hst'
    · cases hst'
    · exact hl sid (List.mem_cons_of_mem _ hsid) st hst'

/-- R102: the LEAVING stations of a link. -/
theorem DirectoryLaw.mem_leavingStations (hs : DirectoryLaw s) {l : LinkId} {sid : Nat} :
    sid ∈ leavingStations l s ↔ ∃ st, s.stations.find sid = some st ∧ st.link = l ∧ st.state = .leaving := by
  unfold leavingStations
  constructor
  · intro h
    obtain ⟨r, hr, rfl⟩ := List.mem_map.mp h
    obtain ⟨hm, hp⟩ := List.mem_filter.mp hr
    rw [Bool.and_eq_true, beq_iff_eq, beq_iff_eq] at hp
    exact ⟨r.2, findRow_of_mem hs.canonical hm, hp⟩
  · rintro ⟨st, hst, hl, hstate⟩
    refine List.mem_map.mpr ⟨(sid, st), List.mem_filter.mpr ⟨Table.mem_of_find hst, ?_⟩, rfl⟩
    rw [Bool.and_eq_true, beq_iff_eq, beq_iff_eq]
    exact ⟨hl, hstate⟩

/-- R92: the position that a removed station leaves names another station of the list. -/
theorem successor_ne {xs : List Nat} (hn : xs.Nodup) {h k : Nat} (hk : successor xs h = some k) : k ≠ h := by
  induction hn with
  | nil => cases hk
  | @cons x r hx _ ih =>
    unfold successor at hk
    split at hk
    · rename_i hxh
      subst hxh
      exact fun e => hx k (List.mem_of_mem_head? hk) e.symm
    · exact ih hk

/-- R7: a station without points leaves its poll list; its record is gone, or LEAVING. -/
theorem DirectoryLaw.depart {h : Nat} {st : Station} (hst : s.stations.find h = some st)
    (hchain : st.chain = []) (hs : DirectoryLaw s) (hcanonical : t.stations.Canonical)
    (hother : ∀ k, k ≠ h → t.stations.find k = s.stations.find k)
    (hself : ∀ a, t.stations.find h = some a →
      a.Lawful ∧ a.link = st.link ∧ a.address = st.address ∧ a.state = .leaving ∧ a.chain = [])
    (hlist : ∀ l, t.pollList l = if l = st.link then without (s.pollList l) h else s.pollList l)
    (hpoints : t.points = s.points)
    (hround : ∀ l k, (t.link l).roundPos = some k → k ∈ t.pollList l) : DirectoryLaw t := by
  have hback {k : Nat} {a : Station} (ha : t.stations.find k = some a) :
      ∃ b, s.stations.find k = some b ∧ a.link = b.link ∧ a.address = b.address ∧ a.chain = b.chain ∧
        a.Lawful ∧ (k = h → a.state = .leaving) ∧ (k ≠ h → a = b) := by
    by_cases hk : k = h
    · subst hk
      obtain ⟨hlaw, hl, had, hleave, hc⟩ := hself a ha
      exact ⟨st, hst, hl, had, hc.trans hchain.symm, hlaw, fun _ => hleave, fun hne => absurd rfl hne⟩
    · rw [hother k hk] at ha
      exact ⟨a, ha, rfl, rfl, rfl, hs.stations k a ha, fun hkh => absurd hkh hk, fun _ => rfl⟩
  have hmem (l : LinkId) (i : Nat) : i ∈ t.pollList l ↔ i ∈ s.pollList l ∧ i ≠ h := by
    rw [hlist]
    split
    · exact mem_without
    · rename_i hl
      refine ⟨fun hi => ⟨hi, ?_⟩, fun hi => hi.1⟩
      rintro rfl
      obtain ⟨a, ha, hla, -⟩ := (hs.pollList l i).mp hi
      rw [hst] at ha
      cases ha
      exact hl hla.symm
  exact
    { canonical := hcanonical
      stations := fun k a ha => by
        obtain ⟨b, -, -, -, -, hlaw, -⟩ := hback ha
        exact hlaw
      distinct := fun i j a b ha hb hlink haddress => by
        obtain ⟨a', ha', hl, had, -⟩ := hback ha
        obtain ⟨b', hb', hl', had', -⟩ := hback hb
        exact hs.distinct i j a' b' ha' hb' (hl.symm.trans (hlink.trans hl'))
          (had.symm.trans (haddress.trans had'))
      pollNodup := fun l => by
        rw [hlist]
        split
        · exact without_nodup (hs.pollNodup l) h
        · exact hs.pollNodup l
      pollList := fun l i => by
        rw [hmem, hs.pollList l i]
        constructor
        · rintro ⟨⟨a, ha, hla, hleave⟩, hi⟩
          exact ⟨a, (hother i hi).trans ha, hla, hleave⟩
        · rintro ⟨a, ha, hla, hleave⟩
          obtain ⟨b, hb, hl, -, -, -, hgone, hsame⟩ := hback ha
          have hi : i ≠ h := fun hi => hleave (hgone hi)
          obtain rfl := hsame hi
          exact ⟨⟨a, hb, hla, hleave⟩, hi⟩
      roundPos := hround
      inChain := fun k q hq => by
        rw [hpoints] at hq
        obtain ⟨a, ha, hk⟩ := hs.inChain k q hq
        refine ⟨a, (hother _ ?_).trans ha, hk⟩
        intro hqh
        rw [hqh, hst] at ha
        cases ha
        rw [hchain] at hk
        cases hk
      ofChain := fun sid a ha k hk => by
        obtain ⟨b, hb, -, -, hc, -⟩ := hback ha
        rw [hpoints]
        exact hs.ofChain sid b hb k (hc ▸ hk)
      ascending := fun sid a ha => by
        obtain ⟨b, hb, -, -, hc, -⟩ := hback ha
        rw [hc, hpoints]
        exact hs.ascending sid b hb }

/-- R6: a new station takes the last place of its link's poll list. -/
theorem DirectoryLaw.append {h : Nat} {st : Station} (hfree : s.stations.find h = none)
    (hlaw : st.Lawful) (hl : st.state ≠ .leaving) (hchain : st.chain = [])
    (haddress : addressHeld s st.link st.address = false) (hs : DirectoryLaw s) :
    DirectoryLaw { s with
      stations := s.stations.put h st
      pollLists := s.pollLists.modify st.link (fun q => q ++ [h]) } := by
  have hput (k : Nat) : (s.stations.put h st).find k = if k = h then some st else s.stations.find k :=
    Table.find_put _ _ _ _
  have hkept {k : Nat} {a : Station} (ha : s.stations.find k = some a) :
      (s.stations.put h st).find k = some a := by
    rw [hput, if_neg]
    · exact ha
    · rintro rfl
      rw [hfree] at ha
      cases ha
  have hback {k : Nat} {a : Station} (ha : (s.stations.put h st).find k = some a) :
      k = h ∧ a = st ∨ s.stations.find k = some a := by
    rw [hput] at ha
    split at ha
    · exact .inl ⟨‹_›, (Option.some.inj ha).symm⟩
    · exact .inr ha
  have hlone {k : Nat} {a : Station} (ha : s.stations.find k = some a) :
      ¬ (a.link = st.link ∧ a.address = st.address) := by
    intro hheld
    have hmem := Table.mem_of_find ha
    simp only [addressHeld, List.any_eq_false, Bool.and_eq_true, beq_iff_eq] at haddress
    exact haddress (k, a) hmem hheld
  have hlist (l : LinkId) : (s.pollLists.modify st.link (fun q => q ++ [h])).get l =
      if l = st.link then s.pollList l ++ [h] else s.pollList l := by
    rw [Quad.get_modify]
    split
    · rename_i hl
      rw [hl]
      rfl
    · rfl
  have hnew (l : LinkId) : h ∉ s.pollList l := by
    intro hm
    obtain ⟨a, ha, -⟩ := (hs.pollList l h).mp hm
    rw [hfree] at ha
    cases ha
  have hmem (l : LinkId) (i : Nat) : i ∈ (s.pollLists.modify st.link (fun q => q ++ [h])).get l ↔
      i ∈ s.pollList l ∨ i = h ∧ l = st.link := by
    rw [hlist]
    split
    · rename_i hl
      rw [List.mem_append, List.mem_singleton]
      simp [hl]
    · rename_i hl
      simp [hl]
  exact
    { canonical := hs.canonical.put h st
      stations := hs.stations.put hlaw
      distinct := fun i j a b ha hb hlink haddr => by
        rcases hback ha with ⟨rfl, rfl⟩ | hold
        · rcases hback hb with ⟨rfl, -⟩ | hold
          · rfl
          · exact absurd ⟨hlink.symm, haddr.symm⟩ (hlone hold)
        · rcases hback hb with ⟨rfl, rfl⟩ | hold'
          · exact absurd ⟨hlink, haddr⟩ (hlone hold)
          · exact hs.distinct i j a b hold hold' hlink haddr
      pollNodup := fun l => by
        show ((s.pollLists.modify st.link (fun q => q ++ [h])).get l).Nodup
        rw [hlist]
        split
        · refine List.nodup_append.mpr ⟨hs.pollNodup l, List.nodup_singleton h, fun x hx y hy hxy => ?_⟩
          rw [List.mem_singleton] at hy
          exact hnew l (hy ▸ hxy ▸ hx)
        · exact hs.pollNodup l
      pollList := fun l i => by
        refine (hmem l i).trans ⟨?_, ?_⟩
        · rintro (hi | ⟨rfl, rfl⟩)
          · obtain ⟨a, ha, hla, hleave⟩ := (hs.pollList l i).mp hi
            exact ⟨a, hkept ha, hla, hleave⟩
          · exact ⟨st, by rw [hput, if_pos rfl], rfl, hl⟩
        · rintro ⟨a, ha, hla, hleave⟩
          rcases hback ha with ⟨rfl, rfl⟩ | ha
          · exact .inr ⟨rfl, hla.symm⟩
          · exact .inl ((hs.pollList l i).mpr ⟨a, ha, hla, hleave⟩)
      roundPos := fun l i hi => (hmem l i).mpr (.inl (hs.roundPos l i hi))
      inChain := fun k q hq => by
        obtain ⟨a, ha, hk⟩ := hs.inChain k q hq
        exact ⟨a, hkept ha, hk⟩
      ofChain := fun sid a ha k hk => by
        rcases hback ha with ⟨-, rfl⟩ | ha
        · rw [hchain] at hk
          cases hk
        · exact hs.ofChain sid a ha k hk
      ascending := fun sid a ha => by
        rcases hback ha with ⟨-, rfl⟩ | ha
        · rw [hchain]
          exact List.Pairwise.nil
        · exact hs.ascending sid a ha }

/-! ## The pieces -/

theorem linkStable_roundPos (r : LinkId → Option Nat) : LinkStable (fun l k => k.roundPos = r l) where
  status := fun _ h => h
  opens := fun {_ k} h => by
    obtain ⟨-, -, hround, -⟩ := k.openInGap_keeps
    exact hround.trans h

theorem DirectoryLaw.modifyLink {l : LinkId} {f : Link → Link}
    (hf : (f (s.link l)).roundPos = (s.link l).roundPos ∨
      ∀ h, (f (s.link l)).roundPos = some h → h ∈ s.pollList l) (hs : DirectoryLaw s) :
    DirectoryLaw (s.modifyLink l f) := by
  refine hs.congr
    { canonical := id
      stations := fun _ => rfl
      lawful := id
      pollLists := rfl
      points := fun _ => rfl
      roundPos := fun m => ?_ }
  rw [State.link_modifyLink]
  split
  · rename_i hm
    subst hm
    exact hf
  · exact .inl rfl

theorem DirectoryLaw.modifyStation {sid : Nat} {st : Station} {f : Station → Station}
    (hst : s.stations.find sid = some st) (hm : st.Moves (f st)) (hs : DirectoryLaw s) :
    DirectoryLaw (s.modifyStation sid f) :=
  hs.congr
    { canonical := fun h => h.modify sid f
      stations := map_modify _ _ (fun a ha => by
        obtain rfl : st = a := Option.some.inj (hst.symm.trans ha)
        exact hm.seat)
      lawful := fun h => h.modify (fun a ha hl => by
        obtain rfl : st = a := Option.some.inj (hst.symm.trans ha)
        exact hm.lawful hl)
      pollLists := rfl
      points := fun _ => rfl
      roundPos := fun _ => .inl rfl }

theorem DirectoryLaw.modifyPoint (h : Nat) {f : Point → Point} (hf : ∀ p, (f p).seat = p.seat)
    (hs : DirectoryLaw s) : DirectoryLaw (s.modifyPoint h f) :=
  hs.congr (SameDirectory.of_points rfl rfl (map_modify _ _ (fun p _ => hf p)) (fun _ => rfl))

theorem DirectoryLaw.freeTag (sid tag : Nat) (hs : DirectoryLaw s) : DirectoryLaw (freeTag sid tag s) :=
  hs.congr (SameDirectory.of_eq (by simp) (by simp) (by simp)
    ((linkStable_roundPos (fun l => (s.link l).roundPos)).freeTag sid tag (s := s) (fun _ => rfl)))

theorem DirectoryLaw.freeAllTags (sid : Nat) (hs : DirectoryLaw s) : DirectoryLaw (freeAllTags sid s) :=
  hs.congr (SameDirectory.of_eq (by simp) (by simp) (by simp)
    ((linkStable_roundPos (fun l => (s.link l).roundPos)).freeAllTags sid (s := s) (fun _ => rfl)))

theorem DirectoryLaw.finishSlot (h : Nat) (result : CommandResult) (code : Byte) (fate : TagFate)
    (hs : DirectoryLaw s) : DirectoryLaw (finishSlot h result code fate s) := by
  cases hr : s.slots.find h with
  | none => rw [finishSlot_free hr]; exact hs
  | some r =>
    rw [finishSlot_eq hr]
    exact DirectoryLaw.testFree _ (hs.congr (SameDirectory.of_points rfl rfl
      (map_modify _ _ (fun _ _ => rfl))
      ((linkStable_roundPos (fun l => (s.link l).roundPos)).releaseTag r fate (s := s) (fun _ => rfl))))

theorem DirectoryLaw.freeBinding (b : Nat) (hs : DirectoryLaw s) : DirectoryLaw (freeBinding b s) := by
  unfold Machine.freeBinding
  split
  · exact hs
  · exact DirectoryLaw.testFree _ (DirectoryLaw.modifyPoint (s := unqueueBinding b _) _ (fun _ => rfl)
      (hs.congr (SameDirectory.of_eq rfl rfl rfl (fun _ => rfl))))

theorem DirectoryLaw.modifyBinding (b : Nat) (f : Binding → Binding) (hs : DirectoryLaw s) :
    DirectoryLaw (s.modifyBinding b f) :=
  hs.congr (SameDirectory.of_eq rfl rfl rfl (fun _ => rfl))

theorem DirectoryLaw.queueBinding (b : Nat) (hs : DirectoryLaw s) : DirectoryLaw (queueBinding b s) :=
  hs.congr (SameDirectory.of_eq (by simp) (by simp) (by simp) (fun l => by simp [State.link]))

theorem DirectoryLaw.closeBinding (b : Nat) (hs : DirectoryLaw s) : DirectoryLaw (closeBinding s b) := by
  unfold Machine.closeBinding
  split
  · exact hs
  split
  · exact (hs.modifyBinding b _).queueBinding b
  · exact hs.freeBinding b
  · exact hs
  · exact hs

theorem DirectoryLaw.closeBindings (h : Nat) (hs : DirectoryLaw s) : DirectoryLaw (closeBindings h s) := by
  unfold Machine.closeBindings
  split
  · exact hs
  · exact foldl_invariant DirectoryLaw _ (fun _ b hp => hp.closeBinding b) _ s hs

theorem DirectoryLaw.putPoint {h : Nat} {p q : Point} (hp : s.points.find h = some p)
    (hseat : q.seat = p.seat) (hs : DirectoryLaw s) :
    DirectoryLaw { s with points := s.points.put h q } :=
  hs.congr (SameDirectory.of_points rfl rfl (map_put hp hseat) (fun _ => rfl))

theorem DirectoryLaw.retire {h : Nat} {p : Point} (hp : s.points.find h = some p) (hs : DirectoryLaw s) :
    DirectoryLaw (retireRecord h p s) := by
  have hput : DirectoryLaw { s with points := s.points.put h p.retire } := hs.putPoint hp rfl
  unfold retireRecord
  refine DirectoryLaw.testFree _ (DirectoryLaw.closeBindings _ ?_)
  split
  · exact hput
  · exact retireCommand_keeps (fun k result code fate hp => hp.finishSlot k result code fate)
      (fun _ _ _ hp => hp.congr (SameDirectory.of_eq rfl rfl rfl (fun _ => rfl)))
      (fun _ hp => hp.congr (SameDirectory.of_eq rfl rfl rfl (fun _ => rfl))) _ hput

theorem DirectoryLaw.remove {h : Nat} {st : Station} (hst : s.stations.find h = some st)
    (hchain : st.chain = []) (hs : DirectoryLaw s) : DirectoryLaw (removeRecord h st s) := by
  have hfreed := hs.freeAllTags h
  have hst' : (Machine.freeAllTags h s).stations.find h = some st := by simpa using hst
  have hlist (l : LinkId) : (leavePollList h st.link (Machine.freeAllTags h s)).pollList l =
      if l = st.link then without ((Machine.freeAllTags h s).pollList l) h
      else (Machine.freeAllTags h s).pollList l := by
    unfold leavePollList State.pollList
    rw [Quad.get_modify]
    split
    · rename_i hl
      rw [hl]
      rfl
    · rfl
  have hround (l : LinkId) (k : Nat)
      (hk : ((leavePollList h st.link (Machine.freeAllTags h s)).link l).roundPos = some k) :
      k ∈ (leavePollList h st.link (Machine.freeAllTags h s)).pollList l := by
    rw [hlist]
    have hk' : (((Machine.freeAllTags h s).modifyLink st.link (fun k =>
        k.forget ((Machine.freeAllTags h s).pollList st.link) h)).link l).roundPos = some k := hk
    rw [State.link_modifyLink] at hk'
    split at hk'
    · rename_i hl
      subst hl
      rw [if_pos rfl, mem_without]
      unfold Link.forget at hk'
      split at hk'
      · exact ⟨successor_mem hk', successor_ne (hfreed.pollNodup st.link) hk'⟩
      · rename_i hne
        exact ⟨hfreed.roundPos st.link k hk', fun e => hne (e ▸ hk')⟩
    · rename_i hl
      rw [if_neg hl]
      exact hfreed.roundPos l k hk'
  unfold removeRecord
  dsimp only
  split
  · refine hfreed.depart hst' hchain (hfreed.canonical.modify _ _) (fun k hk => Table.find_modify_ne _ _ hk)
      (fun a ha => ?_) hlist rfl hround
    have ha' : ((Machine.freeAllTags h s).stations.modify h (fun st =>
        { st with state := .leaving, capacity := 0, staleCause := none })).find h = some a := ha
    rw [Table.find_modify_same, hst'] at ha'
    cases ha'
    have hlaw := hfreed.stations h st hst'
    exact ⟨{ limit := hlaw.limit
             address := hlaw.address
             capacity := Nat.zero_le _
             absent := fun _ => rfl
             stale := rfl
             miss := hlaw.miss
             leaving := fun _ => hchain }, rfl, rfl, rfl, hchain⟩
  · refine hfreed.depart hst' hchain (hfreed.canonical.drop h) (fun k hk => Table.find_drop_ne _ hk)
      (fun a ha => ?_) hlist rfl hround
    have ha' : ((Machine.freeAllTags h s).stations.drop h).find h = some a := ha
    rw [Table.find_drop_same] at ha'
    cases ha'

theorem Station.lawful_new (running : Bool) (l : LinkId) {address : Byte} {limit : Nat}
    (ha : 1 ≤ address.toNat ∧ address.toNat ≤ 126) (hl : 1 ≤ limit ∧ limit ≤ 4) :
    (newStation running l address limit).Lawful where
  limit := hl
  address := ha
  capacity := Nat.zero_le _
  absent := fun _ => rfl
  stale := by cases running <;> rfl
  miss := Nat.zero_le _
  leaving := fun _ => rfl

/-- R6: a link that idles takes up its new station. -/
theorem DirectoryLaw.appendedWhileIdle {l : LinkId} {h : Nat} (hm : h ∈ s.pollList l) (hs : DirectoryLaw s) :
    DirectoryLaw (appendedWhileIdle l h s) := by
  unfold Machine.appendedWhileIdle
  split
  · have hpos : DirectoryLaw (s.modifyLink l (fun k => { k with roundPos := some h })) :=
      hs.modifyLink (.inr fun k hk => Option.some.inj hk ▸ hm)
    exact hpos.modifyLink (decideLink_roundPos _ l _)
  · exact hs

theorem DirectoryLaw.handOn (o : Owner) (e : Option WriteError) (hs : DirectoryLaw s) :
    DirectoryLaw (handOn o e s) := by
  unfold Machine.handOn
  split
  · exact mirrorEndOk_keeps (fun _ => hs.modifyBinding _ _)
      (fun _ _ => (hs.modifyBinding _ _).freeBinding _)
  · exact mirrorEndError_keeps (fun _ => hs.modifyBinding _ _)
      (fun _ _ => (hs.modifyBinding _ _).freeBinding _)
      (fun _ _ _ => hs.congr (SameDirectory.of_eq rfl rfl rfl (fun _ => rfl)))
  · exact hs.congr (SameDirectory.of_eq rfl rfl rfl (fun _ => rfl))

theorem DirectoryLaw.mirrorStart (hs : DirectoryLaw s) : DirectoryLaw (mirrorWriteStart s) := by
  unfold mirrorWriteStart
  split
  · split
    · exact hs
    split
    · exact hs
    · exact hs.congr (SameDirectory.of_eq rfl rfl rfl (fun _ => rfl))
  · exact hs

/-- After a reset there is nothing in the directory and no round position. -/
theorem DirectoryLaw.empty (hst : s.stations = ⟨[]⟩) (hp : s.points = ⟨[]⟩) (hl : ∀ l, s.pollList l = [])
    (hr : ∀ l, (s.link l).roundPos = none) : DirectoryLaw s where
  canonical := hst ▸ Table.canonical_empty
  stations := hst ▸ Table.All.empty _
  distinct := fun _ _ _ _ h => by rw [hst] at h; cases h
  pollNodup := fun l => hl l ▸ List.nodup_nil
  pollList := fun l h => by
    rw [hl, hst]
    exact ⟨fun h => (by cases h), fun ⟨_, h, _⟩ => by cases h⟩
  roundPos := fun l h hh => by rw [hr] at hh; cases hh
  inChain := fun _ _ h => by rw [hp] at h; cases h
  ofChain := fun _ _ h => by rw [hst] at h; cases h
  ascending := fun _ _ h => by rw [hst] at h; cases h

theorem DirectoryLaw.placeSlot (k : Nat) (r : Slot) (l : LinkId) (hs : DirectoryLaw s) :
    DirectoryLaw (placeSlot k r l s) := by
  have hput : DirectoryLaw { s.modifyPoint r.point (fun p => { p with pendingCmd := some k }) with
      slots := s.slots.put k r
      cmdQueues := s.cmdQueues.modify l (fun q => q ++ [k]) } :=
    hs.congr (SameDirectory.of_points rfl rfl (map_modify _ _ (fun _ _ => rfl)) (fun _ => rfl))
  unfold Machine.placeSlot noticeNewSlot
  split
  · refine hput.modifyLink (.inl ?_)
    obtain ⟨-, -, hround, -⟩ := Link.openInGap_keeps (State.link _ l)
    exact hround
  · exact hput

theorem DirectoryLaw.kept : KeptByPieces DirectoryLaw where
  core := fun hc hs => hs.congr (SameDirectory.of_eq hc.stations hc.pollLists hc.points
    (fun l => by unfold State.link; rw [hc.links]))
  anyLink := fun hf hs => hs.modifyLink hf
  phase := fun _ hs => hs.congr (SameDirectory.of_eq rfl rfl rfl (fun _ => rfl))
  point := fun hp hm hs => hs.putPoint hp hm.seat
  event := fun _ _ hs => hs.congr (SameDirectory.of_eq (by simp) (by simp) (by simp)
    (fun l => by simp [State.link]))
  station := fun hst hm hs => hs.modifyStation hst hm
  leave := fun hst hl hs => hs.freeStation (fun a ha => by
    rw [hst] at ha
    cases ha
    exact hl)
  leaveAll := fun l hs => hs.freeStations _ (fun sid hsid st hst => by
    obtain ⟨a, ha, -, hleave⟩ := hs.mem_leavingStations.mp hsid
    rw [hst] at ha
    cases ha
    exact hleave)
  finish := fun k result code fate hs => hs.finishSlot k result code fate
  slot := fun _ _ _ hs => hs.congr (SameDirectory.of_eq rfl rfl rfl (fun _ => rfl))
  dequeue := fun _ hs => hs.congr (SameDirectory.of_eq rfl rfl rfl (fun _ => rfl))
  freeTag := fun sid tag hs => hs.freeTag sid tag
  freeAllTags := fun sid hs => hs.freeAllTags sid
  takeTag := fun _ _ _ hs => hs.congr (SameDirectory.of_eq rfl rfl rfl (fun _ => rfl))
  softReset := fun {s} _ => DirectoryLaw.empty rfl rfl (fun l => Quad.get_all _ l) (fun l => by
    show ((s.links.map Link.softReset).get l).roundPos = none
    rw [Quad.get_map]
    rfl)
  hardwareReset := fun _ => DirectoryLaw.empty rfl rfl (fun l => Quad.get_all _ l) (fun l => by
    show ((Quad.all Link.reset).get l).roundPos = none
    rw [Quad.get_all]
    rfl)
  addStation := fun {s l a limit h} ha ha' hl hl' hheld hh hs => by
    refine DirectoryLaw.appendedWhileIdle (l := l) ?_
      (hs.append (st := newStation (s.link l).running l a limit) (Table.lowestFree_spec hh).1
        (Station.lawful_new _ l ⟨ha, ha'⟩ ⟨hl, hl'⟩) ?_ rfl hheld)
    · show h ∈ (s.pollLists.modify l (fun q => q ++ [h])).get l
      rw [Quad.get_modify_same]
      simp
    · show (if (s.link l).running then StationState.joining else .silent) ≠ .leaving
      split <;> exact fun hx => by cases hx
  removeStation := fun hst _ hc hs => hs.remove hst hc
  createPoint := fun _ _ _ hst hl hnew _ hh hs =>
    hs.placePoint hst hl (Table.lowestFree_spec hh).1 hnew
  retirePoint := fun hp _ hs => hs.retire hp
  bind := fun _ _ _ _ _ _ _ _ hs =>
    DirectoryLaw.queueBinding _ (hs.congr
      (SameDirectory.of_points rfl rfl (map_modify _ _ (fun _ _ => rfl)) (fun _ => rfl)))
  detach := fun _ _ _ hs => hs.congr (SameDirectory.of_eq rfl rfl rfl (fun _ => rfl))
  unbind := fun _ _ _ hs => hs.freeBinding _
  resume := fun _ _ hs => (hs.modifyBinding _ _).queueBinding _
  sendCommand := fun _ _ _ _ _ _ _ _ _ _ hs => hs.placeSlot _ _ _
  collect := fun _ _ hs => hs.congr (SameDirectory.of_eq rfl rfl rfl (fun _ => rfl))
  mirrorStart := fun hs => hs.mirrorStart
  messageStart := fun hs => hs.congr (SameDirectory.of_eq (by simp) (by simp) (by simp)
    (fun l => by simp [State.link]))
  endTransaction := fun {s t} e _ hs => by
    have hidle : DirectoryLaw (setPhase .idle s) :=
      hs.congr (SameDirectory.of_eq rfl rfl rfl (fun _ => rfl))
    unfold endTransaction
    dsimp only
    split
    · exact hidle
    · exact (hidle.handOn t.owner e).congr (SameDirectory.of_eq rfl rfl rfl (fun _ => rfl))

end

/-- Settles O57: the pieces of every command keep the law. -/
theorem stepKeepsDirectoryLaw : Obligations.StepKeepsDirectoryLaw :=
  fun _ _ hs ht => DirectoryLaw.kept.keptByCore.step hs ht

end Sys2Proof.Machine
end


section
/-! Every step keeps the law of the binding chains (O58). -/

namespace Sys2Proof.Machine

/-! ## What the law looks at -/

/-- The parts of a point that the law looks at. -/
def Point.hold (p : Point) : List Nat × Bool := (p.bindings, decide (p.state = .retiring))

theorem Point.hold_eq_iff {a b : Point} : a.hold = b.hold ↔
    a.bindings = b.bindings ∧ (a.state = .retiring ↔ b.state = .retiring) := by
  unfold Point.hold
  rw [Prod.mk.injEq, decide_eq_decide]

theorem Point.Moves.hold {a b : Point} (h : a.Moves b) : b.hold = a.hold :=
  Point.hold_eq_iff.mpr ⟨h.bindings, h.retiring⟩

/-- The parts of a binding that the law looks at. -/
def Binding.hold (r : Binding) : Nat × BindingState := (r.point, r.state)

section

variable {s t : State}

/-- A change of the state that the law does not see. -/
structure SameChains (s t : State) : Prop where
  points : ∀ h, (t.points.find h).map Point.hold = (s.points.find h).map Point.hold
  bindings : ∀ b, (t.bindings.find b).map Binding.hold = (s.bindings.find b).map Binding.hold

theorem SameChains.of_eq (hp : t.points = s.points) (hb : t.bindings = s.bindings) : SameChains s t :=
  ⟨fun h => by rw [hp], fun b => by rw [hb]⟩

/-- The law but that bindings `T` of the RETIRING point `h` are still to be closed. -/
structure ChainLawBut (h : Nat) (T : Nat → Prop) (s : State) : Prop where
  inChain : ∀ b r, s.bindings.find b = some r → ∃ p, s.points.find r.point = some p ∧ b ∈ p.bindings
  ofChain : ∀ k p, s.points.find k = some p → ∀ b, b ∈ p.bindings →
    ∃ r, s.bindings.find b = some r ∧ r.point = k
  nodup : ∀ k p, s.points.find k = some p → p.bindings.Nodup
  length : ∀ k p, s.points.find k = some p → p.bindings.length ≤ 8
  closed : ∀ b r p, s.bindings.find b = some r → s.points.find r.point = some p → p.state = .retiring →
    r.state = .closing ∨ r.state = .detaching ∨ r.point = h ∧ T b
  closing : ∀ b r p, s.bindings.find b = some r → s.points.find r.point = some p → r.state = .closing →
    p.state = .retiring

theorem BindingChainLaw.but (hs : BindingChainLaw s) (h : Nat) (T : Nat → Prop) : ChainLawBut h T s where
  inChain := hs.inChain
  ofChain := hs.ofChain
  nodup := hs.nodup
  length := hs.length
  closed := fun b r p hr hp hret => by
    obtain ⟨q, hq, hb⟩ := hs.inChain b r hr
    rw [hp] at hq
    cases hq
    exact ((hs.closing _ p hp b r hb hr).1 hret).imp_right .inl
  closing := fun b r p hr hp hc => by
    obtain ⟨q, hq, hb⟩ := hs.inChain b r hr
    rw [hp] at hq
    cases hq
    exact (hs.closing _ p hp b r hb hr).2 hc

variable {h : Nat} {T : Nat → Prop}

theorem ChainLawBut.law (hs : ChainLawBut h (fun _ => False) s) : BindingChainLaw s where
  inChain := hs.inChain
  ofChain := hs.ofChain
  nodup := hs.nodup
  length := hs.length
  closing := fun k p hp b r hb hr => by
    obtain ⟨q, hq, rfl⟩ := hs.ofChain k p hp b hb
    rw [hr] at hq
    cases hq
    refine ⟨fun hret => ?_, hs.closing b r p hr hp⟩
    rcases hs.closed b r p hr hp hret with hc | hc | ⟨-, hf⟩
    · exact .inl hc
    · exact .inr hc
    · exact hf.elim

theorem ChainLawBut.congr (hs : ChainLawBut h T s) (hst : SameChains s t) : ChainLawBut h T t := by
  have pback {k : Nat} {p : Point} (hp : t.points.find k = some p) :
      ∃ q, s.points.find k = some q ∧ p.bindings = q.bindings ∧
        (p.state = .retiring ↔ q.state = .retiring) := by
    obtain ⟨q, hq, hhold⟩ := find_of_map_eq (hst.points k) hp
    exact ⟨q, hq, Point.hold_eq_iff.mp hhold⟩
  have pforth {k : Nat} {p : Point} (hp : s.points.find k = some p) :
      ∃ q, t.points.find k = some q ∧ p.bindings = q.bindings := by
    obtain ⟨q, hq, hhold⟩ := find_of_map_eq (hst.points k).symm hp
    exact ⟨q, hq, (Point.hold_eq_iff.mp hhold).1⟩
  have bback {b : Nat} {r : Binding} (hr : t.bindings.find b = some r) :
      ∃ q, s.bindings.find b = some q ∧ r.point = q.point ∧ r.state = q.state := by
    obtain ⟨q, hq, hhold⟩ := find_of_map_eq (hst.bindings b) hr
    exact ⟨q, hq, Prod.mk.inj hhold⟩
  exact
    { inChain := fun b r hr => by
        obtain ⟨q, hq, hpoint, -⟩ := bback hr
        obtain ⟨p, hp, hb⟩ := hs.inChain b q hq
        obtain ⟨p', hp', hbs⟩ := pforth hp
        exact ⟨p', hpoint ▸ hp', hbs ▸ hb⟩
      ofChain := fun k p hp b hb => by
        obtain ⟨q, hq, hbs, -⟩ := pback hp
        obtain ⟨r, hr, hrk⟩ := hs.ofChain k q hq b (hbs ▸ hb)
        obtain ⟨r', hr', hhold⟩ := find_of_map_eq (hst.bindings b).symm hr
        exact ⟨r', hr', (Prod.mk.inj hhold).1.symm.trans hrk⟩
      nodup := fun k p hp => by
        obtain ⟨q, hq, hbs, -⟩ := pback hp
        exact hbs ▸ hs.nodup k q hq
      length := fun k p hp => by
        obtain ⟨q, hq, hbs, -⟩ := pback hp
        exact hbs ▸ hs.length k q hq
      closed := fun b r p hr hp hret => by
        obtain ⟨q, hq, hpoint, hstate⟩ := bback hr
        obtain ⟨p', hp', -, hiff⟩ := pback hp
        rw [hpoint] at hp' ⊢
        rw [hstate]
        exact hs.closed b q p' hq hp' (hiff.mp hret)
      closing := fun b r p hr hp hc => by
        obtain ⟨q, hq, hpoint, hstate⟩ := bback hr
        obtain ⟨p', hp', -, hiff⟩ := pback hp
        rw [hpoint] at hp'
        exact hiff.mpr (hs.closing b q p' hq hp' (hstate ▸ hc)) }

/-- A RETIRING point without bindings goes. -/
theorem ChainLawBut.testFree (k : Nat) (hs : ChainLawBut h T s) : ChainLawBut h T (testFree k s) := by
  unfold Machine.testFree
  split
  · exact hs
  rename_i p hp
  split
  · rename_i hfree
    obtain ⟨-, -, hnil⟩ := hfree
    have hback {j : Nat} {q : Point} (hq : (s.points.drop k).find j = some q) : s.points.find j = some q := by
      rw [Table.find_drop] at hq
      split at hq
      · cases hq
      · exact hq
    exact
      { inChain := fun b r hr => by
          obtain ⟨q, hq, hb⟩ := hs.inChain b r hr
          refine ⟨q, (Table.find_drop_ne _ ?_).trans hq, hb⟩
          intro hk
          rw [hk, hp] at hq
          cases hq
          rw [hnil] at hb
          cases hb
        ofChain := fun j q hq => hs.ofChain j q (hback hq)
        nodup := fun j q hq => hs.nodup j q (hback hq)
        length := fun j q hq => hs.length j q (hback hq)
        closed := fun b r q hr hq => hs.closed b r q hr (hback hq)
        closing := fun b r q hr hq => hs.closing b r q hr (hback hq) }
  · exact hs

/-- R51: a binding leaves table and chain. -/
theorem ChainLawBut.freeBinding (b : Nat) (hs : ChainLawBut h T s) : ChainLawBut h T (freeBinding b s) := by
  unfold Machine.freeBinding
  split
  · exact hs
  rename_i r hr
  refine ChainLawBut.testFree _ ?_
  have bback {c : Nat} {q : Binding} (hq : (s.bindings.drop b).find c = some q) :
      c ≠ b ∧ s.bindings.find c = some q := by
    rw [Table.find_drop] at hq
    split at hq
    · cases hq
    · exact ⟨‹_›, hq⟩
  have hmodify (k : Nat) := Table.find_modify s.points r.point k
    (fun p => { p with bindings := without p.bindings b })
  -- A point after it: the one before, its chain without the binding.
  have pback {k : Nat} {p : Point} (hp : (s.points.modify r.point (fun p =>
      { p with bindings := without p.bindings b })).find k = some p) :
      ∃ q, s.points.find k = some q ∧ p.bindings = without q.bindings b ∧ p.state = q.state := by
    rw [hmodify] at hp
    split at hp
    · rename_i hk
      subst hk
      obtain ⟨q, hq, rfl⟩ := Option.map_eq_some_iff.mp hp
      exact ⟨q, hq, rfl, rfl⟩
    · rename_i hk
      refine ⟨p, hp, (without_eq_of_notMem fun hb => ?_).symm, rfl⟩
      obtain ⟨r', hr', hrk⟩ := hs.ofChain k p hp b hb
      rw [hr] at hr'
      cases hr'
      exact hk hrk.symm
  have pforth {k c : Nat} {q : Point} (hq : s.points.find k = some q) (hc : c ∈ q.bindings) (hcb : c ≠ b) :
      ∃ p, (s.points.modify r.point (fun p => { p with bindings := without p.bindings b })).find k = some p ∧
        c ∈ p.bindings := by
    rw [hmodify]
    split
    · rename_i hk
      subst hk
      exact ⟨_, by rw [hq]; rfl, mem_without.mpr ⟨hc, hcb⟩⟩
    · exact ⟨q, hq, hc⟩
  exact
    { inChain := fun c q hq => by
        obtain ⟨hcb, hq⟩ := bback hq
        obtain ⟨p, hp, hc⟩ := hs.inChain c q hq
        exact pforth hp hc hcb
      ofChain := fun k p hp c hc => by
        obtain ⟨q, hq, hbs, -⟩ := pback hp
        rw [hbs, mem_without] at hc
        obtain ⟨r', hr', hrk⟩ := hs.ofChain k q hq c hc.1
        exact ⟨r', (Table.find_drop_ne _ hc.2).trans hr', hrk⟩
      nodup := fun k p hp => by
        obtain ⟨q, hq, hbs, -⟩ := pback hp
        rw [hbs]
        exact without_nodup (hs.nodup k q hq) b
      length := fun k p hp => by
        obtain ⟨q, hq, hbs, -⟩ := pback hp
        rw [hbs]
        exact (List.length_filter_le _ _).trans (hs.length k q hq)
      closed := fun c q p hq hp hret => by
        obtain ⟨p', hp', -, hstate⟩ := pback hp
        exact hs.closed c q p' (bback hq).2 hp' (hstate ▸ hret)
      closing := fun c q p hq hp hc => by
        obtain ⟨p', hp', -, hstate⟩ := pback hp
        rw [hstate]
        exact hs.closing c q p' (bback hq).2 hp' hc }

/-- A binding changes its state as its point allows. -/
theorem ChainLawBut.modifyBinding {b : Nat} {f : Binding → Binding} {U : Nat → Prop}
    (hs : ChainLawBut h T s) (hpoint : ∀ r, (f r).point = r.point) (hU : ∀ k, k ≠ b → T k → U k)
    (hstate : ∀ r p, s.bindings.find b = some r → s.points.find r.point = some p →
      (p.state = .retiring → (f r).state = .closing ∨ (f r).state = .detaching ∨ r.point = h ∧ U b) ∧
        ((f r).state = .closing → p.state = .retiring)) : ChainLawBut h U (s.modifyBinding b f) := by
  have hback {c : Nat} {q : Binding} (hq : (s.bindings.modify b f).find c = some q) :
      ∃ r, s.bindings.find c = some r ∧ q.point = r.point ∧ (c = b → q = f r) ∧ (c ≠ b → q = r) := by
    rw [Table.find_modify] at hq
    split at hq
    · rename_i hc
      subst hc
      obtain ⟨r, hr, rfl⟩ := Option.map_eq_some_iff.mp hq
      exact ⟨r, hr, hpoint r, fun _ => rfl, fun hne => absurd rfl hne⟩
    · rename_i hc
      exact ⟨q, hq, rfl, fun he => absurd he hc, fun _ => rfl⟩
  exact
    { inChain := fun c q hq => by
        obtain ⟨r, hr, hqr, -⟩ := hback hq
        rw [hqr]
        exact hs.inChain c r hr
      ofChain := fun k p hp c hc => by
        obtain ⟨r, hr, hrk⟩ := hs.ofChain k p hp c hc
        by_cases hcb : c = b
        · subst hcb
          exact ⟨f r, by rw [State.modifyBinding_bindings, Table.find_modify_same, hr]; rfl,
            (hpoint r).trans hrk⟩
        · exact ⟨r, (Table.find_modify_ne _ _ hcb).trans hr, hrk⟩
      nodup := hs.nodup
      length := hs.length
      closed := fun c q p hq hp hret => by
        obtain ⟨r, hr, hqr, hsame, hother⟩ := hback hq
        rw [hqr] at hp ⊢
        by_cases hcb : c = b
        · subst hcb
          rw [hsame rfl]
          exact (hstate r p hr hp).1 hret
        · rw [hother hcb]
          exact (hs.closed c r p hr hp hret).imp_right (Or.imp_right (And.imp_right (hU c hcb)))
      closing := fun c q p hq hp hc => by
        obtain ⟨r, hr, hqr, hsame, hother⟩ := hback hq
        rw [hqr] at hp
        by_cases hcb : c = b
        · subst hcb
          exact (hstate r p hr hp).2 (hsame rfl ▸ hc)
        · exact hs.closing c r p hr hp (hother hcb ▸ hc) }

theorem ChainLawBut.mono {U : Nat → Prop} (hs : ChainLawBut h T s)
    (hU : ∀ b r, s.bindings.find b = some r → r.point = h → T b →
      r.state = .closing ∨ r.state = .detaching ∨ U b) : ChainLawBut h U s where
  inChain := hs.inChain
  ofChain := hs.ofChain
  nodup := hs.nodup
  length := hs.length
  closed := fun b r p hr hp hret => by
    rcases hs.closed b r p hr hp hret with hc | hc | ⟨hrh, ht⟩
    · exact .inl hc
    · exact .inr (.inl hc)
    · exact (hU b r hr hrh ht).imp_right (Or.imp_right fun hu => ⟨hrh, hu⟩)
  closing := hs.closing

theorem ChainLawBut.queueBinding (b : Nat) (hs : ChainLawBut h T s) : ChainLawBut h T (queueBinding b s) :=
  hs.congr (SameChains.of_eq (by simp) (by simp))

/-! ## Retirement -/

/-- The point `h` is RETIRING or gone, and the bindings `T` are its own. -/
structure Retiring (h : Nat) (T : Nat → Prop) (s : State) : Prop where
  point : ∀ p, s.points.find h = some p → p.state = .retiring
  own : ∀ b r, T b → s.bindings.find b = some r → r.point = h

/-- R25: an open binding of a RETIRING point closes. -/
theorem ChainLawBut.closeBinding {b : Nat} (hb : T b) (hret : Retiring h T s) (hs : ChainLawBut h T s) :
    ChainLawBut h (fun k => T k ∧ k ≠ b) (closeBinding s b) := by
  have hdone (hno : ∀ r, s.bindings.find b = some r → r.state = .closing ∨ r.state = .detaching) :
      ChainLawBut h (fun k => T k ∧ k ≠ b) s := by
    refine hs.mono fun k r hr _ hk => ?_
    by_cases hkb : k = b
    · subst hkb
      exact (hno r hr).imp_right .inl
    · exact .inr (.inr ⟨hk, hkb⟩)
  unfold Machine.closeBinding
  split
  · rename_i hnone
    exact hdone fun r hr => by rw [hnone] at hr; cases hr
  rename_i r hr
  have hknown {q : Binding} (hq : s.bindings.find b = some q) : q = r := Option.some.inj (hq.symm.trans hr)
  split
  · refine ChainLawBut.queueBinding b (hs.modifyBinding (fun _ => rfl) (fun k hkb hk => ⟨hk, hkb⟩) ?_)
    intro q p hq hp
    exact ⟨fun _ => .inl rfl, fun _ => hret.point p (hret.own b q hb hq ▸ hp)⟩
  · have hfreed := hs.freeBinding b
    have hgone : (Machine.freeBinding b s).bindings.find b = none := by
      unfold Machine.freeBinding
      rw [hr]
      simp
    refine hfreed.mono fun k q hq _ hk => .inr (.inr ⟨hk, ?_⟩)
    rintro rfl
    rw [hgone] at hq
    cases hq
  · exact hdone fun q hq => .inl (by rw [hknown hq]; assumption)
  · exact hdone fun q hq => .inr (by rw [hknown hq]; assumption)

theorem Retiring.testFree (k : Nat) (hs : Retiring h T s) : Retiring h T (testFree k s) where
  point := fun p hp => by
    unfold Machine.testFree at hp
    split at hp
    · exact hs.point p hp
    split at hp
    · have hp' : (s.points.drop k).find h = some p := hp
      rw [Table.find_drop] at hp'
      split at hp'
      · cases hp'
      · exact hs.point p hp'
    · exact hs.point p hp
  own := fun b r hb hr => hs.own b r hb (by simpa using hr)

theorem Retiring.modifyPoint (k : Nat) {f : Point → Point} (hf : ∀ p, (f p).state = p.state)
    (hs : Retiring h T s) : Retiring h T (s.modifyPoint k f) where
  point := fun p hp => by
    rw [State.modifyPoint_points, Table.find_modify] at hp
    split at hp
    · rename_i hk
      subst hk
      obtain ⟨q, hq, rfl⟩ := Option.map_eq_some_iff.mp hp
      exact (hf q).trans (hs.point q hq)
    · exact hs.point p hp
  own := hs.own

theorem Retiring.freeBinding (b : Nat) (hs : Retiring h T s) : Retiring h T (freeBinding b s) := by
  unfold Machine.freeBinding
  split
  · exact hs
  · refine Retiring.testFree _ (Retiring.modifyPoint (s := unqueueBinding b _) _ (fun _ => rfl)
      { point := hs.point
        own := fun k r hk hr => hs.own k r hk ?_ })
    have hr' : (s.bindings.drop b).find k = some r := hr
    rw [Table.find_drop] at hr'
    split at hr'
    · cases hr'
    · exact hr'

theorem Retiring.closeBinding (b : Nat) (hs : Retiring h T s) : Retiring h T (closeBinding s b) := by
  unfold Machine.closeBinding
  split
  · exact hs
  split
  · exact
      { point := fun p hp => hs.point p (by simpa using hp)
        own := fun k r hk hr => by
          have hr' : (s.bindings.modify b (fun r => { r with state := .closing })).find k = some r := by
            simpa using hr
          rw [Table.find_modify] at hr'
          split at hr'
          · rename_i hkb
            subst hkb
            obtain ⟨q, hq, rfl⟩ := Option.map_eq_some_iff.mp hr'
            exact hs.own k q hk hq
          · exact hs.own k r hk hr' }
  · exact hs.freeBinding b
  · exact hs
  · exact hs

theorem ChainLawBut.closeAll (xs : List Nat) : ∀ {T : Nat → Prop} {s : State}, (∀ b, T b → b ∈ xs) →
    (∀ b ∈ xs, T b) → xs.Nodup → Retiring h T s → ChainLawBut h T s →
      BindingChainLaw (xs.foldl Machine.closeBinding s) := by
  induction xs with
  | nil =>
    intro T s hT _ _ _ hs
    exact (hs.mono (U := fun _ => False) fun b _ _ _ hb => by cases hT b hb).law
  | cons x r ih =>
    intro T s hT hxs hn hret hs
    obtain ⟨hx, hr⟩ := List.nodup_cons.mp hn
    refine ih (T := fun k => T k ∧ k ≠ x) (fun b hb => ?_) (fun b hb => ⟨hxs b (List.mem_cons_of_mem _ hb), ?_⟩)
      hr ?_ (hs.closeBinding (hxs x List.mem_cons_self) hret)
    · exact (List.mem_cons.mp (hT b hb.1)).resolve_left hb.2
    · rintro rfl
      exact hx hb
    · have hclosed := hret.closeBinding x
      exact ⟨hclosed.point, fun b q hb => hclosed.own b q hb.1⟩

/-- R25: every binding of a RETIRING point closes. -/
theorem ChainLawBut.closeBindings (hret : ∀ p, s.points.find h = some p → p.state = .retiring)
    (hs : ChainLawBut h (fun _ => True) s) : BindingChainLaw (closeBindings h s) := by
  unfold Machine.closeBindings
  split
  · rename_i hnone
    refine (hs.mono (U := fun _ => False) fun b r hr hrh _ => ?_).law
    obtain ⟨p, hp, -⟩ := hs.inChain b r hr
    rw [hrh, hnone] at hp
    cases hp
  · rename_i p hp
    refine ChainLawBut.closeAll p.bindings (T := (· ∈ p.bindings)) (fun _ hb => hb) (fun _ hb => hb)
      (hs.nodup h p hp) ⟨hret, fun b r hb hr => ?_⟩ (hs.mono fun b r hr hrh _ => ?_)
    · obtain ⟨q, hq, hqh⟩ := hs.ofChain h p hp b hb
      rw [hr] at hq
      cases hq
      exact hqh
    · obtain ⟨q, hq, hb⟩ := hs.inChain b r hr
      rw [hrh, hp] at hq
      cases hq
      exact .inr (.inr hb)

theorem ChainLawBut.modifyPoint (k : Nat) {f : Point → Point} (hf : ∀ p, (f p).hold = p.hold)
    (hs : ChainLawBut h T s) : ChainLawBut h T (s.modifyPoint k f) :=
  hs.congr ⟨map_modify _ _ (fun p _ => hf p), fun _ => rfl⟩

theorem ChainLawBut.finishSlot (k : Nat) (result : CommandResult) (code : Byte) (fate : TagFate)
    (hs : ChainLawBut h T s) : ChainLawBut h T (finishSlot k result code fate s) := by
  cases hr : s.slots.find k with
  | none => rw [finishSlot_free hr]; exact hs
  | some r =>
    rw [finishSlot_eq hr]
    exact ChainLawBut.testFree _ (hs.congr ⟨map_modify _ _ (fun _ _ => rfl), fun _ => rfl⟩)

theorem Retiring.finishSlot (k : Nat) (result : CommandResult) (code : Byte) (fate : TagFate)
    (hs : Retiring h T s) : Retiring h T (finishSlot k result code fate s) := by
  cases hr : s.slots.find k with
  | none => rw [finishSlot_free hr]; exact hs
  | some r =>
    rw [finishSlot_eq hr]
    have hmodified := hs.modifyPoint r.point (f := fun p => { p with pendingCmd := none }) (fun _ => rfl)
    exact Retiring.testFree _ ⟨hmodified.point, hmodified.own⟩

/-- R22 to R26: the whole retirement. -/
theorem BindingChainLaw.retire {p : Point} (hp : s.points.find h = some p) (hs : BindingChainLaw s) :
    BindingChainLaw (retireRecord h p s) := by
  have hfind (k : Nat) := Table.find_put s.points h k p.retire
  have hput : ChainLawBut h (fun _ => True) { s with points := s.points.put h p.retire } := by
    have hold := hs.but h (fun _ => True)
    -- A point after it: the one before, but for the state of point `h`.
    have pback {k : Nat} {q : Point} (hq : (s.points.put h p.retire).find k = some q) :
        ∃ q', s.points.find k = some q' ∧ q.bindings = q'.bindings ∧ (k ≠ h → q = q') ∧
          (k = h → q.state = .retiring) := by
      rw [hfind] at hq
      split at hq
      · rename_i hk
        subst hk
        cases hq
        exact ⟨p, hp, rfl, fun hne => absurd rfl hne, fun _ => rfl⟩
      · rename_i hk
        exact ⟨q, hq, rfl, fun _ => rfl, fun he => absurd he hk⟩
    have pforth {k : Nat} {q : Point} (hq : s.points.find k = some q) :
        ∃ q', (s.points.put h p.retire).find k = some q' ∧ q'.bindings = q.bindings := by
      rw [hfind]
      split
      · rename_i hk
        subst hk
        rw [hp] at hq
        cases hq
        exact ⟨_, rfl, rfl⟩
      · exact ⟨q, hq, rfl⟩
    exact
      { inChain := fun b r hr => by
          obtain ⟨q, hq, hb⟩ := hs.inChain b r hr
          obtain ⟨q', hq', hbs⟩ := pforth hq
          exact ⟨q', hq', hbs ▸ hb⟩
        ofChain := fun k q hq b hb => by
          obtain ⟨q', hq', hbs, -⟩ := pback hq
          exact hs.ofChain k q' hq' b (hbs ▸ hb)
        nodup := fun k q hq => by
          obtain ⟨q', hq', hbs, -⟩ := pback hq
          exact hbs ▸ hs.nodup k q' hq'
        length := fun k q hq => by
          obtain ⟨q', hq', hbs, -⟩ := pback hq
          exact hbs ▸ hs.length k q' hq'
        closed := fun b r q hr hq hret => by
          obtain ⟨q', hq', -, hother, -⟩ := pback hq
          by_cases hrh : r.point = h
          · exact .inr (.inr ⟨hrh, trivial⟩)
          · exact hold.closed b r q' hr hq' (hother hrh ▸ hret)
        closing := fun b r q hr hq hc => by
          obtain ⟨q', hq', -, hother, hself⟩ := pback hq
          by_cases hrh : r.point = h
          · exact hself hrh
          · exact hother hrh ▸ hold.closing b r q' hr hq' hc }
  have hret : Retiring h (fun _ => False) { s with points := s.points.put h p.retire } :=
    ⟨fun q hq => by
      rw [hfind, if_pos rfl] at hq
      cases hq
      rfl, fun _ _ hf => hf.elim⟩
  unfold retireRecord
  refine (ChainLawBut.testFree (T := fun _ => False) h
    (BindingChainLaw.but (ChainLawBut.closeBindings ?_ ?_) h _)).law
  · split
    · exact hret.point
    · exact (retireCommand_keeps (fun k result code fate hp => hp.finishSlot k result code fate)
        (fun _ _ _ hp => ⟨hp.point, hp.own⟩) (fun _ hp => ⟨hp.point, hp.own⟩) _ hret).point
  · split
    · exact hput
    · exact retireCommand_keeps (fun k result code fate hp => hp.finishSlot k result code fate)
        (fun _ _ _ hp => hp.congr (SameChains.of_eq rfl rfl))
        (fun _ hp => hp.congr (SameChains.of_eq rfl rfl)) _ hput

/-! ## The pieces -/

theorem BindingChainLaw.congr (hs : BindingChainLaw s) (hst : SameChains s t) : BindingChainLaw t :=
  ((hs.but 0 _).congr hst).law

theorem BindingChainLaw.freeBinding (b : Nat) (hs : BindingChainLaw s) : BindingChainLaw (freeBinding b s) :=
  ((hs.but 0 _).freeBinding b).law

/-- A binding changes its state as its point allows. -/
theorem BindingChainLaw.modifyBinding {b : Nat} {r : Binding} {f : Binding → Binding}
    (hr : s.bindings.find b = some r) (hpoint : ∀ r, (f r).point = r.point)
    (hclosed : r.state = .closing ∨ r.state = .detaching →
      (f r).state = .closing ∨ (f r).state = .detaching)
    (hclosing : (f r).state = .closing → r.state = .closing) (hs : BindingChainLaw s) :
    BindingChainLaw (s.modifyBinding b f) := by
  have hbut := hs.but 0 (fun _ => False)
  refine (hbut.modifyBinding hpoint (fun _ _ hf => hf) fun q p hq hp => ?_).law
  obtain rfl : r = q := Option.some.inj (hr.symm.trans hq)
  refine ⟨fun hret => ?_, fun hc => hbut.closing b r p hr hp (hclosing hc)⟩
  rcases hbut.closed b r p hr hp hret with hc | hc | ⟨-, hf⟩
  · exact (hclosed (.inl hc)).imp_right .inl
  · exact (hclosed (.inr hc)).imp_right .inl
  · exact hf.elim

theorem BindingChainLaw.landed (b : Nat) (hs : BindingChainLaw s) :
    BindingChainLaw (s.modifyBinding b Binding.landed) :=
  hs.congr ⟨fun _ => rfl, map_modify _ _ (fun _ _ => rfl)⟩

/-- R62: a new binding takes the last place of its point's chain. -/
theorem BindingChainLaw.place {b : Nat} {r : Binding} {p : Point} (hfree : s.bindings.find b = none)
    (hp : s.points.find r.point = some p) (hret : p.state ≠ .retiring) (hlen : p.bindings.length < 8)
    (hstate : r.state = .active) (hs : BindingChainLaw s) : BindingChainLaw (placeBinding b r s) := by
  refine BindingChainLaw.congr (s := { s.modifyPoint r.point (fun p =>
      { p with bindings := p.bindings ++ [b] }) with bindings := s.bindings.put b r }) ?_
    (SameChains.of_eq (queueBinding_points _ _) (by simp [placeBinding]))
  have hput (k : Nat) := Table.find_put s.bindings b k r
  have hmodify (k : Nat) := Table.find_modify s.points r.point k
    (fun p => { p with bindings := p.bindings ++ [b] })
  have hkept {k : Nat} {q : Binding} (hq : s.bindings.find k = some q) :
      (s.bindings.put b r).find k = some q := by
    rw [hput, if_neg]
    · exact hq
    · rintro rfl
      rw [hfree] at hq
      cases hq
  have hnew {k : Nat} {q : Point} (hq : s.points.find k = some q) : b ∉ q.bindings := by
    intro hb
    obtain ⟨r', hr', -⟩ := hs.ofChain k q hq b hb
    rw [hfree] at hr'
    cases hr'
  have pback {k : Nat} {q : Point} (hq : (s.points.modify r.point (fun p =>
      { p with bindings := p.bindings ++ [b] })).find k = some q) :
      ∃ q', s.points.find k = some q' ∧ q.state = q'.state ∧ (k ≠ r.point → q.bindings = q'.bindings) ∧
        (k = r.point → q' = p ∧ q.bindings = p.bindings ++ [b]) := by
    rw [hmodify] at hq
    split at hq
    · rename_i hk
      subst hk
      rw [hp] at hq
      cases hq
      exact ⟨p, hp, rfl, fun hne => absurd rfl hne, fun _ => ⟨rfl, rfl⟩⟩
    · rename_i hk
      exact ⟨q, hq, rfl, fun _ => rfl, fun he => absurd he hk⟩
  have pforth {k : Nat} {q : Point} (hq : s.points.find k = some q) :
      ∃ q', (s.points.modify r.point (fun p => { p with bindings := p.bindings ++ [b] })).find k = some q' ∧
        (∀ x, x ∈ q.bindings → x ∈ q'.bindings) ∧ (k = r.point → b ∈ q'.bindings) := by
    rw [hmodify]
    split
    · rename_i hk
      subst hk
      exact ⟨_, by rw [hq]; rfl, fun x hx => List.mem_append.mpr (.inl hx), fun _ => by simp⟩
    · rename_i hk
      exact ⟨q, hq, fun x hx => hx, fun he => absurd he hk⟩
  refine
    { inChain := fun k q hq => ?_
      ofChain := fun k q hq c hc => ?_
      nodup := fun k q hq => ?_
      length := fun k q hq => ?_
      closing := fun k q hq c r' hc hr' => ?_ }
  · have hq' : (s.bindings.put b r).find k = some q := hq
    rw [hput] at hq'
    split at hq'
    · rename_i hk
      subst hk
      cases hq'
      obtain ⟨p', hp', -, hb⟩ := pforth hp
      exact ⟨p', hp', hb rfl⟩
    · obtain ⟨p', hp', hk⟩ := hs.inChain k q hq'
      obtain ⟨p'', hp'', hmem, -⟩ := pforth hp'
      exact ⟨p'', hp'', hmem k hk⟩
  · obtain ⟨q', hq', -, hother, hself⟩ := pback hq
    by_cases hk : k = r.point
    · obtain ⟨rfl, hbs⟩ := hself hk
      rw [hbs, List.mem_append, List.mem_singleton] at hc
      rcases hc with hc | rfl
      · obtain ⟨r', hr', hrk⟩ := hs.ofChain k q' hq' c hc
        exact ⟨r', hkept hr', hrk⟩
      · exact ⟨r, Table.find_put_same _ _ _, hk.symm⟩
    · rw [hother hk] at hc
      obtain ⟨r', hr', hrk⟩ := hs.ofChain k q' hq' c hc
      exact ⟨r', hkept hr', hrk⟩
  · obtain ⟨q', hq', -, hother, hself⟩ := pback hq
    by_cases hk : k = r.point
    · obtain ⟨rfl, hbs⟩ := hself hk
      rw [hbs]
      refine List.nodup_append.mpr ⟨hs.nodup k q' hq', List.nodup_singleton b, fun x hx y hy hxy => ?_⟩
      rw [List.mem_singleton] at hy
      exact hnew hq' (hy ▸ hxy ▸ hx)
    · rw [hother hk]
      exact hs.nodup k q' hq'
  · obtain ⟨q', hq', -, hother, hself⟩ := pback hq
    by_cases hk : k = r.point
    · obtain ⟨rfl, hbs⟩ := hself hk
      rw [hbs, List.length_append]
      simp only [List.length_singleton]
      omega
    · rw [hother hk]
      exact hs.length k q' hq'
  · obtain ⟨q', hq', hqs, hother, hself⟩ := pback hq
    have hr'' : (s.bindings.put b r).find c = some r' := hr'
    rw [hput] at hr''
    split at hr''
    · rename_i hcb
      subst hcb
      cases hr''
      have hk : k = r.point := by
        by_contra hk
        rw [hother hk] at hc
        exact hnew hq' hc
      obtain ⟨rfl, -⟩ := hself hk
      exact ⟨fun hr => absurd (hqs ▸ hr) hret, fun hc => by rw [hstate] at hc; cases hc⟩
    · rename_i hcb
      have hc' : c ∈ q'.bindings := by
        by_cases hk : k = r.point
        · obtain ⟨rfl, hbs⟩ := hself hk
          rw [hbs, List.mem_append, List.mem_singleton] at hc
          exact hc.resolve_right hcb
        · exact hother hk ▸ hc
      rw [hqs]
      exact hs.closing k q' hq' c r' hc' hr''

/-- R16: a new point has no bindings. -/
theorem BindingChainLaw.addPoint {p : Point} (hfree : s.points.find h = none) (hnil : p.bindings = [])
    (hs : BindingChainLaw s) : BindingChainLaw (placePoint h p s) := by
  have hput (k : Nat) := Table.find_put s.points h k p
  have pback {k : Nat} {q : Point} (hq : (s.points.put h p).find k = some q) :
      q.bindings = [] ∨ s.points.find k = some q := by
    rw [hput] at hq
    split at hq
    · cases hq
      exact .inl hnil
    · exact .inr hq
  exact
    { inChain := fun b r hr => by
        obtain ⟨q, hq, hb⟩ := hs.inChain b r hr
        refine ⟨q, (Table.find_put_ne _ _ fun hk => ?_).trans hq, hb⟩
        rw [hk, hfree] at hq
        cases hq
      ofChain := fun k q hq b hb => by
        rcases pback hq with hn | hq
        · rw [hn] at hb
          cases hb
        · exact hs.ofChain k q hq b hb
      nodup := fun k q hq => by
        rcases pback hq with hn | hq
        · exact hn ▸ List.nodup_nil
        · exact hs.nodup k q hq
      length := fun k q hq => by
        rcases pback hq with hn | hq
        · rw [hn]
          exact Nat.zero_le _
        · exact hs.length k q hq
      closing := fun k q hq b r hb => by
        rcases pback hq with hn | hq
        · rw [hn] at hb
          cases hb
        · exact hs.closing k q hq b r hb }

theorem BindingChainLaw.empty (hp : s.points = ⟨[]⟩) (hb : s.bindings = ⟨[]⟩) : BindingChainLaw s where
  inChain := fun _ _ h => by rw [hb] at h; cases h
  ofChain := fun _ _ h => by rw [hp] at h; cases h
  nodup := fun _ _ h => by rw [hp] at h; cases h
  length := fun _ _ h => by rw [hp] at h; cases h
  closing := fun _ _ h => by rw [hp] at h; cases h

theorem BindingChainLaw.handOn (o : Owner) (e : Option WriteError) (hs : BindingChainLaw s) :
    BindingChainLaw (handOn o e s) := by
  unfold Machine.handOn
  split
  · exact mirrorEndOk_keeps (fun _ => hs.landed _) (fun _ _ => (hs.landed _).freeBinding _)
  · rename_i b _ e
    refine mirrorEndError_keeps (fun _ => hs.landed _) (fun _ _ => (hs.landed _).freeBinding _)
      (fun r hr hstate => ?_)
    have hunqueued : BindingChainLaw (unqueueBinding b (s.modifyBinding b Binding.landed)) :=
      (hs.landed b).congr (SameChains.of_eq rfl rfl)
    refine BindingChainLaw.congr (s := suspendLanded b e s)
      (hunqueued.modifyBinding (r := r.landed) ?_ (fun _ => rfl) (fun hc => ?_) (fun hc => by cases hc))
      (SameChains.of_eq rfl rfl)
    · exact (Table.find_modify_same _ _ _).trans (by rw [hr]; rfl)
    · have hactive : r.landed.state = .active := hstate
      rw [hactive] at hc
      rcases hc with hc | hc <;> cases hc
  · exact hs.congr (SameChains.of_eq rfl rfl)

theorem BindingChainLaw.mirrorStart (hs : BindingChainLaw s) : BindingChainLaw (mirrorWriteStart s) := by
  unfold mirrorWriteStart
  split
  · split
    · exact hs
    split
    · exact hs
    · exact hs.congr ⟨fun _ => rfl, map_modify _ _ (fun _ _ => rfl)⟩
  · exact hs

theorem BindingChainLaw.kept : KeptByPieces BindingChainLaw where
  core := fun hc hs => hs.congr (SameChains.of_eq hc.points hc.bindings)
  anyLink := fun _ hs => hs.congr (SameChains.of_eq rfl rfl)
  phase := fun _ hs => hs.congr (SameChains.of_eq rfl rfl)
  point := fun hp hm hs => hs.congr ⟨map_put hp hm.hold, fun _ => rfl⟩
  event := fun _ _ hs => hs.congr (SameChains.of_eq (by simp) (by simp))
  station := fun _ _ hs => hs.congr (SameChains.of_eq rfl rfl)
  leave := fun _ _ hs => hs.congr (SameChains.of_eq rfl rfl)
  leaveAll := fun _ hs => hs.congr (SameChains.of_eq (freeStations_keeps State.points (fun _ _ => rfl) _ _)
    (freeStations_keeps State.bindings (fun _ _ => rfl) _ _))
  finish := fun k result code fate hs => ((hs.but 0 _).finishSlot k result code fate).law
  slot := fun _ _ _ hs => hs.congr (SameChains.of_eq rfl rfl)
  dequeue := fun _ hs => hs.congr (SameChains.of_eq rfl rfl)
  freeTag := fun _ _ hs => hs.congr (SameChains.of_eq (by simp) (by simp))
  freeAllTags := fun _ hs => hs.congr (SameChains.of_eq (by simp) (by simp))
  takeTag := fun _ _ _ hs => hs.congr (SameChains.of_eq rfl rfl)
  softReset := fun _ => BindingChainLaw.empty rfl rfl
  hardwareReset := fun _ => BindingChainLaw.empty rfl rfl
  addStation := fun _ _ _ _ _ _ hs => hs.congr (SameChains.of_eq (by simp) (by simp))
  removeStation := fun _ _ _ hs => hs.congr (SameChains.of_eq (by simp) (by simp))
  createPoint := fun _ _ _ _ _ _ _ hh hs => hs.addPoint (Table.lowestFree_spec hh).1 rfl
  retirePoint := fun hp _ hs => hs.retire hp
  bind := fun _ _ _ _ hp hret hlen hb hs =>
    hs.place (Table.lowestFree_spec hb).1 hp hret hlen rfl
  detach := fun {_ b r} hb hstate _ hs =>
    BindingChainLaw.modifyBinding (s := unqueueBinding b _) hb (fun _ => rfl) (fun _ => .inr rfl)
      (fun hc => by cases hc) (hs.congr (SameChains.of_eq rfl rfl))
  unbind := fun _ _ _ hs => hs.freeBinding _
  resume := fun {s b r} hb hstate hs => by
    have hactive : BindingChainLaw (s.modifyBinding b (fun r => { r with state := .active, fault := none })) := by
      refine hs.modifyBinding hb (fun _ => rfl) (fun hc => ?_) (fun hc => by cases hc)
      rw [hstate] at hc
      rcases hc with hc | hc <;> cases hc
    exact hactive.congr (SameChains.of_eq (queueBinding_points _ _) (by simp))
  sendCommand := fun _ _ _ _ _ _ _ _ _ _ hs => by
    refine hs.congr ⟨fun k => ?_, fun b => by simp⟩
    rw [placeSlot_points]
    refine map_modify (f := Point.hold) _ _ (fun _ _ => ?_) k
    rfl
  collect := fun _ _ hs => hs.congr (SameChains.of_eq rfl rfl)
  mirrorStart := fun hs => hs.mirrorStart
  messageStart := fun hs => hs.congr (SameChains.of_eq (by simp) (by simp))
  endTransaction := fun {s t} e _ hs => by
    have hidle : BindingChainLaw (setPhase .idle s) := hs.congr (SameChains.of_eq rfl rfl)
    unfold endTransaction
    dsimp only
    split
    · exact hidle
    · exact (hidle.handOn t.owner e).congr (SameChains.of_eq rfl rfl)

end

/-- Settles O58: the pieces of every command keep the law. -/
theorem stepKeepsBindingChainLaw : Obligations.StepKeepsBindingChainLaw :=
  fun _ _ hs ht => BindingChainLaw.kept.keptByCore.step hs ht

end Sys2Proof.Machine
end


section
/-! Every step keeps the law of command slots, queues and done lists (O59). -/

namespace Sys2Proof.Machine

section

variable {s t : State} {L : LinkId → Prop}

/-- The pending command of the point at a handle. -/
def State.pendingOf (s : State) (h : Nat) : Option Nat := (s.points.find h).bind Point.pendingCmd

theorem State.pendingOf_eq_some {h k : Nat} :
    s.pendingOf h = some k ↔ ∃ p, s.points.find h = some p ∧ p.pendingCmd = some k :=
  Option.bind_eq_some_iff

/-- The law but for the exchanges of the links `L`. -/
structure CommandLawBut (L : LinkId → Prop) (s : State) : Prop where
  slots : s.slots.All (fun _ r => r.Lawful)
  sent : ∀ l h, ¬ L l → (s.link l).sentSlot = some h → ∃ r, s.slots.find h = some r ∧ r.state = .sent
  sentOnce : ∀ l m h, ¬ L l → ¬ L m → (s.link l).sentSlot = some h → (s.link m).sentSlot = some h → l = m
  queueNodup : ∀ l, (s.cmdQueue l).Nodup
  queueOnce : ∀ l m h, h ∈ s.cmdQueue l → h ∈ s.cmdQueue m → l = m
  queued : ∀ h, (∃ l, h ∈ s.cmdQueue l) ↔ ∃ r, s.slots.find h = some r ∧ r.state = .queued
  doneNodup : ∀ c, (s.doneList c).Nodup
  done : ∀ c h, h ∈ s.doneList c ↔ ∃ r, s.slots.find h = some r ∧ r.state = .done ∧ r.client = c
  pending : ∀ h r, s.slots.find h = some r → r.state ≠ .done → s.pendingOf r.point = some h
  ofPending : ∀ h k, s.pendingOf h = some k → ∃ r, s.slots.find k = some r ∧ r.state ≠ .done ∧ r.point = h

theorem commandLaw_iff : CommandLaw s ↔ CommandLawBut (fun _ => False) s where
  mp := fun h =>
    { slots := h.slots
      sent := fun l k _ => h.sent l k
      sentOnce := fun l m k _ _ => h.sentOnce l m k
      queueNodup := h.queueNodup
      queueOnce := h.queueOnce
      queued := h.queued
      doneNodup := h.doneNodup
      done := h.done
      pending := fun k r hr hd => State.pendingOf_eq_some.mpr (h.pending k r hr hd)
      ofPending := fun k j hp => by
        obtain ⟨p, hp, hj⟩ := State.pendingOf_eq_some.mp hp
        exact h.ofPending k p j hp hj }
  mpr := fun h =>
    { slots := h.slots
      sent := fun l k => h.sent l k id
      sentOnce := fun l m k => h.sentOnce l m k id id
      queueNodup := h.queueNodup
      queueOnce := h.queueOnce
      queued := h.queued
      doneNodup := h.doneNodup
      done := h.done
      pending := fun k r hr hd => State.pendingOf_eq_some.mp (h.pending k r hr hd)
      ofPending := fun k p j hp hj => h.ofPending k j (State.pendingOf_eq_some.mpr ⟨p, hp, hj⟩) }

/-- A change of the state that the law does not see. -/
structure SameCommands (L : LinkId → Prop) (s t : State) : Prop where
  slots : t.slots = s.slots
  cmdQueues : t.cmdQueues = s.cmdQueues
  doneLists : t.doneLists = s.doneLists
  exchange : ∀ l, ¬ L l → (t.link l).activity.exchange = (s.link l).activity.exchange
  pending : ∀ h, t.pendingOf h = s.pendingOf h

theorem Link.sentSlot_congr {j k : Link} (h : j.activity.exchange = k.activity.exchange) :
    j.sentSlot = k.sentSlot := by
  unfold Link.sentSlot
  rw [h]

theorem Link.sentSlot_of_none {k : Link} (h : k.activity.exchange = none) : k.sentSlot = none := by
  unfold Link.sentSlot
  rw [h]

theorem CommandLawBut.congr (hs : CommandLawBut L s) (h : SameCommands L s t) : CommandLawBut L t := by
  have hsent {l : LinkId} (hl : ¬ L l) : (t.link l).sentSlot = (s.link l).sentSlot :=
    Link.sentSlot_congr (h.exchange l hl)
  have hqueue (l : LinkId) : t.cmdQueue l = s.cmdQueue l := by unfold State.cmdQueue; rw [h.cmdQueues]
  have hdone (c : ClientId) : t.doneList c = s.doneList c := by unfold State.doneList; rw [h.doneLists]
  exact
    { slots := h.slots ▸ hs.slots
      sent := fun l k hl hk => h.slots ▸ hs.sent l k hl (hsent hl ▸ hk)
      sentOnce := fun l m k hl hm hk hk' => hs.sentOnce l m k hl hm (hsent hl ▸ hk) (hsent hm ▸ hk')
      queueNodup := fun l => hqueue l ▸ hs.queueNodup l
      queueOnce := fun l m k hk hk' => hs.queueOnce l m k (hqueue l ▸ hk) (hqueue m ▸ hk')
      queued := fun k => by
        simp only [hqueue]
        rw [h.slots]
        exact hs.queued k
      doneNodup := fun c => hdone c ▸ hs.doneNodup c
      done := fun c k => by
        rw [hdone, h.slots]
        exact hs.done c k
      pending := fun k r hr hd => (h.pending _).trans (hs.pending k r (h.slots ▸ hr) hd)
      ofPending := fun k j hp => h.slots ▸ hs.ofPending k j ((h.pending k) ▸ hp) }

/-- The exchanges of more links are left out. -/
theorem CommandLawBut.weaken {M : LinkId → Prop} (hs : CommandLawBut L s) (hM : ∀ l, L l → M l) :
    CommandLawBut M s :=
  { hs with
    sent := fun l h hl => hs.sent l h (fun hL => hl (hM l hL))
    sentOnce := fun l m h hl hm => hs.sentOnce l m h (fun hL => hl (hM l hL)) (fun hL => hm (hM m hL)) }

/-- A link left out is taken in again once it has no exchange. -/
theorem CommandLawBut.restore {l : LinkId} {f : Link → Link} (hs : CommandLawBut (· = l) s)
    (hf : (f (s.link l)).activity.exchange = none) : CommandLaw (s.modifyLink l f) := by
  have hother {m : LinkId} {h : Nat} (hm : ((s.modifyLink l f).link m).sentSlot = some h) :
      m ≠ l ∧ (s.link m).sentSlot = some h := by
    rw [State.link_modifyLink] at hm
    split at hm
    · rw [Link.sentSlot_of_none hf] at hm
      cases hm
    · rename_i hne
      exact ⟨hne, hm⟩
  exact commandLaw_iff.mpr
    { slots := hs.slots
      sent := fun m h _ hm => hs.sent m h (hother hm).1 (hother hm).2
      sentOnce := fun m n h _ _ hm hn =>
        hs.sentOnce m n h (hother hm).1 (hother hn).1 (hother hm).2 (hother hn).2
      queueNodup := hs.queueNodup
      queueOnce := hs.queueOnce
      queued := hs.queued
      doneNodup := hs.doneNodup
      done := hs.done
      pending := hs.pending
      ofPending := hs.ofPending }

/-! ## Points -/

theorem pendingOf_put {h : Nat} {p q : Point} (hp : s.points.find h = some p)
    (hq : q.pendingCmd = p.pendingCmd) (k : Nat) :
    State.pendingOf { s with points := s.points.put h q } k = s.pendingOf k := by
  show ((s.points.put h q).find k).bind Point.pendingCmd = _
  rw [Table.find_put]
  split
  · rename_i hk
    subst hk
    rw [State.pendingOf, hp]
    exact hq
  · rfl

theorem pendingOf_modify (h : Nat) {f : Point → Point} (hf : ∀ p, (f p).pendingCmd = p.pendingCmd) (k : Nat) :
    (s.modifyPoint h f).pendingOf k = s.pendingOf k := by
  show ((s.points.modify h f).find k).bind Point.pendingCmd = (s.points.find k).bind Point.pendingCmd
  rw [Table.find_modify]
  split
  · rename_i hk
    subst hk
    cases s.points.find k with
    | none => rfl
    | some p => exact hf p
  · rfl

theorem pendingOf_congr (h : t.points = s.points) (k : Nat) : t.pendingOf k = s.pendingOf k := by
  unfold State.pendingOf
  rw [h]

theorem SameCommands.of_points (hp : ∀ h, t.pendingOf h = s.pendingOf h) (hslots : t.slots = s.slots)
    (hqueues : t.cmdQueues = s.cmdQueues) (hdone : t.doneLists = s.doneLists) (hl : t.links = s.links) :
    SameCommands L s t :=
  ⟨hslots, hqueues, hdone, fun l _ => by unfold State.link; rw [hl], hp⟩

theorem SameCommands.of_eq (hp : t.points = s.points) (hslots : t.slots = s.slots)
    (hqueues : t.cmdQueues = s.cmdQueues) (hdone : t.doneLists = s.doneLists) (hl : t.links = s.links) :
    SameCommands L s t := SameCommands.of_points (pendingOf_congr hp) hslots hqueues hdone hl

/-- A point that is freed has no pending command. -/
theorem pendingOf_testFree (h k : Nat) (s : State) : (testFree h s).pendingOf k = s.pendingOf k := by
  unfold testFree
  split
  · rfl
  rename_i p hp
  split
  · rename_i hfree
    obtain ⟨-, hnone, -⟩ := hfree
    show ((s.points.drop h).find k).bind Point.pendingCmd = _
    rw [Table.find_drop]
    split
    · rename_i hk
      subst hk
      rw [State.pendingOf, hp]
      exact hnone.symm
    · rfl
  · rfl

theorem CommandLawBut.testFree (h : Nat) (hs : CommandLawBut L s) : CommandLawBut L (testFree h s) :=
  hs.congr (SameCommands.of_points (fun k => pendingOf_testFree h k s) (by simp) (by simp) (by simp) (by simp))

theorem CommandLawBut.freeBinding (b : Nat) (hs : CommandLawBut L s) : CommandLawBut L (freeBinding b s) := by
  unfold Machine.freeBinding
  split
  · exact hs
  · rename_i r hr
    exact CommandLawBut.testFree _ (hs.congr (SameCommands.of_points
      (pendingOf_modify r.point (fun _ => rfl)) rfl rfl rfl rfl))

theorem CommandLawBut.queueBinding (b : Nat) (hs : CommandLawBut L s) : CommandLawBut L (queueBinding b s) :=
  hs.congr (SameCommands.of_eq (by simp) (by simp) (by simp) (by simp) (by simp))

theorem CommandLawBut.modifyBinding (b : Nat) (f : Binding → Binding) (hs : CommandLawBut L s) :
    CommandLawBut L (s.modifyBinding b f) := hs.congr (SameCommands.of_eq rfl rfl rfl rfl rfl)

theorem CommandLawBut.closeBinding (b : Nat) (hs : CommandLawBut L s) :
    CommandLawBut L (closeBinding s b) := by
  unfold Machine.closeBinding
  split
  · exact hs
  split
  · exact (hs.modifyBinding b _).queueBinding b
  · exact hs.freeBinding b
  · exact hs
  · exact hs

theorem CommandLawBut.closeBindings (h : Nat) (hs : CommandLawBut L s) :
    CommandLawBut L (closeBindings h s) := by
  unfold Machine.closeBindings
  split
  · exact hs
  · exact foldl_invariant (CommandLawBut L) _ (fun _ b hp => hp.closeBinding b) _ s hs

/-! ## The end of a slot -/

theorem linkStable_exchange (r : LinkId → Option Exchange) :
    LinkStable (fun l k => k.activity.exchange = r l) where
  status := fun _ h => h
  opens := fun {_ k} h => by
    obtain ⟨-, -, -, hexchange, -⟩ := k.openInGap_keeps
    exact hexchange.trans h

/-- Freeing tags leaves the exchanges of the links. -/
theorem finishSlot_exchange (h : Nat) (result : CommandResult) (code : Byte) (fate : TagFate) (s : State)
    (l : LinkId) : ((finishSlot h result code fate s).link l).activity.exchange =
      (s.link l).activity.exchange :=
  (linkStable_exchange (fun l => (s.link l).activity.exchange)).finishSlot h result code fate (s := s)
    (fun _ => rfl) l

theorem finishSlot_pendingOf {h : Nat} {r : Slot} (hr : s.slots.find h = some r) (result : CommandResult)
    (code : Byte) (fate : TagFate) (k : Nat) :
    (finishSlot h result code fate s).pendingOf k = if k = r.point then none else s.pendingOf k := by
  rw [finishSlot_eq hr, pendingOf_testFree]
  show ((s.points.modify r.point _).find k).bind Point.pendingCmd = _
  rw [Table.find_modify]
  split
  · cases s.points.find r.point <;> rfl
  · rfl

theorem finishSlot_doneList {h : Nat} {r : Slot} (hr : s.slots.find h = some r) (result : CommandResult)
    (code : Byte) (fate : TagFate) (c : ClientId) :
    (finishSlot h result code fate s).doneList c =
      if c = r.client then s.doneList c ++ [h] else s.doneList c := by
  unfold State.doneList
  rw [finishSlot_doneLists hr, Quad.get_modify]
  split
  · rename_i hc
    rw [hc]
  · rfl

theorem cmdQueue_dequeue (h : Nat) (s : State) (l : LinkId) :
    (dequeue h s).cmdQueue l = without (s.cmdQueue l) h := Quad.get_map _ _ _

/-- R112: a slot that is not DONE ends, and is the slot of no exchange but those left out. -/
theorem CommandLawBut.finish {h : Nat} {r : Slot} (hr : s.slots.find h = some r) (hd : r.state ≠ .done)
    (hsent : ∀ l, ¬ L l → (s.link l).sentSlot ≠ some h) (result : CommandResult) (code : Byte)
    (fate : TagFate) (hs : CommandLawBut L s) :
    CommandLawBut L (finishSlot h result code fate (dequeue h s)) := by
  have hr' : (dequeue h s).slots.find h = some r := hr
  have hput (k : Nat) : (finishSlot h result code fate (dequeue h s)).slots.find k =
      if k = h then some (r.finish result code) else s.slots.find k := by
    rw [finishSlot_slots hr']
    exact Table.find_put _ _ _ _
  have hqueue (l : LinkId) : (finishSlot h result code fate (dequeue h s)).cmdQueue l =
      without (s.cmdQueue l) h := by
    rw [← cmdQueue_dequeue]
    unfold State.cmdQueue
    simp
  have hlink (l : LinkId) : ((finishSlot h result code fate (dequeue h s)).link l).sentSlot =
      (s.link l).sentSlot := Link.sentSlot_congr (finishSlot_exchange h result code fate (dequeue h s) l)
  have hpending (k : Nat) := finishSlot_pendingOf hr' result code fate k
  have hdone (c : ClientId) : (finishSlot h result code fate (dequeue h s)).doneList c =
      if c = r.client then s.doneList c ++ [h] else s.doneList c := finishSlot_doneList hr' result code fate c
  have hnotdone (c : ClientId) : h ∉ s.doneList c := by
    intro hm
    obtain ⟨q, hq, hqd, -⟩ := (hs.done c h).mp hm
    rw [hr] at hq
    cases hq
    exact hd hqd
  refine
    { slots := fun k q hq => ?_
      sent := fun l k hl hk => ?_
      sentOnce := fun l m k hl hm hk hk' => ?_
      queueNodup := fun l => ?_
      queueOnce := fun l m k hk hk' => ?_
      queued := fun k => ?_
      doneNodup := fun c => ?_
      done := fun c k => ?_
      pending := fun k q hq hqd => ?_
      ofPending := fun k j hp => ?_ }
  · rw [hput] at hq
    split at hq
    · cases hq
      exact ⟨rfl, fun h => (by cases h), rfl, rfl, fun hne => absurd rfl hne⟩
    · exact hs.slots k q hq
  · rw [hlink] at hk
    obtain ⟨q, hq, hqs⟩ := hs.sent l k hl hk
    refine ⟨q, ?_, hqs⟩
    rw [hput, if_neg]
    · exact hq
    · rintro rfl
      exact hsent l hl hk
  · rw [hlink] at hk hk'
    exact hs.sentOnce l m k hl hm hk hk'
  · rw [hqueue]
    exact without_nodup (hs.queueNodup l) h
  · rw [hqueue, mem_without] at hk hk'
    exact hs.queueOnce l m k hk.1 hk'.1
  · simp only [hqueue, mem_without, hput]
    by_cases hk : k = h
    · subst hk
      rw [if_pos rfl]
      exact ⟨fun ⟨_, _, hne⟩ => absurd rfl hne, fun ⟨q, hq, hqs⟩ => by cases hq; cases hqs⟩
    · rw [if_neg hk, ← hs.queued k]
      exact ⟨fun ⟨l, hl, _⟩ => ⟨l, hl⟩, fun ⟨l, hl⟩ => ⟨l, hl, hk⟩⟩
  · rw [hdone]
    split
    · refine List.nodup_append.mpr ⟨hs.doneNodup c, List.nodup_singleton h, fun x hx y hy hxy => ?_⟩
      rw [List.mem_singleton] at hy
      exact hnotdone c (hy ▸ hxy ▸ hx)
    · exact hs.doneNodup c
  · rw [hdone, hput]
    by_cases hk : k = h
    · subst hk
      rw [if_pos rfl]
      constructor
      · intro hm
        split at hm
        · rename_i hc
          exact ⟨_, rfl, rfl, hc.symm⟩
        · exact absurd hm (hnotdone c)
      · rintro ⟨q, hq, -, hc⟩
        cases hq
        have hown : c = r.client := hc.symm
        rw [if_pos hown]
        simp
    · rw [if_neg hk, ← hs.done c k]
      split
      · rw [List.mem_append, List.mem_singleton]
        exact ⟨fun hm => hm.resolve_right hk, .inl⟩
      · exact Iff.rfl
  · rw [hput] at hq
    split at hq
    · cases hq
      exact absurd rfl hqd
    · rename_i hk
      rw [hpending, if_neg]
      · exact hs.pending k q hq hqd
      · intro hpoint
        have hown := hs.pending h r hr hd
        rw [← hpoint, hs.pending k q hq hqd] at hown
        exact hk (Option.some.inj hown)
  · rw [hpending] at hp
    split at hp
    · cases hp
    · rename_i hk
      obtain ⟨q, hq, hqd, hqp⟩ := hs.ofPending k j hp
      refine ⟨q, ?_, hqd, hqp⟩
      rw [hput, if_neg]
      · exact hq
      · rintro rfl
        rw [hr] at hq
        cases hq
        exact hk hqp.symm

/-- A slot that is not QUEUED is in no command queue. -/
theorem CommandLawBut.dequeue_eq {h : Nat} {r : Slot} (hr : s.slots.find h = some r)
    (hq : r.state ≠ .queued) (hs : CommandLawBut L s) : dequeue h s = s := by
  have hqueue : s.cmdQueues.map (fun q => without q h) = s.cmdQueues := by
    refine Quad.ext_get fun l => ?_
    rw [Quad.get_map]
    refine without_eq_of_notMem fun hm => ?_
    obtain ⟨q, hq', hqs⟩ := (hs.queued h).mp ⟨l, hm⟩
    rw [hr] at hq'
    cases hq'
    exact hq hqs
  unfold dequeue
  rw [hqueue]

/-- A slot that is not SENT is the slot of no exchange but those left out. -/
theorem CommandLawBut.not_sentSlot {h : Nat} {r : Slot} (hr : s.slots.find h = some r)
    (hq : r.state ≠ .sent) (hs : CommandLawBut L s) (l : LinkId) (hl : ¬ L l) :
    (s.link l).sentSlot ≠ some h := by
  intro hk
  obtain ⟨q, hq', hqs⟩ := hs.sent l h hl hk
  rw [hr] at hq'
  cases hq'
  exact hq hqs

theorem CommandLawBut.endWaiting {h : Nat} {r : Slot} (hr : s.slots.find h = some r) (hw : r.waits)
    (result : CommandResult) (code : Byte) (fate : TagFate) (hs : CommandLawBut L s) :
    CommandLawBut L (finishSlot h result code fate (dequeue h s)) := by
  refine hs.finish hr ?_ (hs.not_sentSlot hr ?_) result code fate <;>
    (rcases hw with hw | hw <;> rw [hw] <;> exact fun h => by cases h)

theorem CommandLawBut.endAccepted {h : Nat} {r : Slot} (hr : s.slots.find h = some r)
    (ha : r.state = .accepted) (result : CommandResult) (code : Byte) (fate : TagFate)
    (hs : CommandLawBut L s) : CommandLawBut L (finishSlot h result code fate s) := by
  have hended := hs.endWaiting hr (.inr ha) result code fate
  rwa [hs.dequeue_eq hr (by rw [ha]; exact fun h => by cases h)] at hended

/-- R95: the SENT slot of an exchange that is left out ends. -/
theorem CommandLawBut.endSent {h : Nat} {r : Slot} (hr : s.slots.find h = some r) (ha : r.state = .sent)
    (hsent : ∀ l, ¬ L l → (s.link l).sentSlot ≠ some h) (result : CommandResult) (code : Byte)
    (fate : TagFate) (hs : CommandLawBut L s) : CommandLawBut L (finishSlot h result code fate s) := by
  have hended := hs.finish hr (by rw [ha]; exact fun h => by cases h) hsent result code fate
  rwa [hs.dequeue_eq hr (by rw [ha]; exact fun h => by cases h)] at hended

/-- A slot that is SENT, or stays what it is, is rewritten. -/
theorem CommandLawBut.modifySlot {h : Nat} {r : Slot} {f : Slot → Slot} (hr : s.slots.find h = some r)
    (hlaw : (f r).Lawful) (hpoint : (f r).point = r.point) (hclient : (f r).client = r.client)
    (hqueued : (f r).state = .queued ↔ r.state = .queued) (hdone : (f r).state = .done ↔ r.state = .done)
    (hsent : ∀ l, ¬ L l → (s.link l).sentSlot = some h → (f r).state = .sent)
    (hs : CommandLawBut L s) : CommandLawBut L (s.modifySlot h f) := by
  have hmodify (k : Nat) : (s.modifySlot h f).slots.find k =
      if k = h then some (f r) else s.slots.find k := by
    refine (Table.find_modify _ _ _ _).trans ?_
    rw [hr]
    rfl
  -- Each slot before it stands there after it, alike in what the other fields say.
  have hforth {k : Nat} {q : Slot} (hq : s.slots.find k = some q) :
      ∃ q', (s.modifySlot h f).slots.find k = some q' ∧ q'.point = q.point ∧ q'.client = q.client ∧
        (q'.state = .queued ↔ q.state = .queued) ∧ (q'.state = .done ↔ q.state = .done) := by
    rw [hmodify]
    split
    · rename_i hk
      subst hk
      rw [hr] at hq
      cases hq
      exact ⟨_, rfl, hpoint, hclient, hqueued, hdone⟩
    · exact ⟨q, hq, rfl, rfl, Iff.rfl, Iff.rfl⟩
  have hback {k : Nat} {q' : Slot} (hq : (s.modifySlot h f).slots.find k = some q') :
      ∃ q, s.slots.find k = some q ∧ q'.point = q.point ∧ q'.client = q.client ∧
        (q'.state = .queued ↔ q.state = .queued) ∧ (q'.state = .done ↔ q.state = .done) := by
    rw [hmodify] at hq
    split at hq
    · rename_i hk
      subst hk
      cases hq
      exact ⟨r, hr, hpoint, hclient, hqueued, hdone⟩
    · exact ⟨q', hq, rfl, rfl, Iff.rfl, Iff.rfl⟩
  exact
    { slots := fun k q hq => by
        rw [hmodify] at hq
        split at hq
        · cases hq
          exact hlaw
        · exact hs.slots k q hq
      sent := fun l k hl hk => by
        obtain ⟨q, hq, hqs⟩ := hs.sent l k hl hk
        rw [hmodify]
        split
        · rename_i hkh
          subst hkh
          exact ⟨f r, rfl, hsent l hl hk⟩
        · exact ⟨q, hq, hqs⟩
      sentOnce := hs.sentOnce
      queueNodup := hs.queueNodup
      queueOnce := hs.queueOnce
      queued := fun k => by
        refine (hs.queued k).trans ⟨?_, ?_⟩
        · rintro ⟨q, hq, hqs⟩
          obtain ⟨q', hq', -, -, hiff, -⟩ := hforth hq
          exact ⟨q', hq', hiff.mpr hqs⟩
        · rintro ⟨q', hq', hqs⟩
          obtain ⟨q, hq, -, -, hiff, -⟩ := hback hq'
          exact ⟨q, hq, hiff.mp hqs⟩
      doneNodup := hs.doneNodup
      done := fun c k => by
        refine (hs.done c k).trans ⟨?_, ?_⟩
        · rintro ⟨q, hq, hqs, hc⟩
          obtain ⟨q', hq', -, hcl, -, hiff⟩ := hforth hq
          exact ⟨q', hq', hiff.mpr hqs, hcl.trans hc⟩
        · rintro ⟨q', hq', hqs, hc⟩
          obtain ⟨q, hq, -, hcl, -, hiff⟩ := hback hq'
          exact ⟨q, hq, hiff.mp hqs, hcl.symm.trans hc⟩
      pending := fun k q' hq' hd => by
        obtain ⟨q, hq, hqp, -, -, hiff⟩ := hback hq'
        rw [hqp]
        exact hs.pending k q hq (fun hx => hd (hiff.mpr hx))
      ofPending := fun k j hp => by
        obtain ⟨q, hq, hqd, hqp⟩ := hs.ofPending k j hp
        obtain ⟨q', hq', hpp, -, -, hiff⟩ := hforth hq
        exact ⟨q', hq', fun hx => hqd (hiff.mp hx), hpp.trans hqp⟩ }

/-! ## The parts of an exchange's end and of a departure -/

theorem CommandLawBut.modifyLink {l : LinkId} {f : Link → Link}
    (hf : (f (s.link l)).activity.exchange = (s.link l).activity.exchange) (hs : CommandLawBut L s) :
    CommandLawBut L (s.modifyLink l f) := by
  refine hs.congr ⟨rfl, rfl, rfl, fun m _ => ?_, fun _ => rfl⟩
  rw [State.link_modifyLink]
  split
  · rename_i hm
    subst hm
    exact hf
  · rfl

theorem CommandLawBut.freeTag (sid tag : Nat) (hs : CommandLawBut L s) :
    CommandLawBut L (freeTag sid tag s) :=
  hs.congr ⟨by simp, by simp, by simp, fun l _ =>
    (linkStable_exchange (fun l => (s.link l).activity.exchange)).freeTag sid tag (s := s) (fun _ => rfl) l,
    pendingOf_congr (by simp)⟩

theorem CommandLawBut.freeAllTags (sid : Nat) (hs : CommandLawBut L s) :
    CommandLawBut L (freeAllTags sid s) :=
  hs.congr ⟨by simp, by simp, by simp, fun l _ =>
    (linkStable_exchange (fun l => (s.link l).activity.exchange)).freeAllTags sid (s := s) (fun _ => rfl) l,
    pendingOf_congr (by simp)⟩

theorem CommandLawBut.parts : KeptByParts (CommandLawBut L) where
  flag := fun _ _ hs => hs.modifyLink rfl
  complete := fun result code hr ha hs => hs.endAccepted hr ha result code _
  endSlot := fun result hr hw hs => hs.endWaiting hr hw result 0 _
  freeTag := fun sid tag _ hs => hs.freeTag sid tag
  freeAllTags := fun sid hs => hs.freeAllTags sid
  point := fun hp hm hs => hs.congr (SameCommands.of_points (pendingOf_put hp hm.pendingCmd) rfl rfl rfl rfl)
  event := fun _ _ hs => hs.congr (SameCommands.of_eq (by simp) (by simp) (by simp) (by simp) (by simp))
  station := fun _ _ hs => hs.congr (SameCommands.of_eq rfl rfl rfl rfl rfl)
  leave := fun _ _ hs => hs.congr (SameCommands.of_eq rfl rfl rfl rfl rfl)

/-- R114, R118: the answer to the COMMAND exchange of a link that is left out. -/
theorem CommandLawBut.commandAnswer {h : Nat} {r : Slot} (o : ExchangeOutcome)
    (hr : s.slots.find h = some r) (ha : r.state = .sent)
    (hother : ∀ l, ¬ L l → (s.link l).sentSlot ≠ some h) (hs : CommandLawBut L s) :
    CommandLawBut L (commandAnswer h o s) := by
  have hend (result : CommandResult) (code : Byte) (fate : TagFate) :=
    hs.endSent hr ha hother result code fate
  unfold Machine.commandAnswer
  rw [hr]
  dsimp only
  split
  · rename_i code _ habort
    split
    · have hl := hs.slots h r hr
      refine hs.modifySlot hr ?_ rfl rfl ?_ ?_ (fun l hl hk => absurd hk (hother l hl))
      · exact
          { tag := by rw [hl.tag, ha]; rfl
            abort := fun hx => by
              rw [show _ = r.abort from rfl, habort] at hx
              cases hx
            deadline := rfl
            result := by rw [hl.result, ha]; rfl
            code := fun _ => hl.code (by rw [ha]; exact fun hx => by cases hx) }
      · rw [ha]
        exact ⟨fun hx => (by cases hx), fun hx => by cases hx⟩
      · rw [ha]
        exact ⟨fun hx => (by cases hx), fun hx => by cases hx⟩
    · exact hend _ _ _
  · split
    · exact hend _ _ _
    · exact hend _ _ _
  · exact hend _ _ _
  · exact hend _ _ _

theorem Link.sentSlot_of_command {k : Link} {x : Exchange} {h g : Nat}
    (hx : k.activity.exchange = some x) (hk : x.kind = .command h g) : k.sentSlot = some h := by
  unfold Link.sentSlot
  rw [hx]
  dsimp only
  rw [hk]

/-- R95: the slot of the exchange in flight on a link takes its result. -/
theorem CommandLawBut.slotOutcome {l : LinkId} {x : Exchange} (o : ExchangeOutcome)
    (hx : (s.link l).activity.exchange = some x) (hs : CommandLawBut (fun _ => False) s) :
    CommandLawBut (· = l) (slotOutcome x.kind o s) := by
  have hbut : CommandLawBut (· = l) s := hs.weaken (fun _ hf => hf.elim)
  cases hk : x.kind with
  | poll => exact hbut
  | identReq => exact hbut
  | command h g =>
    have hl := Link.sentSlot_of_command hx hk
    obtain ⟨r, hr, ha⟩ := hs.sent l h id hl
    exact hbut.commandAnswer o hr ha (fun m hm hsent => hm (hs.sentOnce m l h id id hsent hl))

theorem receiveFlag_exchange (l : LinkId) (o : ExchangeOutcome) (s : State) (m : LinkId) :
    ((receiveFlag l o s).link m).activity.exchange = (s.link m).activity.exchange :=
  (linkStable_exchange (fun l => (s.link l).activity.exchange)).parts.receiveFlag l o (s := s) (fun _ => rfl) m

theorem CommandLaw.ends {l : LinkId} {x : Exchange} (o : ExchangeOutcome)
    (hx : (s.link l).activity.exchange = some x) (hs : CommandLaw s) : CommandLaw (endExchange l x o s) := by
  have hflag := CommandLawBut.parts.receiveFlag l o (commandLaw_iff.mp hs)
  have hslot := hflag.slotOutcome o ((receiveFlag_exchange l o s l).trans hx)
  have hout := CommandLawBut.parts.stationOutcome l x o (hflag.weaken (fun _ hf => hf.elim)) hslot
  have hquiet := hout.restore (f := fun k => { k with activity := .quiet (Config.quietPeriods x.divisor) }) rfl
  exact commandLaw_iff.mpr ((commandLaw_iff.mp hquiet).congr (SameCommands.of_eq rfl rfl rfl rfl rfl))

/-- R101: the slot of a COMMAND exchange that is cut ends. -/
theorem CommandLaw.cut (l : LinkId) (hs : CommandLaw s) :
    CommandLaw ((cutCommand (s.link l) s).modifyLink l Link.disable) := by
  have hlaw := commandLaw_iff.mp hs
  have hbut : CommandLawBut (· = l) s := hlaw.weaken (fun _ hf => hf.elim)
  refine CommandLawBut.restore ?_ rfl
  unfold cutCommand
  split
  · exact hbut
  · rename_i x hx
    split
    · rename_i h g hk
      have hl := Link.sentSlot_of_command hx hk
      obtain ⟨r, hr, ha⟩ := hs.sent l h hl
      exact hbut.endSent hr ha (fun m hm hsent => hm (hs.sentOnce m l h hsent hl)) _ _ _
    · exact hbut
    · exact hbut

theorem CommandLaw.congr (hs : CommandLaw s) (h : SameCommands (fun _ => False) s t) : CommandLaw t :=
  commandLaw_iff.mpr ((commandLaw_iff.mp hs).congr h)

theorem CommandLaw.disable (l : LinkId) (hs : CommandLaw s) : CommandLaw (disableLink l s) := by
  refine disableLink_keeps hs (fun _ => hs.cut l) (fun s sid hp => ?_) (fun s hp => ?_) (fun s hp => ?_)
  · exact commandLaw_iff.mpr (CommandLawBut.parts.linkOff sid (commandLaw_iff.mp hp))
  · exact foldl_invariant CommandLaw (fun s sid => freeStation sid s)
      (fun s sid hp => hp.congr (SameCommands.of_eq rfl rfl rfl rfl rfl)) _ s hp
  · exact hp.congr (SameCommands.of_eq rfl rfl rfl rfl rfl)

/-! ## Retirement -/

/-- R23: the pending command of a RETIRING point ends, or is marked. -/
theorem CommandLawBut.retireCommand {h k : Nat} (hk : s.pendingOf h = some k)
    (hs : CommandLawBut (fun _ => False) s) : CommandLawBut (fun _ => False) (retireCommand k s) := by
  obtain ⟨r, hr, hd, -⟩ := hs.ofPending h k hk
  unfold Machine.retireCommand
  rw [hr]
  dsimp only
  split
  · exact hs.endWaiting hr (.inl ‹_›) _ _ _
  · exact hs.endAccepted hr ‹_› _ _ _
  · rename_i ha
    have hl := hs.slots k r hr
    exact hs.modifySlot hr { hl with abort := fun _ => ha } rfl rfl Iff.rfl Iff.rfl (fun _ _ _ => ha)
  · exact hs

theorem CommandLaw.retire {h : Nat} {p : Point} (hp : s.points.find h = some p) (hs : CommandLaw s) :
    CommandLaw (retireRecord h p s) := by
  have hpending := pendingOf_put (s := s) (q := p.retire) hp rfl
  have hput : CommandLawBut (fun _ => False) { s with points := s.points.put h p.retire } :=
    (commandLaw_iff.mp hs).congr (SameCommands.of_points hpending rfl rfl rfl rfl)
  refine commandLaw_iff.mpr ?_
  unfold retireRecord
  refine CommandLawBut.testFree _ (CommandLawBut.closeBindings _ ?_)
  split
  · exact hput
  · rename_i k hk
    exact hput.retireCommand ((hpending h).trans (State.pendingOf_eq_some.mpr ⟨p, hp, hk⟩))

/-! ## The start of a command and of its exchange -/

theorem Slot.lawful_new (client : ClientId) (hostTag : BitVec 16) (point station : Nat) (value : Word) :
    (newSlot client hostTag point station value).Lawful :=
  ⟨rfl, fun h => (by cases h), rfl, rfl, fun _ => rfl⟩

/-- R113: a new slot is QUEUED at its link, and the pending command of its point. -/
theorem CommandLaw.place {k : Nat} {r : Slot} {p : Point} {l : LinkId} (hfree : s.slots.find k = none)
    (hp : s.points.find r.point = some p) (hnone : p.pendingCmd = none) (hlaw : r.Lawful)
    (hstate : r.state = .queued) (hs : CommandLaw s) : CommandLaw (placeSlot k r l s) := by
  have hput (j : Nat) := Table.find_put s.slots k j r
  have hkept {j : Nat} {q : Slot} (hq : s.slots.find j = some q) : (s.slots.put k r).find j = some q := by
    rw [hput, if_neg]
    · exact hq
    · rintro rfl
      rw [hfree] at hq
      cases hq
  have hback {j : Nat} {q : Slot} (hq : (s.slots.put k r).find j = some q) :
      j = k ∧ q = r ∨ s.slots.find j = some q := by
    rw [hput] at hq
    split at hq
    · exact .inl ⟨‹_›, (Option.some.inj hq).symm⟩
    · exact .inr hq
  have hlist (m : LinkId) : (s.cmdQueues.modify l (fun q => q ++ [k])).get m =
      if m = l then s.cmdQueue m ++ [k] else s.cmdQueue m := by
    rw [Quad.get_modify]
    split
    · rename_i hm
      rw [hm]
      rfl
    · rfl
  have hnew (m : LinkId) : k ∉ s.cmdQueue m := by
    intro hm
    obtain ⟨q, hq, -⟩ := (hs.queued k).mp ⟨m, hm⟩
    rw [hfree] at hq
    cases hq
  have hmem (m : LinkId) (j : Nat) : j ∈ (s.cmdQueues.modify l (fun q => q ++ [k])).get m ↔
      j ∈ s.cmdQueue m ∨ j = k ∧ m = l := by
    rw [hlist]
    split
    · rename_i hm
      rw [List.mem_append, List.mem_singleton]
      simp [hm]
    · rename_i hm
      simp [hm]
  have hpoint (h : Nat) : (s.modifyPoint r.point (fun p => { p with pendingCmd := some k })).pendingOf h =
      if h = r.point then some k else s.pendingOf h := by
    show ((s.points.modify r.point _).find h).bind Point.pendingCmd = _
    rw [Table.find_modify]
    split
    · rw [hp]
      rfl
    · rfl
  have hplaced : CommandLawBut (fun _ => False)
      { s.modifyPoint r.point (fun p => { p with pendingCmd := some k }) with
        slots := s.slots.put k r
        cmdQueues := s.cmdQueues.modify l (fun q => q ++ [k]) } := by
    refine
      { slots := hs.slots.put hlaw
        sent := fun m j _ hj => ?_
        sentOnce := fun m n j _ _ => hs.sentOnce m n j
        queueNodup := fun m => ?_
        queueOnce := fun m n j hm hn => ?_
        queued := fun j => ?_
        doneNodup := hs.doneNodup
        done := fun c j => ?_
        pending := fun j q hq hd => ?_
        ofPending := fun h j hj => ?_ }
    · obtain ⟨q, hq, hqs⟩ := hs.sent m j hj
      exact ⟨q, hkept hq, hqs⟩
    · show ((s.cmdQueues.modify l (fun q => q ++ [k])).get m).Nodup
      rw [hlist]
      split
      · refine List.nodup_append.mpr ⟨hs.queueNodup m, List.nodup_singleton k, fun x hx y hy hxy => ?_⟩
        rw [List.mem_singleton] at hy
        exact hnew m (hy ▸ hxy ▸ hx)
      · exact hs.queueNodup m
    · rcases (hmem m j).mp hm with hold | ⟨hjk, hml⟩
      · rcases (hmem n j).mp hn with hold' | ⟨hjk, -⟩
        · exact hs.queueOnce m n j hold hold'
        · exact absurd (hjk ▸ hold) (hnew m)
      · rcases (hmem n j).mp hn with hold' | ⟨-, hnl⟩
        · exact absurd (hjk ▸ hold') (hnew n)
        · exact hml.trans hnl.symm
    · constructor
      · rintro ⟨m, hm⟩
        rcases (hmem m j).mp hm with hm | ⟨rfl, -⟩
        · obtain ⟨q, hq, hqs⟩ := (hs.queued j).mp ⟨m, hm⟩
          exact ⟨q, hkept hq, hqs⟩
        · exact ⟨r, Table.find_put_same _ _ _, hstate⟩
      · rintro ⟨q, hq, hqs⟩
        rcases hback hq with ⟨rfl, -⟩ | hq
        · exact ⟨l, (hmem l j).mpr (.inr ⟨rfl, rfl⟩)⟩
        · obtain ⟨m, hm⟩ := (hs.queued j).mpr ⟨q, hq, hqs⟩
          exact ⟨m, (hmem m j).mpr (.inl hm)⟩
    · refine (hs.done c j).trans ⟨fun ⟨q, hq, hqs⟩ => ⟨q, hkept hq, hqs⟩, ?_⟩
      rintro ⟨q, hq, hqs, hc⟩
      rcases hback hq with ⟨-, rfl⟩ | hq
      · rw [hstate] at hqs
        cases hqs
      · exact ⟨q, hq, hqs, hc⟩
    · refine (hpoint q.point).trans ?_
      rcases hback hq with ⟨rfl, rfl⟩ | hq
      · rw [if_pos rfl]
      · obtain ⟨p', hp', hj⟩ := hs.pending j q hq hd
        rw [if_neg]
        · exact State.pendingOf_eq_some.mpr ⟨p', hp', hj⟩
        · intro heq
          rw [heq, hp] at hp'
          cases hp'
          rw [hnone] at hj
          cases hj
    · have hj' := (hpoint h).symm.trans hj
      split at hj'
      · rename_i heq
        cases hj'
        exact ⟨r, Table.find_put_same _ _ _, by rw [hstate]; exact fun hx => (by cases hx), heq.symm⟩
      · obtain ⟨p', hp', hpj⟩ := State.pendingOf_eq_some.mp hj'
        obtain ⟨q, hq, hqd, hqp⟩ := hs.ofPending h p' j hp' hpj
        exact ⟨q, hkept hq, hqd, hqp⟩
  refine commandLaw_iff.mpr ?_
  unfold placeSlot noticeNewSlot
  split
  · refine hplaced.modifyLink ?_
    obtain ⟨-, -, -, hexchange, -⟩ := Link.openInGap_keeps (State.link _ l)
    exact hexchange
  · exact hplaced

theorem oldestEligible_queued {l : LinkId} {h : Nat} (ho : s.oldestEligible l = some h) :
    h ∈ s.cmdQueue l ∧ ∃ r, s.slots.find h = some r ∧ r.state = .queued ∧ s.hasRoom r.station = true := by
  have heligible := List.find?_some ho
  refine ⟨List.mem_of_find?_eq_some ho, ?_⟩
  unfold State.eligible at heligible
  split at heligible
  · rename_i r hr
    rw [Bool.and_eq_true, beq_iff_eq] at heligible
    exact ⟨r, hr, heligible⟩
  · cases heligible

/-- R114: a slot that is sent. -/
def Slot.send (tag : Nat) (timeout : BitVec 8) (r : Slot) : Slot :=
  { r with
    state := .sent
    tag := some tag
    timeout := some timeout }

theorem Slot.Lawful.send {r : Slot} (h : r.Lawful) (hq : r.state = .queued) (tag : Nat) (timeout : BitVec 8) :
    (r.send tag timeout).Lawful where
  tag := rfl
  abort := fun _ => rfl
  deadline := by rw [show (r.send tag timeout).deadline = r.deadline from rfl, h.deadline, hq]; rfl
  result := by rw [show (r.send tag timeout).result = r.result from rfl, h.result, hq]; rfl
  code := fun _ => h.code (by rw [hq]; exact fun hx => by cases hx)

/-- R114: the QUEUED slot that a link sends leaves its queue. -/
theorem CommandLaw.send {l : LinkId} {h g tag : Nat} {timeout : BitVec 8} {r : Slot} {x : Exchange}
    {f : Link → Link} (hr : s.slots.find h = some r) (hq : r.state = .queued)
    (hf : (f (s.link l)).activity.exchange = some x)
    (hk : x.kind = .command h g) (htags : t.slots = s.slots.modify h (Slot.send tag timeout))
    (hqueues : t.cmdQueues = s.cmdQueues.map (fun q => without q h)) (hdone : t.doneLists = s.doneLists)
    (hpoints : t.points = s.points) (hlinks : t.links = s.links.modify l f) (hs : CommandLaw s) :
    CommandLaw t := by
  have hslots (k : Nat) : t.slots.find k = if k = h then some (r.send tag timeout) else s.slots.find k := by
    rw [htags, Table.find_modify, hr]
    rfl
  have hlink (m : LinkId) : t.link m = if m = l then f (s.link l) else s.link m := by
    unfold State.link
    rw [hlinks, Quad.get_modify]
  have hqueue (m : LinkId) : t.cmdQueue m = without (s.cmdQueue m) h := by
    unfold State.cmdQueue
    rw [hqueues, Quad.get_map]
  have hsent {m : LinkId} {k : Nat} (hm : (t.link m).sentSlot = some k) :
      m = l ∧ k = h ∨ m ≠ l ∧ k ≠ h ∧ (s.link m).sentSlot = some k := by
    rw [hlink] at hm
    split at hm
    · rename_i hml
      rw [Link.sentSlot_of_command hf hk] at hm
      exact .inl ⟨hml, (Option.some.inj hm).symm⟩
    · rename_i hml
      refine .inr ⟨hml, ?_, hm⟩
      rintro rfl
      obtain ⟨q, hq', hqs⟩ := hs.sent m k hm
      rw [hr] at hq'
      cases hq'
      rw [hq] at hqs
      cases hqs
  have hlist (c : ClientId) : t.doneList c = s.doneList c := by unfold State.doneList; rw [hdone]
  have hpend (k : Nat) : t.pendingOf k = s.pendingOf k := pendingOf_congr hpoints k
  have hlaw := commandLaw_iff.mp hs
  refine commandLaw_iff.mpr
    { slots := fun k q hkq => ?_
      sent := fun m k _ hm => ?_
      sentOnce := fun m n k _ _ hm hn => ?_
      queueNodup := fun m => hqueue m ▸ without_nodup (hs.queueNodup m) h
      queueOnce := fun m n k hm hn => ?_
      queued := fun k => ?_
      doneNodup := fun c => hlist c ▸ hs.doneNodup c
      done := fun c k => ?_
      pending := fun k q hkq hd => ?_
      ofPending := fun j k hj => ?_ }
  · rw [hslots] at hkq
    split at hkq
    · cases hkq
      exact (hs.slots h r hr).send hq tag timeout
    · exact hs.slots k q hkq
  · rw [hslots]
    rcases hsent hm with ⟨-, rfl⟩ | ⟨-, hne, hm⟩
    · exact ⟨_, if_pos rfl, rfl⟩
    · rw [if_neg hne]
      exact hs.sent m k hm
  · rcases hsent hm with ⟨hml, hkh⟩ | ⟨-, hne, hm⟩
    · rcases hsent hn with ⟨hnl, -⟩ | ⟨-, hne, -⟩
      · exact hml.trans hnl.symm
      · exact absurd hkh hne
    · rcases hsent hn with ⟨-, hkh⟩ | ⟨-, -, hn⟩
      · exact absurd hkh hne
      · exact hs.sentOnce m n k hm hn
  · rw [hqueue, mem_without] at hm hn
    exact hs.queueOnce m n k hm.1 hn.1
  · simp only [hqueue, mem_without, hslots]
    by_cases hkh : k = h
    · subst hkh
      rw [if_pos rfl]
      exact ⟨fun ⟨_, _, hne⟩ => absurd rfl hne, fun ⟨q, hq, hqs⟩ => by cases hq; cases hqs⟩
    · rw [if_neg hkh, ← hs.queued k]
      exact ⟨fun ⟨m, hm, _⟩ => ⟨m, hm⟩, fun ⟨m, hm⟩ => ⟨m, hm, hkh⟩⟩
  · rw [hlist, hslots, hs.done c k]
    by_cases hkh : k = h
    · subst hkh
      rw [if_pos rfl, hr]
      exact ⟨fun ⟨q, hkq, hqs, _⟩ => (by cases hkq; rw [hq] at hqs; cases hqs),
        fun ⟨q, hkq, hqs, _⟩ => by cases hkq; cases hqs⟩
    · rw [if_neg hkh]
  · rw [hpend]
    rw [hslots] at hkq
    split at hkq
    · rename_i hkh
      subst hkh
      cases hkq
      exact hlaw.pending k r hr (by rw [hq]; exact fun hx => by cases hx)
    · exact hlaw.pending k q hkq hd
  · rw [hpend] at hj
    obtain ⟨q, hkq, hd, hqp⟩ := hlaw.ofPending j k hj
    rw [hslots]
    split
    · rename_i hkh
      subst hkh
      rw [hr] at hkq
      cases hkq
      exact ⟨_, rfl, fun hx => (by cases hx), hqp⟩
    · exact ⟨q, hkq, hd, hqp⟩

/-- R93, R114: a link sends the COMMAND of a slot. -/
def Link.sendCommand (h tag : Nat) (r : Slot) (st : Station) (number : Byte) (k : Link) : Link :=
  { (k.send (makeExchange k (.command h tag) r.station st kindCommand
      (commandPayload tag number r.value))) with
    burst := k.burst + 1 }

/-- R114: the start of a COMMAND exchange, if the records it needs are there. -/
theorem startCommand_cases {l : LinkId} {h : Nat} {r : Slot} (hr : s.slots.find h = some r) :
    startCommand l h s = s ∨ ∃ (st : Station) (p : Point) (tag : Nat),
      s.stations.find r.station = some st ∧ s.points.find r.point = some p ∧
      (s.tagSet r.station).lowestFree Config.tagCount = some tag ∧
      startCommand l h s =
        ((s.setTagSet r.station ((s.tagSet r.station).put tag (.held h))).modifySlot h
          (Slot.send tag (s.link l).config.completionTimeout) |> dequeue h).modifyLink l
            (Link.sendCommand h tag r st p.number) := by
  unfold startCommand
  rw [hr]
  dsimp only
  split
  · exact .inr ⟨_, _, _, ‹_›, ‹_›, ‹_›, rfl⟩
  · exact .inl rfl

theorem CommandLaw.start {l : LinkId} {h : Nat} (ho : s.oldestEligible l = some h) (hs : CommandLaw s) :
    CommandLaw (startCommand l h s) := by
  obtain ⟨-, r, hr, hq, -⟩ := oldestEligible_queued ho
  rcases startCommand_cases hr with heq | ⟨st, p, tag, -, -, -, heq⟩
  · rw [heq]
    exact hs
  · rw [heq]
    exact hs.send (f := Link.sendCommand h tag r st p.number) (g := tag) hr hq rfl rfl rfl rfl rfl rfl rfl

/-- R120: the head of a done list is collected. -/
theorem CommandLaw.collect {c : ClientId} {h : Nat} {rest : List Nat} (hd : s.doneList c = h :: rest)
    (hs : CommandLaw s) :
    CommandLaw { s with
      slots := s.slots.drop h
      doneLists := s.doneLists.set c rest } := by
  obtain ⟨r, hr, hrd, hrc⟩ := (hs.done c h).mp (hd ▸ List.mem_cons_self)
  have hnodup := hs.doneNodup c
  rw [hd, List.nodup_cons] at hnodup
  have hback {k : Nat} {q : Slot} (hq : (s.slots.drop h).find k = some q) :
      k ≠ h ∧ s.slots.find k = some q := by
    rw [Table.find_drop] at hq
    split at hq
    · cases hq
    · exact ⟨‹_›, hq⟩
  have hforth {k : Nat} {q : Slot} (hq : s.slots.find k = some q) (hqd : q.state ≠ .done) :
      (s.slots.drop h).find k = some q := by
    refine (Table.find_drop_ne _ ?_).trans hq
    rintro rfl
    rw [hr] at hq
    cases hq
    exact hqd hrd
  have hlist (d : ClientId) : (s.doneLists.set c rest).get d = if d = c then rest else s.doneList d :=
    Quad.get_set _ _ _ _
  have hlaw := commandLaw_iff.mp hs
  refine commandLaw_iff.mpr
    { slots := hs.slots.drop h
      sent := fun l k _ hk => ?_
      sentOnce := fun l m k _ _ => hs.sentOnce l m k
      queueNodup := hs.queueNodup
      queueOnce := hs.queueOnce
      queued := fun k => ?_
      doneNodup := fun d => ?_
      done := fun d k => ?_
      pending := fun k q hq => hlaw.pending k q (hback hq).2
      ofPending := fun k j hj => ?_ }
  · obtain ⟨q, hq, hqs⟩ := hs.sent l k hk
    exact ⟨q, hforth hq (by rw [hqs]; exact fun hx => by cases hx), hqs⟩
  · refine (hs.queued k).trans ⟨fun ⟨q, hq, hqs⟩ => ⟨q, hforth hq ?_, hqs⟩, fun ⟨q, hq, hqs⟩ =>
      ⟨q, (hback hq).2, hqs⟩⟩
    rw [hqs]
    exact fun hx => by cases hx
  · show ((s.doneLists.set c rest).get d).Nodup
    rw [hlist]
    split
    · exact hnodup.2
    · exact hs.doneNodup d
  · show k ∈ (s.doneLists.set c rest).get d ↔ ∃ q, (s.slots.drop h).find k = some q ∧ _
    have hone : (∃ q, (s.slots.drop h).find k = some q ∧ q.state = .done ∧ q.client = d) ↔
        k ≠ h ∧ k ∈ s.doneList d := by
      rw [hs.done d k]
      constructor
      · rintro ⟨q, hq, hqs⟩
        exact ⟨(hback hq).1, q, (hback hq).2, hqs⟩
      · rintro ⟨hne, q, hq, hqs⟩
        exact ⟨q, (Table.find_drop_ne _ hne).trans hq, hqs⟩
    rw [hone, hlist]
    split
    · rename_i hdc
      subst hdc
      rw [hd, List.mem_cons]
      refine ⟨fun hk => ⟨fun hkh => hnodup.1 (hkh ▸ hk), .inr hk⟩, fun ⟨hne, hk⟩ => hk.resolve_left hne⟩
    · rename_i hdc
      refine ⟨fun hk => ⟨?_, hk⟩, fun hk => hk.2⟩
      rintro rfl
      obtain ⟨q, hq, -, hqc⟩ := (hs.done d k).mp hk
      rw [hr] at hq
      cases hq
      exact hdc (hqc.symm.trans hrc)
  · obtain ⟨q, hq, hqd, hqp⟩ := hlaw.ofPending k j hj
    exact ⟨q, hforth hq hqd, hqd, hqp⟩

theorem CommandLaw.modifyLink {l : LinkId} {f : Link → Link}
    (hf : (f (s.link l)).activity.exchange = (s.link l).activity.exchange) (hs : CommandLaw s) :
    CommandLaw (s.modifyLink l f) := commandLaw_iff.mpr ((commandLaw_iff.mp hs).modifyLink hf)

/-- A POLL or IDENT_REQ exchange has no slot. -/
theorem CommandLaw.sendPlain {l : LinkId} {f : Link → Link} (hold : (s.link l).sentSlot = none)
    (hf : (f (s.link l)).sentSlot = none) (hs : CommandLaw s) : CommandLaw (s.modifyLink l f) := by
  have hsent {m : LinkId} : ((s.modifyLink l f).link m).sentSlot = (s.link m).sentSlot := by
    rw [State.link_modifyLink]
    split
    · rename_i hm
      rw [hf, hm, hold]
    · rfl
  exact
    { hs with
      sent := fun m k hm => hs.sent m k (hsent ▸ hm)
      sentOnce := fun m n k hm hn => hs.sentOnce m n k (hsent ▸ hm) (hsent ▸ hn) }

theorem visitExchange_sentSlot (k j : Link) (sid : Nat) (st : Station)
    (h : j.activity.exchange = some (visitExchange k sid st)) : j.sentSlot = none := by
  unfold visitExchange at h
  unfold Link.sentSlot
  split at h
  · rw [h]
    rfl
  · rw [h]
    rfl

theorem CommandLaw.enable (l : LinkId) (hs : CommandLaw s) : CommandLaw (enableLink l s) := by
  unfold enableLink
  dsimp only
  split
  · rename_i hd
    split
    · exact CommandLaw.congr (s := setLinkFlag l .configError s) (hs.modifyLink rfl)
        (SameCommands.of_eq rfl rfl rfl rfl rfl)
    · have hjoined := rejoin_keeps (P := fun t => CommandLaw t ∧ (t.link l).activity = .disabled)
        (fun _ _ hp => ⟨hp.1.congr (SameCommands.of_eq rfl rfl rfl rfl rfl), hp.2⟩) (s.pollList l) ⟨hs, hd⟩
      refine hjoined.1.modifyLink ((beginRound_exchange _ l _).trans ?_)
      rw [hjoined.2]
      rfl
  · exact hs

theorem CommandLaw.empty (hslots : s.slots = ⟨[]⟩) (hpoints : s.points = ⟨[]⟩)
    (hsent : ∀ l, (s.link l).activity.exchange = none) (hqueue : ∀ l, s.cmdQueue l = [])
    (hdone : ∀ c, s.doneList c = []) : CommandLaw s where
  slots := hslots ▸ Table.All.empty _
  sent := fun l h hh => by rw [Link.sentSlot_of_none (hsent l)] at hh; cases hh
  sentOnce := fun l m h hh => by rw [Link.sentSlot_of_none (hsent l)] at hh; cases hh
  queueNodup := fun l => hqueue l ▸ List.nodup_nil
  queueOnce := fun l m h hh => by rw [hqueue] at hh; cases hh
  queued := fun h => by
    rw [hslots]
    exact ⟨fun ⟨l, hl⟩ => (by rw [hqueue] at hl; cases hl), fun ⟨_, hr, _⟩ => by cases hr⟩
  doneNodup := fun c => hdone c ▸ List.nodup_nil
  done := fun c h => by
    rw [hdone, hslots]
    exact ⟨fun hh => (by cases hh), fun ⟨_, hr, _⟩ => by cases hr⟩
  pending := fun h r hr => by rw [hslots] at hr; cases hr
  ofPending := fun h p k hp => by rw [hpoints] at hp; cases hp

theorem CommandLaw.handOn (o : Owner) (e : Option WriteError) (hs : CommandLaw s) :
    CommandLaw (handOn o e s) := by
  have hlaw := commandLaw_iff.mp hs
  refine commandLaw_iff.mpr ?_
  unfold Machine.handOn
  split
  · exact mirrorEndOk_keeps (fun _ => hlaw.modifyBinding _ _)
      (fun _ _ => (hlaw.modifyBinding _ _).freeBinding _)
  · exact mirrorEndError_keeps (fun _ => hlaw.modifyBinding _ _)
      (fun _ _ => (hlaw.modifyBinding _ _).freeBinding _)
      (fun _ _ _ => hlaw.congr (SameCommands.of_eq rfl rfl rfl rfl rfl))
  · exact hlaw.congr (SameCommands.of_eq rfl rfl rfl rfl rfl)

theorem CommandLaw.mirrorStart (hs : CommandLaw s) : CommandLaw (mirrorWriteStart s) := by
  unfold mirrorWriteStart
  split
  · split
    · exact hs
    split
    · exact hs
    · exact hs.congr (SameCommands.of_eq rfl rfl rfl rfl rfl)
  · exact hs

theorem CommandLaw.remove {h : Nat} {st : Station} (hs : CommandLaw s) : CommandLaw (removeRecord h st s) := by
  have hfreed : CommandLaw (freeAllTags h s) := commandLaw_iff.mpr ((commandLaw_iff.mp hs).freeAllTags h)
  have hforget (k : Link) (xs : List Nat) : (k.forget xs h).activity.exchange = k.activity.exchange := by
    rw [Link.forget_eq]
  have hleft : CommandLaw (leavePollList h st.link (freeAllTags h s)) :=
    (hfreed.modifyLink (hforget _ _)).congr (SameCommands.of_eq rfl rfl rfl rfl rfl)
  unfold removeRecord
  dsimp only
  split
  · exact hleft.congr (SameCommands.of_eq rfl rfl rfl rfl rfl)
  · exact hleft.congr (SameCommands.of_eq rfl rfl rfl rfl rfl)

theorem CommandLaw.appendedWhileIdle (l : LinkId) (h : Nat) (hs : CommandLaw s) :
    CommandLaw (appendedWhileIdle l h s) := by
  unfold Machine.appendedWhileIdle
  split
  · rename_i hidle
    have hpos : CommandLaw (s.modifyLink l (fun k => { k with roundPos := some h })) := hs.modifyLink rfl
    refine hpos.modifyLink ((decideLink_exchange _ l _).trans ?_)
    rw [State.link_modifyLink_same]
    show none = (s.link l).activity.exchange
    rw [hidle]
    rfl
  · exact hs

theorem CommandLaw.addPoint {h : Nat} {p : Point} (hfree : s.points.find h = none) (hp : p.pendingCmd = none)
    (hs : CommandLaw s) : CommandLaw (placePoint h p s) := by
  refine hs.congr (SameCommands.of_points (fun k => ?_) rfl rfl rfl rfl)
  show ((s.points.put h p).find k).bind Point.pendingCmd = _
  rw [Table.find_put]
  split
  · rename_i hk
    subst hk
    rw [State.pendingOf, hfree]
    exact hp
  · rfl

theorem CommandLaw.kept : KeptByCore CommandLaw where
  core := fun hc hs => hs.congr (SameCommands.of_eq hc.points hc.slots hc.cmdQueues hc.doneLists hc.links)
  link := fun hk hs => hs.modifyLink hk.exchange
  phase := fun _ hs => hs.congr (SameCommands.of_eq rfl rfl rfl rfl rfl)
  point := fun hp hm hs => hs.congr (SameCommands.of_points (pendingOf_put hp hm.pendingCmd) rfl rfl rfl rfl)
  event := fun _ _ hs => hs.congr (SameCommands.of_eq (by simp) (by simp) (by simp) (by simp) (by simp))
  softReset := fun {s} _ => CommandLaw.empty rfl rfl (fun l => by
    show ((s.links.map Link.softReset).get l).activity.exchange = none
    rw [Quad.get_map]
    rfl) (fun l => Quad.get_all _ l) (fun c => Quad.get_all _ c)
  hardwareReset := fun _ => CommandLaw.empty rfl rfl (fun l => by
    show ((Quad.all Link.reset).get l).activity.exchange = none
    rw [Quad.get_all]
    rfl) (fun l => Quad.get_all _ l) (fun c => Quad.get_all _ c)
  addStation := fun {s l a limit h} _ _ _ _ _ _ hs =>
    CommandLaw.appendedWhileIdle _ h (hs.congr (SameCommands.of_eq rfl rfl rfl rfl rfl))
  removeStation := fun _ _ _ hs => hs.remove
  createPoint := fun _ _ _ _ _ _ _ hh hs => hs.addPoint (Table.lowestFree_spec hh).1 rfl
  retirePoint := fun hp _ hs => hs.retire hp
  bind := fun _ _ _ _ _ _ _ _ hs => commandLaw_iff.mpr (CommandLawBut.queueBinding _
    ((commandLaw_iff.mp hs).congr (SameCommands.of_points (pendingOf_modify _ (fun _ => rfl)) rfl rfl rfl rfl)))
  detach := fun _ _ _ hs => hs.congr (SameCommands.of_eq rfl rfl rfl rfl rfl)
  unbind := fun _ _ _ hs => commandLaw_iff.mpr ((commandLaw_iff.mp hs).freeBinding _)
  resume := fun _ _ hs => commandLaw_iff.mpr (((commandLaw_iff.mp hs).modifyBinding _ _).queueBinding _)
  sendCommand := fun _ _ _ hp _ _ _ hnone _ hk hs =>
    hs.place (Table.lowestFree_spec hk).1 hp hnone (Slot.lawful_new _ _ _ _ _) rfl
  endQueued := fun result hr hq hs => commandLaw_iff.mpr ((commandLaw_iff.mp hs).endWaiting hr (.inl hq) result 0 _)
  endAccepted := fun result hr ha hs => commandLaw_iff.mpr ((commandLaw_iff.mp hs).endAccepted hr ha result 0 _)
  mark := fun _ hr ha hs => commandLaw_iff.mpr ((commandLaw_iff.mp hs).modifySlot hr
    { hs.slots _ _ hr with abort := fun _ => ha } rfl rfl Iff.rfl Iff.rfl (fun _ _ _ => ha))
  collect := fun hd _ hs => hs.collect hd
  enable := fun l hs => hs.enable l
  disable := fun l hs => hs.disable l
  visit := fun hdeciding _ _ hs => hs.sendPlain (Link.sentSlot_of_none (by rw [hdeciding]; rfl))
    (visitExchange_sentSlot _ _ _ _ rfl)
  command := fun _ ho hs => hs.start ho
  ends := fun _ hx hs => hs.ends _ hx
  mirrorStart := fun hs => hs.mirrorStart
  messageStart := fun hs => hs.congr (SameCommands.of_eq (by simp) (by simp) (by simp) (by simp) (by simp))
  endTransaction := fun {s t} e _ hs => by
    have hidle : CommandLaw (setPhase .idle s) := hs.congr (SameCommands.of_eq rfl rfl rfl rfl rfl)
    unfold endTransaction
    dsimp only
    split
    · exact hidle
    · exact (hidle.handOn t.owner e).congr (SameCommands.of_eq rfl rfl rfl rfl rfl)

end

/-- Settles O59: the law is kept by every command; at the end of an exchange its own link is left out. -/
theorem stepKeepsCommandLaw : Obligations.StepKeepsCommandLaw :=
  fun _ _ hs ht => CommandLaw.kept.step hs ht

end Sys2Proof.Machine
end


section
/-! The law of tags, exchanges and command queues (O60): what it looks at, and how the ends of slots, tags and
departures change it. -/

namespace Sys2Proof.Machine

/-! ## What the law looks at -/

/-- The parts of a station that the law looks at. -/
def Station.duty (st : Station) : LinkId × Nat × Bool × Bool :=
  (st.link, st.capacity, decide (st.state = .present), decide (st.state = .leaving))

theorem Station.duty_eq_iff {a b : Station} : a.duty = b.duty ↔ a.link = b.link ∧ a.capacity = b.capacity ∧
    (a.state = .present ↔ b.state = .present) ∧ (a.state = .leaving ↔ b.state = .leaving) := by
  unfold Station.duty
  rw [Prod.mk.injEq, Prod.mk.injEq, Prod.mk.injEq, decide_eq_decide, decide_eq_decide]

/-- The parts of a point that the law looks at. -/
def Point.duty (p : Point) : Nat × Option Nat × Bool := (p.station, p.pendingCmd, decide (p.state = .retiring))

theorem Point.duty_eq_iff {a b : Point} : a.duty = b.duty ↔
    a.station = b.station ∧ a.pendingCmd = b.pendingCmd ∧ (a.state = .retiring ↔ b.state = .retiring) := by
  unfold Point.duty
  rw [Prod.mk.injEq, Prod.mk.injEq, decide_eq_decide]

theorem Point.Moves.duty {a b : Point} (h : a.Moves b) : b.duty = a.duty :=
  Point.duty_eq_iff.mpr ⟨h.station, h.pendingCmd, h.retiring⟩

/-- An exchange with station `st`, whose state agrees with the exchange's kind. -/
def Exchange.agrees (s : State) (x : Exchange) (st : Station) : Prop :=
  match x.kind with
  | .poll => st.state = .present ∨ st.state = .leaving
  | .identReq => st.state ≠ .present
  | .command h g => ∃ r, s.slots.find h = some r ∧ r.station = x.station ∧ r.tag = some g

section

variable {s t : State} {L : LinkId → Prop} {B R : Nat → Prop}

/-- The law but for the exchanges of the links `L`, the states of the stations `B`, and the marks of the
commands of the points `R`. -/
structure TagLawBut (L : LinkId → Prop) (B R : Nat → Prop) (s : State) : Prop where
  capacity : ∀ sid st, ¬ B sid → s.stations.find sid = some st → s.tagsInUse sid ≤ st.capacity
  free : ∀ sid, s.stations.find sid = none → (s.tagSet sid).rows = []
  tags : ∀ sid g u, (s.tagSet sid).find g = some u → g < 16
  canonical : ∀ sid, (s.tagSet sid).Canonical
  held : ∀ sid g h, (s.tagSet sid).find g = some (.held h) ↔
    ∃ r, s.slots.find h = some r ∧ r.station = sid ∧ r.tag = some g
  exchange : ∀ l x, ¬ L l → (s.link l).activity.exchange = some x →
    ∃ st, s.stations.find x.station = some st ∧ st.link = l ∧ x.agrees s st
  sent : ∀ h r, s.slots.find h = some r → r.state = .sent → ∃ l, ¬ L l ∧ (s.link l).sentSlot = some h
  queue : ∀ l h r, h ∈ s.cmdQueue l → s.slots.find h = some r →
    ∃ st, s.stations.find r.station = some st ∧ st.link = l
  station : ∀ h r, s.slots.find h = some r → r.state ≠ .done →
    ∃ st p, s.stations.find r.station = some st ∧ s.points.find r.point = some p ∧
      p.station = r.station ∧ (¬ B r.station → st.state = .present)
  retiring : ∀ h p k, ¬ R h → s.points.find h = some p → p.state = .retiring → p.pendingCmd = some k →
    ∃ r, s.slots.find k = some r ∧ r.state = .sent ∧ r.abort.isSome = true

/-- Nothing is left out. -/
abbrev nowhere {α : Type} (_ : α) : Prop := False

theorem tagLaw_iff : TagLaw s ↔ TagLawBut nowhere nowhere nowhere s where
  mp := fun h =>
    { capacity := fun sid st _ => h.capacity sid st
      free := h.free
      tags := h.tags
      canonical := h.canonical
      held := h.held
      exchange := fun l x _ => h.exchange l x
      sent := fun k r hr hk => (h.sent k r hr hk).imp fun _ hl => ⟨id, hl⟩
      queue := h.queue
      station := fun k r hr hk => by
        obtain ⟨⟨st, hst, hp⟩, p, hpoint, hstation⟩ := h.station k r hr hk
        exact ⟨st, p, hst, hpoint, hstation, fun _ => hp⟩
      retiring := fun k p j _ => h.retiring k p j }
  mpr := fun h =>
    { capacity := fun sid st => h.capacity sid st id
      free := h.free
      tags := h.tags
      canonical := h.canonical
      held := h.held
      exchange := fun l x => h.exchange l x id
      sent := fun k r hr hk => (h.sent k r hr hk).imp fun _ hl => hl.2
      queue := h.queue
      station := fun k r hr hk => by
        obtain ⟨st, p, hst, hpoint, hstation, hpresent⟩ := h.station k r hr hk
        exact ⟨⟨st, hst, hpresent id⟩, p, hpoint, hstation⟩
      retiring := fun k p j => h.retiring k p j id }

/-- A change of the state that the law does not see, but that points without a pending command may go. -/
structure SameTags (L : LinkId → Prop) (s t : State) : Prop where
  tagSets : t.tagSets = s.tagSets
  slots : t.slots = s.slots
  cmdQueues : t.cmdQueues = s.cmdQueues
  exchange : ∀ l, ¬ L l → (t.link l).activity.exchange = (s.link l).activity.exchange
  stations : ∀ h, (t.stations.find h).map Station.duty = (s.stations.find h).map Station.duty
  pointBack : ∀ h q, t.points.find h = some q → ∃ p, s.points.find h = some p ∧ q.duty = p.duty
  pointForth : ∀ h p, s.points.find h = some p → p.pendingCmd ≠ none →
    ∃ q, t.points.find h = some q ∧ q.duty = p.duty

theorem SameTags.of_points (hst : t.stations = s.stations) (htags : t.tagSets = s.tagSets)
    (hslots : t.slots = s.slots) (hqueues : t.cmdQueues = s.cmdQueues) (hlinks : t.links = s.links)
    (hp : ∀ h, (t.points.find h).map Point.duty = (s.points.find h).map Point.duty) : SameTags L s t where
  tagSets := htags
  slots := hslots
  cmdQueues := hqueues
  exchange := fun l _ => by unfold State.link; rw [hlinks]
  stations := fun h => by rw [hst]
  pointBack := fun h _ hq => find_of_map_eq (hp h) hq
  pointForth := fun h _ hq _ => (find_of_map_eq (hp h).symm hq).imp fun _ ⟨h1, h2⟩ => ⟨h1, h2.symm⟩

theorem SameTags.of_eq (hst : t.stations = s.stations) (htags : t.tagSets = s.tagSets)
    (hslots : t.slots = s.slots) (hqueues : t.cmdQueues = s.cmdQueues) (hlinks : t.links = s.links)
    (hp : t.points = s.points) : SameTags L s t :=
  SameTags.of_points hst htags hslots hqueues hlinks (fun h => by rw [hp])

theorem State.tagSet_congr (h : t.tagSets = s.tagSets) (sid : Nat) : t.tagSet sid = s.tagSet sid := by
  unfold State.tagSet
  rw [h]

/-- R109: the point of a slot that is not DONE has a pending command. -/
def PendingHeld (s : State) : Prop :=
  ∀ h r, s.slots.find h = some r → r.state ≠ .done → s.pendingOf r.point ≠ none

theorem CommandLawBut.pendingHeld (hc : CommandLawBut L s) : PendingHeld s := by
  intro h r hr hd
  rw [hc.pending h r hr hd]
  exact fun hx => by cases hx

theorem PendingHeld.point {h : Nat} {r : Slot} {p : Point} (hs : PendingHeld s)
    (hr : s.slots.find h = some r) (hd : r.state ≠ .done) (hp : s.points.find r.point = some p) :
    p.pendingCmd ≠ none := by
  have hpending := hs h r hr hd
  rwa [State.pendingOf, hp] at hpending

theorem TagLawBut.congr (hs : TagLawBut L B R s) (hc : PendingHeld s) (h : SameTags L s t) :
    TagLawBut L B R t := by
  have hset (sid : Nat) : t.tagSet sid = s.tagSet sid := State.tagSet_congr h.tagSets sid
  have hback {k : Nat} {a : Station} (ha : t.stations.find k = some a) :=
    (find_of_map_eq (h.stations k) ha).imp fun _ ⟨h1, h2⟩ => And.intro h1 (Station.duty_eq_iff.mp h2)
  have hforth {k : Nat} {a : Station} (ha : s.stations.find k = some a) :=
    (find_of_map_eq (h.stations k).symm ha).imp fun _ ⟨h1, h2⟩ => And.intro h1 (Station.duty_eq_iff.mp h2)
  have hqueue (l : LinkId) : t.cmdQueue l = s.cmdQueue l := by unfold State.cmdQueue; rw [h.cmdQueues]
  exact
    { capacity := fun sid st hB hst => by
        obtain ⟨a, ha, -, hcap, -⟩ := hback hst
        unfold State.tagsInUse
        rw [hset, hcap]
        exact hs.capacity sid a hB ha
      free := fun sid hst => by
        rw [hset]
        refine hs.free sid ?_
        have hmap := h.stations sid
        rw [hst] at hmap
        exact Option.map_eq_none_iff.mp hmap.symm
      tags := fun sid => hset sid ▸ hs.tags sid
      canonical := fun sid => hset sid ▸ hs.canonical sid
      held := fun sid g k => by
        rw [hset, h.slots]
        exact hs.held sid g k
      exchange := fun l x hl hx => by
        obtain ⟨st, hst, hlink, hagrees⟩ := hs.exchange l x hl ((h.exchange l hl) ▸ hx)
        obtain ⟨a, ha, hla, -, hpresent, hleaving⟩ := hforth hst
        refine ⟨a, ha, hla.symm.trans hlink, ?_⟩
        unfold Exchange.agrees at hagrees ⊢
        split at hagrees
        · exact hagrees.imp hpresent.mp hleaving.mp
        · exact fun hx => hagrees (hpresent.mpr hx)
        · rw [h.slots]
          exact hagrees
      sent := fun k r hr hk => by
        obtain ⟨l, hl, hsent⟩ := hs.sent k r (h.slots ▸ hr) hk
        exact ⟨l, hl, (Link.sentSlot_congr (h.exchange l hl)).trans hsent⟩
      queue := fun l k r hk hr => by
        obtain ⟨st, hst, hlink⟩ := hs.queue l k r (hqueue l ▸ hk) (h.slots ▸ hr)
        obtain ⟨a, ha, hla, -⟩ := hforth hst
        exact ⟨a, ha, hla.symm.trans hlink⟩
      station := fun k r hr hk => by
        have hr' : s.slots.find k = some r := h.slots ▸ hr
        obtain ⟨st, p, hst, hp, hstation, hpresent⟩ := hs.station k r hr' hk
        obtain ⟨a, ha, -, -, hpres, -⟩ := hforth hst
        obtain ⟨q, hq, hduty⟩ := h.pointForth _ p hp (hc.point hr' hk hp)
        exact ⟨a, q, ha, hq, (Point.duty_eq_iff.mp hduty).1.trans hstation, fun hB => hpres.mp (hpresent hB)⟩
      retiring := fun k q j hR hq hret hj => by
        obtain ⟨p, hp, hduty⟩ := h.pointBack k q hq
        obtain ⟨-, hpending, hretiring⟩ := Point.duty_eq_iff.mp hduty
        rw [h.slots]
        exact hs.retiring k p j hR hp (hretiring.mp hret) (hpending ▸ hj) }

/-- A point without a pending command goes. -/
theorem SameTags.testFree (h : Nat) (s : State) : SameTags L s (testFree h s) := by
  unfold Machine.testFree
  split
  · exact SameTags.of_eq rfl rfl rfl rfl rfl rfl
  rename_i p hp
  split
  · rename_i hfree
    obtain ⟨-, hnone, -⟩ := hfree
    refine ⟨rfl, rfl, rfl, fun _ _ => rfl, map_modify _ _ (fun _ _ => rfl), fun k q hq => ?_,
      fun k q hq hpending => ⟨q, (Table.find_drop_ne _ ?_).trans hq, rfl⟩⟩
    · have hq' : (s.points.drop h).find k = some q := hq
      rw [Table.find_drop] at hq'
      split at hq'
      · cases hq'
      · exact ⟨q, hq', rfl⟩
    · rintro rfl
      rw [hp] at hq
      cases hq
      exact hpending hnone
  · exact SameTags.of_eq rfl rfl rfl rfl rfl rfl

/-! ## Tag sets -/

theorem Table.size_drop_le {α : Type} (t : Table α) (h : Nat) : (t.drop h).size ≤ t.size :=
  List.length_filter_le _ _

theorem Table.size_put_le {α : Type} (t : Table α) (h : Nat) (a : α) : (t.put h a).size ≤ t.size + 1 := by
  have hcount := countP_putRow_le (fun _ => true) h a t.rows
  simpa [Table.size, Table.put] using hcount

theorem Table.size_put_same {α : Type} {t : Table α} (ht : t.Canonical) {h : Nat} {b : α}
    (hb : t.find h = some b) (a : α) : (t.put h a).size = t.size := by
  have hcount := countP_putRow_same (p := fun _ => true) (a := a) ht hb rfl
  simpa [Table.size, Table.put] using hcount

theorem State.tagSet_setTagSet (s : State) (sid k : Nat) (u : Table TagUse) :
    (s.setTagSet sid u).tagSet k = if k = sid then u else s.tagSet k := by
  split
  · rename_i hk
    rw [hk, State.tagSet_setTagSet_same]
  · rename_i hk
    rw [State.tagSet_setTagSet_ne _ _ hk]

/-- R112: the tag set that a slot's end leaves to its station. -/
def TagFate.apply (fate : TagFate) (g : Nat) (u : Table TagUse) : Table TagUse :=
  match fate with
  | .freed => u.drop g
  | .abandoned => u.put g .abandoned

theorem TagFate.find_apply_ne (fate : TagFate) {g k : Nat} (hk : k ≠ g) (u : Table TagUse) :
    (fate.apply g u).find k = u.find k := by
  cases fate with
  | freed => exact Table.find_drop_ne _ hk
  | abandoned => exact Table.find_put_ne _ _ hk

theorem TagFate.find_apply_same (fate : TagFate) (g h : Nat) (u : Table TagUse) :
    (fate.apply g u).find g ≠ some (.held h) := by
  cases fate with
  | freed => rw [TagFate.apply, Table.find_drop_same]; exact fun hx => by cases hx
  | abandoned => rw [TagFate.apply, Table.find_put_same]; exact fun hx => by cases hx

theorem TagFate.size_apply_le (fate : TagFate) {g : Nat} {u : Table TagUse} (hu : u.Canonical) {b : TagUse}
    (hb : u.find g = some b) : (fate.apply g u).size ≤ u.size := by
  cases fate with
  | freed => exact Table.size_drop_le u g
  | abandoned => exact (Table.size_put_same hu hb _).le

theorem TagFate.canonical_apply (fate : TagFate) (g : Nat) {u : Table TagUse} (hu : u.Canonical) :
    (fate.apply g u).Canonical := by
  cases fate with
  | freed => exact hu.drop g
  | abandoned => exact hu.put g _

theorem releaseTag_tagSet {r : Slot} (fate : TagFate) (s : State) (sid : Nat) :
    (releaseTag r fate s).tagSet sid =
      match r.tag with
      | none => s.tagSet sid
      | some g => if sid = r.station then fate.apply g (s.tagSet r.station) else s.tagSet sid := by
  unfold releaseTag
  cases hg : r.tag with
  | none => rfl
  | some g =>
    cases fate with
    | freed =>
      show (freeTag r.station g s).tagSet sid = _
      rw [State.tagSet_congr (s := s.setTagSet r.station ((s.tagSet r.station).drop g)) (by simp [freeTag]),
        State.tagSet_setTagSet]
      rfl
    | abandoned =>
      show (abandonTag r.station g s).tagSet sid = _
      rw [abandonTag, State.tagSet_setTagSet]
      rfl

/-! ## The end of a slot -/

/-- A tag in use belongs to a slot that is SENT or ACCEPTED. -/
theorem Slot.Lawful.tag_eq_none {r : Slot} (h : r.Lawful) (hs : r.state ≠ .sent) (ha : r.state ≠ .accepted) :
    r.tag = none := by
  have htag := h.tag
  cases hr : r.state <;> rw [hr] at htag hs ha
  · exact Option.not_isSome_iff_eq_none.mp (by rw [htag]; exact fun hx => by cases hx)
  · exact absurd rfl hs
  · exact absurd rfl ha
  · exact Option.not_isSome_iff_eq_none.mp (by rw [htag]; exact fun hx => by cases hx)

theorem Slot.Lawful.not_done_of_tag {r : Slot} (h : r.Lawful) {g : Nat} (hg : r.tag = some g) :
    r.state ≠ .done := by
  intro hd
  have htag := h.tag
  rw [hg, hd] at htag
  cases htag

/-- R112: the tag of a slot is released, and the slot is DONE. The slot may be that of the exchange of a link
that is left out from now on. -/
theorem TagLawBut.finish {M : LinkId → Prop} {h : Nat} {r : Slot} (hr : s.slots.find h = some r)
    (hd : r.state ≠ .done) (hLM : ∀ l, L l → M l)
    (hnew : ∀ l, M l → ¬ L l → (s.link l).sentSlot = some h)
    (hsent : ∀ l, ¬ M l → (s.link l).sentSlot ≠ some h) (result : CommandResult) (code : Byte) (fate : TagFate)
    (hc : CommandLawBut L s) (hs : TagLawBut L B R s) :
    TagLawBut M B R (finishSlot h result code fate (dequeue h s)) := by
  have hr' : (dequeue h s).slots.find h = some r := hr
  -- The state before the point of the slot is tested.
  rw [finishSlot_eq hr']
  have hslots (k : Nat) := Table.find_put s.slots h k (r.finish result code)
  have hset (sid : Nat) : (releaseTag r fate (dequeue h s)).tagSet sid = match r.tag with
      | none => s.tagSet sid
      | some g => if sid = r.station then fate.apply g (s.tagSet r.station) else s.tagSet sid :=
    releaseTag_tagSet fate (dequeue h s) sid
  have hlink (l : LinkId) : ((releaseTag r fate (dequeue h s)).link l).activity.exchange =
      (s.link l).activity.exchange :=
    (linkStable_exchange (fun l => (s.link l).activity.exchange)).releaseTag r fate (s := dequeue h s)
      (fun _ => rfl) l
  have hmine {g : Nat} (hg : r.tag = some g) : (s.tagSet r.station).find g = some (.held h) :=
    (hs.held r.station g h).mpr ⟨r, hr, rfl, hg⟩
  have hpoints (k : Nat) := Table.find_modify s.points r.point k (fun p => { p with pendingCmd := none })
  have hlonely {k : Nat} {q : Slot} (hq : s.slots.find k = some q) (hqd : q.state ≠ .done) (hk : k ≠ h) :
      q.point ≠ r.point := by
    intro hpoint
    have hown := hc.pending h r hr hd
    rw [← hpoint, hc.pending k q hq hqd] at hown
    exact hk (Option.some.inj hown)
  have hfinished : TagLawBut M B R { dequeue h s with
      tagSets := (releaseTag r fate (dequeue h s)).tagSets
      links := (releaseTag r fate (dequeue h s)).links
      slots := s.slots.put h (r.finish result code)
      points := s.points.modify r.point (fun p => { p with pendingCmd := none })
      doneLists := s.doneLists.modify r.client (fun d => d ++ [h])
      clients := s.clients.modify r.client (fun k => { k with sticky := k.sticky.raise .commandDone }) } := by
    refine
      { capacity := fun sid st hB hst => ?_
        free := fun sid hst => ?_
        tags := fun sid g u hu => ?_
        canonical := fun sid => ?_
        held := fun sid g k => ?_
        exchange := fun l x hl hx => ?_
        sent := fun k q hq hqs => ?_
        queue := fun l k q hk hq => ?_
        station := fun k q hq hqd => ?_
        retiring := fun k p j hR hp hret hj => ?_ }
    · have hold := hs.capacity sid st hB hst
      show ((releaseTag r fate (dequeue h s)).tagSet sid).size ≤ st.capacity
      rw [hset]
      split
      · exact hold
      · rename_i g hg
        split
        · rename_i hsid
          subst hsid
          exact (fate.size_apply_le (hs.canonical _) (hmine hg)).trans hold
        · exact hold
    · have hold := hs.free sid hst
      show ((releaseTag r fate (dequeue h s)).tagSet sid).rows = []
      rw [hset]
      split
      · exact hold
      · rename_i g hg
        split
        · rename_i hsid
          subst hsid
          have hheld := Table.mem_of_find (hmine hg)
          rw [hold] at hheld
          cases hheld
        · exact hold
    · have hu' : ((releaseTag r fate (dequeue h s)).tagSet sid).find g = some u := hu
      rw [hset] at hu'
      split at hu'
      · exact hs.tags sid g u hu'
      · rename_i g' hg
        split at hu'
        · rename_i hsid
          subst hsid
          by_cases hgg : g = g'
          · subst hgg
            exact hs.tags _ g _ (hmine hg)
          · rw [fate.find_apply_ne hgg] at hu'
            exact hs.tags _ g u hu'
        · exact hs.tags sid g u hu'
    · show ((releaseTag r fate (dequeue h s)).tagSet sid).Canonical
      rw [hset]
      split
      · exact hs.canonical sid
      · split
        · exact fate.canonical_apply _ (hs.canonical _)
        · exact hs.canonical sid
    · -- The entries that are left are those of the other slots.
      have hentry : ((releaseTag r fate (dequeue h s)).tagSet sid).find g = some (.held k) ↔
          k ≠ h ∧ (s.tagSet sid).find g = some (.held k) := by
        rw [hset]
        have hother (hheld : (s.tagSet sid).find g = some (.held h)) : sid = r.station ∧ r.tag = some g := by
          obtain ⟨q, hq, hqs, hqg⟩ := (hs.held sid g h).mp hheld
          rw [hr] at hq
          cases hq
          exact ⟨hqs.symm, hqg⟩
        split
        · rename_i hn
          refine ⟨fun hk => ⟨?_, hk⟩, fun hk => hk.2⟩
          rintro rfl
          rw [hn] at hother
          cases (hother hk).2
        · rename_i g' hg
          split
          · rename_i hsid
            subst hsid
            by_cases hgg : g = g'
            · subst hgg
              refine ⟨fun hk => absurd hk (fate.find_apply_same _ _ _), fun ⟨hk, hheld⟩ => ?_⟩
              rw [hmine hg] at hheld
              cases hheld
              exact absurd rfl hk
            · rw [fate.find_apply_ne hgg]
              refine ⟨fun hk => ⟨?_, hk⟩, fun hk => hk.2⟩
              rintro rfl
              have htag := (hother hk).2
              rw [hg] at htag
              exact hgg (Option.some.inj htag).symm
          · rename_i hsid
            refine ⟨fun hk => ⟨?_, hk⟩, fun hk => hk.2⟩
            rintro rfl
            exact hsid (hother hk).1
      refine hentry.trans ?_
      show _ ↔ ∃ q, (s.slots.put h (r.finish result code)).find k = some q ∧ _
      rw [hslots, hs.held sid g k]
      split
      · rename_i hk
        exact ⟨fun hx => absurd hk hx.1, fun ⟨q, hq, _, hqg⟩ => by cases hq; cases hqg⟩
      · rename_i hk
        exact ⟨fun hx => hx.2, fun hx => ⟨hk, hx⟩⟩
    · have hx' := (hlink l).symm.trans hx
      obtain ⟨st, hst, hstl, hagrees⟩ := hs.exchange l x (fun hL => hl (hLM l hL)) hx'
      refine ⟨st, hst, hstl, ?_⟩
      unfold Exchange.agrees at hagrees ⊢
      split at hagrees
      · exact hagrees
      · exact hagrees
      · rename_i k g hk
        obtain ⟨q, hq, hqs⟩ := hagrees
        refine ⟨q, (Table.find_put_ne _ _ ?_).trans hq, hqs⟩
        rintro rfl
        exact hsent l hl (Link.sentSlot_of_command hx' hk)
    · have hq' := (hslots k).symm.trans hq
      split at hq'
      · cases hq'
        cases hqs
      · rename_i hkh
        obtain ⟨l, hl, hk⟩ := hs.sent k q hq' hqs
        refine ⟨l, fun hM => hkh ?_, (Link.sentSlot_congr (hlink l)).trans hk⟩
        exact Option.some.inj (hk.symm.trans (hnew l hM hl))
    · have hk' : k ∈ (dequeue h s).cmdQueue l := hk
      rw [cmdQueue_dequeue, mem_without] at hk'
      have hq' := (hslots k).symm.trans hq
      rw [if_neg hk'.2] at hq'
      exact hs.queue l k q hk'.1 hq'
    · have hq' := (hslots k).symm.trans hq
      split at hq'
      · cases hq'
        exact absurd rfl hqd
      · rename_i hk
        obtain ⟨st, p, hst, hp, hstation, hpresent⟩ := hs.station k q hq' hqd
        exact ⟨st, p, hst, (Table.find_modify_ne _ _ (hlonely hq' hqd hk)).trans hp, hstation, hpresent⟩
    · have hp' := (hpoints k).symm.trans hp
      split at hp'
      · obtain ⟨q, -, rfl⟩ := Option.map_eq_some_iff.mp hp'
        cases hj
      · rename_i hk
        obtain ⟨q, hq, hqs⟩ := hs.retiring k p j hR hp' hret hj
        refine ⟨q, (Table.find_put_ne _ _ ?_).trans hq, hqs⟩
        rintro rfl
        obtain ⟨q', hq', -, hpoint⟩ := hc.ofPending k j (State.pendingOf_eq_some.mpr ⟨p, hp', hj⟩)
        rw [hr] at hq'
        cases hq'
        exact hk hpoint.symm
  have hcommand := (hc.weaken hLM).finish hr hd hsent result code fate
  rw [finishSlot_eq hr'] at hcommand
  refine hfinished.congr (fun k q hq hqd => ?_) (SameTags.testFree r.point _)
  rw [← pendingOf_testFree r.point]
  exact hcommand.pendingHeld k q (by simpa using hq) hqd

theorem TagLawBut.endAccepted {h : Nat} {r : Slot} (hr : s.slots.find h = some r) (ha : r.state = .accepted)
    (result : CommandResult) (code : Byte) (fate : TagFate) (hc : CommandLawBut L s)
    (hs : TagLawBut L B R s) : TagLawBut L B R (finishSlot h result code fate s) := by
  have hended := hs.finish (M := L) hr (by rw [ha]; exact fun h => by cases h) (fun _ hl => hl)
    (fun l hl hn => absurd hl hn) (hc.not_sentSlot hr (by rw [ha]; exact fun h => by cases h)) result code fate hc
  rwa [hc.dequeue_eq hr (by rw [ha]; exact fun h => by cases h)] at hended

theorem TagLawBut.endSent {M : LinkId → Prop} {h : Nat} {r : Slot} (hr : s.slots.find h = some r)
    (ha : r.state = .sent) (hLM : ∀ l, L l → M l) (hnew : ∀ l, M l → ¬ L l → (s.link l).sentSlot = some h)
    (hsent : ∀ l, ¬ M l → (s.link l).sentSlot ≠ some h) (result : CommandResult) (code : Byte)
    (fate : TagFate) (hc : CommandLawBut L s) (hs : TagLawBut L B R s) :
    TagLawBut M B R (finishSlot h result code fate s) := by
  have hended := hs.finish hr (by rw [ha]; exact fun h => by cases h) hLM hnew hsent result code fate hc
  rwa [hc.dequeue_eq hr (by rw [ha]; exact fun h => by cases h)] at hended

theorem TagLawBut.endWaiting {h : Nat} {r : Slot} (hr : s.slots.find h = some r) (hw : r.waits)
    (result : CommandResult) (code : Byte) (fate : TagFate) (hc : CommandLawBut L s)
    (hs : TagLawBut L B R s) : TagLawBut L B R (finishSlot h result code fate (dequeue h s)) := by
  refine hs.finish hr ?_ (fun _ hl => hl) (fun l hl hn => absurd hl hn) (hc.not_sentSlot hr ?_) result code
    fate hc <;>
    (rcases hw with hw | hw <;> rw [hw] <;> exact fun h => by cases h)

/-- A slot that is SENT or ACCEPTED is rewritten, and keeps its tag. -/
theorem TagLawBut.modifySlot {M : LinkId → Prop} {h : Nat} {r : Slot} {f : Slot → Slot}
    (hr : s.slots.find h = some r) (hstation : (f r).station = r.station) (hpoint : (f r).point = r.point)
    (htag : (f r).tag = r.tag) (hdone : r.state ≠ .done) (hLM : ∀ l, L l → M l)
    (hnew : ∀ l, M l → ¬ L l → (s.link l).sentSlot = some h)
    (hsent : (f r).state = .sent → ∃ l, ¬ M l ∧ (s.link l).sentSlot = some h)
    (hmark : ∀ k p, ¬ R k → s.points.find k = some p → p.state = .retiring → p.pendingCmd = some h →
      (f r).state = .sent ∧ (f r).abort.isSome = true)
    (hs : TagLawBut L B R s) : TagLawBut M B R (s.modifySlot h f) := by
  have hmodify (k : Nat) : (s.modifySlot h f).slots.find k =
      if k = h then some (f r) else s.slots.find k := by
    refine (Table.find_modify _ _ _ _).trans ?_
    rw [hr]
    rfl
  -- A slot after it: one before, of the same station, point and tag.
  have hback {k : Nat} {q' : Slot} (hq : (s.modifySlot h f).slots.find k = some q') :
      ∃ q, s.slots.find k = some q ∧ q'.station = q.station ∧ q'.point = q.point ∧ q'.tag = q.tag ∧
        (k ≠ h → q' = q) ∧ (k = h → q = r ∧ q' = f r) := by
    rw [hmodify] at hq
    split at hq
    · rename_i hk
      subst hk
      cases hq
      exact ⟨r, hr, hstation, hpoint, htag, fun hne => absurd rfl hne, fun _ => ⟨rfl, rfl⟩⟩
    · rename_i hk
      exact ⟨q', hq, rfl, rfl, rfl, fun _ => rfl, fun he => absurd he hk⟩
  have hforth {k : Nat} {q : Slot} (hq : s.slots.find k = some q) :
      ∃ q', (s.modifySlot h f).slots.find k = some q' ∧ q'.station = q.station ∧ q'.tag = q.tag := by
    rw [hmodify]
    split
    · rename_i hk
      subst hk
      rw [hr] at hq
      cases hq
      exact ⟨f r, rfl, hstation, htag⟩
    · exact ⟨q, hq, rfl, rfl⟩
  exact
    { capacity := hs.capacity
      free := hs.free
      tags := hs.tags
      canonical := hs.canonical
      held := fun sid g k => by
        refine (hs.held sid g k).trans ⟨?_, ?_⟩
        · rintro ⟨q, hq, hqs, hqg⟩
          obtain ⟨q', hq', hqs', hqg'⟩ := hforth hq
          exact ⟨q', hq', hqs'.trans hqs, hqg'.trans hqg⟩
        · rintro ⟨q', hq', hqs', hqg'⟩
          obtain ⟨q, hq, hqs, -, hqg, -⟩ := hback hq'
          exact ⟨q, hq, hqs.symm.trans hqs', hqg.symm.trans hqg'⟩
      exchange := fun l x hl hx => by
        obtain ⟨st, hst, hstl, hagrees⟩ := hs.exchange l x (fun hL => hl (hLM l hL)) hx
        refine ⟨st, hst, hstl, ?_⟩
        unfold Exchange.agrees at hagrees ⊢
        split at hagrees
        · exact hagrees
        · exact hagrees
        · obtain ⟨q, hq, hqs, hqg⟩ := hagrees
          obtain ⟨q', hq', hqs', hqg'⟩ := hforth hq
          exact ⟨q', hq', hqs'.trans hqs, hqg'.trans hqg⟩
      sent := fun k q' hq' hqs => by
        obtain ⟨q, hq, -, -, -, hother, hself⟩ := hback hq'
        by_cases hk : k = h
        · obtain ⟨-, rfl⟩ := hself hk
          exact hk ▸ hsent hqs
        · obtain ⟨l, hl, hkl⟩ := hs.sent k q hq (hother hk ▸ hqs)
          exact ⟨l, fun hM => hk (Option.some.inj (hkl.symm.trans (hnew l hM hl))), hkl⟩
      queue := fun l k q' hk hq' => by
        obtain ⟨q, hq, hqs, -⟩ := hback hq'
        rw [hqs]
        exact hs.queue l k q hk hq
      station := fun k q' hq' hqd => by
        obtain ⟨q, hq, hqs, hqp, -, hother, hself⟩ := hback hq'
        have hd : q.state ≠ .done := by
          by_cases hk : k = h
          · obtain ⟨rfl, -⟩ := hself hk
            exact hdone
          · exact hother hk ▸ hqd
        obtain ⟨st, p, hst, hp, hps, hpresent⟩ := hs.station k q hq hd
        rw [hqs, hqp]
        exact ⟨st, p, hst, hp, hps, hpresent⟩
      retiring := fun k p j hR hp hret hj => by
        obtain ⟨q, hq, hqs⟩ := hs.retiring k p j hR hp hret hj
        rw [hmodify]
        split
        · rename_i hjh
          subst hjh
          exact ⟨f r, rfl, hmark k p hR hp hret hj⟩
        · exact ⟨q, hq, hqs⟩ }

/-! ## Tags on their own -/

/-- R117: an abandoned tag is freed. -/
theorem TagLawBut.freeTag {sid tag : Nat} (htag : (s.tagSet sid).find tag = some .abandoned)
    (hc : PendingHeld s) (hs : TagLawBut L B R s) : TagLawBut L B R (freeTag sid tag s) := by
  have hset (k : Nat) := State.tagSet_setTagSet s sid k ((s.tagSet sid).drop tag)
  have hdropped : TagLawBut L B R (s.setTagSet sid ((s.tagSet sid).drop tag)) :=
    { hs with
      capacity := fun k st hB hst => by
        unfold State.tagsInUse
        rw [hset]
        split
        · rename_i hk
          subst hk
          exact (Table.size_drop_le _ _).trans (hs.capacity k st hB hst)
        · exact hs.capacity k st hB hst
      free := fun k hst => by
        rw [hset]
        split
        · rename_i hk
          subst hk
          have hheld := Table.mem_of_find htag
          rw [hs.free k hst] at hheld
          cases hheld
        · exact hs.free k hst
      tags := fun k g u hu => by
        rw [hset] at hu
        split at hu
        · rw [Table.find_drop] at hu
          split at hu
          · cases hu
          · exact hs.tags sid g u hu
        · exact hs.tags k g u hu
      canonical := fun k => by
        rw [hset]
        split
        · exact (hs.canonical sid).drop tag
        · exact hs.canonical k
      held := fun k g h => by
        rw [hset]
        refine Iff.trans ?_ (hs.held k g h)
        split
        · rename_i hk
          subst hk
          rw [Table.find_drop]
          split
          · rename_i hg
            subst hg
            rw [htag]
            exact ⟨fun hx => (by cases hx), fun hx => by cases hx⟩
          · exact Iff.rfl
        · exact Iff.rfl }
  unfold Machine.freeTag
  refine hdropped.congr hc ⟨by simp, by simp, by simp, fun l _ => ?_, fun k => by simp, fun k q hq => ?_,
    fun k q hq _ => ?_⟩
  · exact (linkStable_exchange (fun l => (s.link l).activity.exchange)).noticeFreedTag sid _
      (s := s.setTagSet sid _) (fun _ => rfl) l
  · exact ⟨q, by simpa using hq, rfl⟩
  · exact ⟨q, by simpa using hq, rfl⟩

/-- R121: a departure frees the tags of its station once no slot of it is left. -/
theorem TagLawBut.freeAllTags {sid : Nat} (hnone : ∀ h r, s.slots.find h = some r → r.station = sid →
      r.state = .done) (hl : s.slots.All (fun _ r => r.Lawful)) (hc : PendingHeld s)
    (hs : TagLawBut L (· = sid) R s) : TagLawBut L nowhere R (freeAllTags sid s) := by
  have hset (k : Nat) : (State.tagSet { s with tagSets := s.tagSets.drop sid } k) =
      if k = sid then ⟨[]⟩ else s.tagSet k := by
    show ((s.tagSets.drop sid).find k).getD ⟨[]⟩ = _
    rw [Table.find_drop]
    split <;> rfl
  have hdropped : TagLawBut L nowhere R { s with tagSets := s.tagSets.drop sid } :=
    { capacity := fun k st _ hst => by
        unfold State.tagsInUse
        rw [hset]
        split
        · exact Nat.zero_le _
        · exact hs.capacity k st ‹_› hst
      free := fun k hst => by
        rw [hset]
        split
        · rfl
        · exact hs.free k hst
      tags := fun k g u hu => by
        rw [hset] at hu
        split at hu
        · cases hu
        · exact hs.tags k g u hu
      canonical := fun k => by
        rw [hset]
        split
        · exact Table.canonical_empty
        · exact hs.canonical k
      held := fun k g h => by
        rw [hset]
        split
        · rename_i hk
          refine ⟨fun hx => (by cases hx), fun ⟨r, hr, hrs, hrg⟩ => ?_⟩
          exact absurd (hnone h r hr (hrs.trans hk)) ((hl h r hr).not_done_of_tag hrg)
        · exact hs.held k g h
      exchange := hs.exchange
      sent := hs.sent
      queue := hs.queue
      station := fun h r hr hd => by
        obtain ⟨st, p, hst, hp, hstation, hpresent⟩ := hs.station h r hr hd
        exact ⟨st, p, hst, hp, hstation, fun _ => hpresent (fun hB => hd (hnone h r hr hB))⟩
      retiring := hs.retiring }
  unfold Machine.freeAllTags
  refine hdropped.congr hc ⟨by simp, by simp, by simp, fun l _ => ?_, fun k => by simp, fun k q hq => ?_,
    fun k q hq _ => ?_⟩
  · exact (linkStable_exchange (fun l => (s.link l).activity.exchange)).noticeFreedTag sid _
      (s := { s with tagSets := s.tagSets.drop sid }) (fun _ => rfl) l
  · exact ⟨q, by simpa using hq, rfl⟩
  · exact ⟨q, by simpa using hq, rfl⟩

/-! ## A station departs -/

/-- R95, R98, R100: a station of a link that is left out takes another state. -/
theorem TagLawBut.depart {sid : Nat} {st : Station} {f : Station → Station}
    (hst : s.stations.find sid = some st) (hlink : (f st).link = st.link) (hL : L st.link)
    (hs : TagLawBut L nowhere R s) : TagLawBut L (· = sid) R (s.modifyStation sid f) := by
  have hfind (k : Nat) : (s.modifyStation sid f).stations.find k =
      if k = sid then some (f st) else s.stations.find k := by
    refine (Table.find_modify _ _ _ _).trans ?_
    rw [hst]
    rfl
  exact
    { capacity := fun k a hB ha => by
        rw [hfind, if_neg hB] at ha
        exact hs.capacity k a id ha
      free := fun k hk => by
        rw [hfind] at hk
        split at hk
        · cases hk
        · exact hs.free k hk
      tags := hs.tags
      canonical := hs.canonical
      held := hs.held
      exchange := fun l x hl hx => by
        obtain ⟨a, ha, hal, hagrees⟩ := hs.exchange l x hl hx
        refine ⟨a, ?_, hal, hagrees⟩
        rw [hfind, if_neg]
        · exact ha
        · intro hk
          rw [hk, hst] at ha
          cases ha
          exact hl (hal ▸ hL)
      sent := hs.sent
      queue := fun l h r hh hr => by
        obtain ⟨a, ha, hal⟩ := hs.queue l h r hh hr
        rw [hfind]
        split
        · rename_i hk
          rw [hk, hst] at ha
          cases ha
          exact ⟨_, rfl, hlink.trans hal⟩
        · exact ⟨a, ha, hal⟩
      station := fun h r hr hd => by
        obtain ⟨a, p, ha, hp, hstation, hpresent⟩ := hs.station h r hr hd
        rw [hfind]
        split
        · rename_i hk
          exact ⟨f st, p, rfl, hp, hstation, fun hB => absurd hk hB⟩
        · exact ⟨a, p, ha, hp, hstation, fun _ => hpresent id⟩
      retiring := hs.retiring }

/-- A change of a station that the law does not see. -/
theorem TagLawBut.modifyStation {sid : Nat} {f : Station → Station} (hf : ∀ st, s.stations.find sid = some st →
      (f st).duty = st.duty) (hc : PendingHeld s) (hs : TagLawBut L B R s) :
    TagLawBut L B R (s.modifyStation sid f) :=
  hs.congr hc ⟨rfl, rfl, rfl, fun _ _ => rfl, map_modify _ _ hf, fun _ q hq => ⟨q, hq, rfl⟩,
    fun _ q hq _ => ⟨q, hq, rfl⟩⟩

/-- R96: a station that is not PRESENT holds no tag and no slot, and may become PRESENT. -/
theorem TagLawBut.present {sid : Nat} {st : Station} {f : Station → Station}
    (hst : s.stations.find sid = some st) (hlink : (f st).link = st.link) (hL : L st.link)
    (hstate : st.state ≠ .present) (hcap : st.capacity = 0) (hs : TagLawBut L nowhere R s) :
    TagLawBut L nowhere R (s.modifyStation sid f) := by
  have hother {h : Nat} {r : Slot} (hr : s.slots.find h = some r) (hd : r.state ≠ .done) :
      r.station ≠ sid := by
    intro hk
    obtain ⟨a, p, ha, -, -, hpresent⟩ := hs.station h r hr hd
    rw [hk, hst] at ha
    cases ha
    exact hstate (hpresent id)
  have hdep := hs.depart hst hlink hL
  exact
    { hdep with
      capacity := fun k a _ ha => by
        by_cases hk : k = sid
        · subst hk
          have hzero := hs.capacity k st id hst
          rw [hcap] at hzero
          exact (Nat.le_zero.mp hzero).le.trans (Nat.zero_le _)
        · exact hdep.capacity k a hk ha
      station := fun h r hr hd => by
        obtain ⟨a, p, ha, hp, hstation, hpresent⟩ := hdep.station h r hr hd
        exact ⟨a, p, ha, hp, hstation, fun _ => hpresent (hother hr hd)⟩ }

/-- R102: a LEAVING station of a link that is left out is freed. -/
theorem TagLawBut.freeStation {sid : Nat} (hc : CommandLawBut L s)
    (hst : ∀ st, s.stations.find sid = some st → st.state = .leaving ∧ L st.link)
    (hs : TagLawBut L nowhere R s) : TagLawBut L nowhere R (freeStation sid s) := by
  have hset (k : Nat) : (Machine.freeStation sid s).tagSet k = if k = sid then ⟨[]⟩ else s.tagSet k := by
    show ((s.tagSets.drop sid).find k).getD ⟨[]⟩ = _
    rw [Table.find_drop]
    split <;> rfl
  have hfind (k : Nat) : (Machine.freeStation sid s).stations.find k =
      if k = sid then none else s.stations.find k := Table.find_drop _ _ _
  have hother {h : Nat} {r : Slot} (hr : s.slots.find h = some r) (hd : r.state ≠ .done) :
      r.station ≠ sid := by
    intro hk
    obtain ⟨a, p, ha, -, -, hpresent⟩ := hs.station h r hr hd
    rw [hk] at ha
    have hleave := (hst a ha).1
    rw [hpresent id] at hleave
    cases hleave
  exact
    { capacity := fun k a _ ha => by
        unfold State.tagsInUse
        rw [hset]
        rw [hfind] at ha
        split
        · exact Nat.zero_le _
        · rw [if_neg ‹_›] at ha
          exact hs.capacity k a id ha
      free := fun k hk => by
        rw [hset]
        rw [hfind] at hk
        split
        · rfl
        · rw [if_neg ‹_›] at hk
          exact hs.free k hk
      tags := fun k g u hu => by
        rw [hset] at hu
        split at hu
        · cases hu
        · exact hs.tags k g u hu
      canonical := fun k => by
        rw [hset]
        split
        · exact Table.canonical_empty
        · exact hs.canonical k
      held := fun k g h => by
        rw [hset]
        split
        · rename_i hk
          refine ⟨fun hx => (by cases hx), fun ⟨r, hr, hrs, hrg⟩ => ?_⟩
          exact absurd (hrs.trans hk) (hother hr ((hc.slots h r hr).not_done_of_tag hrg))
        · exact hs.held k g h
      exchange := fun l x hL hx => by
        obtain ⟨a, ha, hal, hagrees⟩ := hs.exchange l x hL hx
        refine ⟨a, ?_, hal, hagrees⟩
        rw [hfind, if_neg]
        · exact ha
        · intro hk
          exact hL (hal ▸ (hst a (hk ▸ ha)).2)
      sent := hs.sent
      queue := fun l h r hh hr => by
        obtain ⟨a, ha, hal⟩ := hs.queue l h r hh hr
        have hqueued : r.state ≠ .done := by
          obtain ⟨q, hq, hqs⟩ := (hc.queued h).mp ⟨l, hh⟩
          obtain rfl : r = q := Option.some.inj (Eq.trans hr.symm hq)
          rw [hqs]
          exact fun hx => by cases hx
        exact ⟨a, by rw [hfind, if_neg (hother hr hqueued)]; exact ha, hal⟩
      station := fun h r hr hd => by
        obtain ⟨a, p, ha, hp, hstation, hpresent⟩ := hs.station h r hr hd
        exact ⟨a, p, by rw [hfind, if_neg (hother hr hd)]; exact ha, hp, hstation, hpresent⟩
      retiring := hs.retiring }

end

end Sys2Proof.Machine
end


section
/-! Every step keeps the law of tags, exchanges and command queues (O60): the ends of exchanges, departures and
the other commands, on the laws of the tables, the directory and the command slots. -/

namespace Sys2Proof.Machine

/-! ## The four laws together -/

/-- The laws of the tables, the directory, the command slots and the tags, but for the exchanges of the links
`L`, the states of the stations `B`, and the marks of the commands of the points `R`. -/
structure FourLaws (L : LinkId → Prop) (B R : Nat → Prop) (s : State) : Prop where
  tables : FiveTables s
  directory : DirectoryLaw s
  commands : CommandLawBut L s
  tags : TagLawBut L B R s

section

variable {s t : State} {L : LinkId → Prop} {B R : Nat → Prop}

theorem TagLawBut.modifyLink {l : LinkId} {f : Link → Link} (hc : PendingHeld s)
    (hf : ¬ L l → (f (s.link l)).activity.exchange = (s.link l).activity.exchange) (hs : TagLawBut L B R s) :
    TagLawBut L B R (s.modifyLink l f) := by
  refine hs.congr hc ⟨rfl, rfl, rfl, fun m hm => ?_, fun _ => rfl, fun _ q hq => ⟨q, hq, rfl⟩,
    fun _ q hq _ => ⟨q, hq, rfl⟩⟩
  rw [State.link_modifyLink]
  split
  · rename_i hml
    subst hml
    exact hf hm
  · rfl

/-- Links without a COMMAND exchange are left out. -/
theorem TagLawBut.leaveOut (hL : ∀ l, L l → (s.link l).sentSlot = none) (hs : TagLawBut nowhere B R s) :
    TagLawBut L B R s :=
  { hs with
    exchange := fun l x _ => hs.exchange l x id
    sent := fun h r hr hk => by
      obtain ⟨l, -, hl⟩ := hs.sent h r hr hk
      refine ⟨l, fun hLl => ?_, hl⟩
      rw [hL l hLl] at hl
      cases hl }

/-- A link left out is taken in again once it has no exchange. -/
theorem TagLawBut.restore {l : LinkId} {f : Link → Link} (hf : (f (s.link l)).activity.exchange = none)
    (hs : TagLawBut (· = l) B R s) : TagLawBut nowhere B R (s.modifyLink l f) := by
  have hlink (m : LinkId) (hm : m ≠ l) : (s.modifyLink l f).link m = s.link m := by
    rw [State.link_modifyLink, if_neg hm]
  exact
    { hs with
      exchange := fun m x _ hx => by
        by_cases hm : m = l
        · subst hm
          rw [State.link_modifyLink_same, hf] at hx
          cases hx
        · exact hs.exchange m x hm (hlink m hm ▸ hx)
      sent := fun h r hr hk => by
        obtain ⟨m, hm, hsent⟩ := hs.sent h r hr hk
        exact ⟨m, id, (hlink m hm).symm ▸ hsent⟩ }

/-! ## The parts of a REPORT and of a departure -/

theorem FourLaws.reports : KeptByReports (FourLaws L B R) where
  flag := fun l f hs =>
    { tables := FiveTables.kept.parts.flag l f hs.tables
      directory := DirectoryLaw.kept.parts.flag l f hs.directory
      commands := CommandLawBut.parts.flag l f hs.commands
      tags := hs.tags.modifyLink hs.commands.pendingHeld (fun _ => rfl) }
  complete := fun result code hr ha hs =>
    { tables := FiveTables.kept.parts.complete result code hr ha hs.tables
      directory := DirectoryLaw.kept.parts.complete result code hr ha hs.directory
      commands := CommandLawBut.parts.complete result code hr ha hs.commands
      tags := hs.tags.endAccepted hr ha result code _ hs.commands }
  freeTag := fun sid tag htag hs =>
    { tables := hs.tables.freeTag sid tag
      directory := hs.directory.freeTag sid tag
      commands := hs.commands.freeTag sid tag
      tags := hs.tags.freeTag htag hs.commands.pendingHeld }
  point := fun hp hm hs =>
    { tables := FiveTables.kept.point hp hm hs.tables
      directory := DirectoryLaw.kept.point hp hm hs.directory
      commands := CommandLawBut.parts.point hp hm hs.commands
      tags := hs.tags.congr hs.commands.pendingHeld
        (SameTags.of_points rfl rfl rfl rfl rfl (map_put hp hm.duty)) }
  event := fun h e hs =>
    { tables := FiveTables.kept.event h e hs.tables
      directory := DirectoryLaw.kept.event h e hs.directory
      commands := CommandLawBut.parts.event h e hs.commands
      tags := hs.tags.congr hs.commands.pendingHeld
        (SameTags.of_eq (by simp) (by simp) (by simp) (by simp) (by simp) (by simp)) }

theorem FourLaws.endSlot {h : Nat} {r : Slot} (result : CommandResult) (hr : s.slots.find h = some r)
    (hw : r.waits) (hs : FourLaws L B R s) : FourLaws L B R (endSlot result s h) where
  tables := FiveTables.kept.parts.endSlot result hr hw hs.tables
  directory := DirectoryLaw.kept.parts.endSlot result hr hw hs.directory
  commands := CommandLawBut.parts.endSlot result hr hw hs.commands
  tags := hs.tags.endWaiting hr hw result 0 _ hs.commands

/-- R112: of the slots, a slot's end changes the one that ends. -/
theorem endSlot_waits {x k : Nat} {r : Slot} {result : CommandResult}
    (hr : (endSlot result s x).slots.find k = some r) (hw : r.waits) :
    k ≠ x ∧ s.slots.find k = some r := by
  by_cases hk : k = x
  · subst hk
    exfalso
    unfold Machine.endSlot at hr
    cases hx : (dequeue k s).slots.find k with
    | none =>
      rw [finishSlot_free hx, hx] at hr
      cases hr
    | some q =>
      rw [finishSlot_slots hx, Table.find_put_same] at hr
      cases hr
      rcases hw with hw | hw <;> cases hw
  · exact ⟨hk, (endSlot_find_ne hk result) ▸ hr⟩

theorem endSlots_waits {result : CommandResult} (xs : List Nat) : ∀ {s : State} {k : Nat} {r : Slot},
    (xs.foldl (endSlot result) s).slots.find k = some r → r.waits →
      k ∉ xs ∧ s.slots.find k = some r := by
  induction xs with
  | nil => exact fun hr _ => ⟨List.not_mem_nil, hr⟩
  | cons x xs ih =>
    intro s k r hr hw
    obtain ⟨hk, hr⟩ := ih hr hw
    obtain ⟨hkx, hr⟩ := endSlot_waits hr hw
    exact ⟨fun hm => (List.mem_cons.mp hm).elim hkx hk, hr⟩

/-- R121: a station of a link that is left out departs, and its commands end. -/
theorem FourLaws.departs {sid : Nat} {st : Station} {f : Station → Station} (result : CommandResult)
    (hst : s.stations.find sid = some st) (hm : st.Moves (f st)) (hL : L st.link)
    (hs : FourLaws L nowhere R s) :
    FourLaws L nowhere R (endStationCommands sid result (s.modifyStation sid f)) := by
  have hmoved : FourLaws L (· = sid) R (s.modifyStation sid f) :=
    { tables := FiveTables.kept.station hst hm hs.tables
      directory := DirectoryLaw.kept.station hst hm hs.directory
      commands := CommandLawBut.parts.station hst hm hs.commands
      tags := hs.tags.depart hst hm.link hL }
  have hst' : (s.modifyStation sid f).stations.find sid = some (f st) := by
    rw [State.modifyStation_stations, Table.find_modify_same, hst]
    rfl
  -- The station is still on its link once the waiting slots have ended.
  obtain ⟨hended, a, ha, hLa⟩ := endWaitingSlots_keeps
    (P := fun t => FourLaws L (· = sid) R t ∧ ∃ a, t.stations.find sid = some a ∧ L a.link)
    (fun result hr hw hp => ⟨hp.1.endSlot result hr hw, by
      obtain ⟨a, ha, hLa⟩ := hp.2
      obtain ⟨chain, hchain⟩ := finishSlot_station (s := dequeue _ _) _ result 0 .freed ha
      exact ⟨_, hchain, hLa⟩⟩) sid result ⟨hmoved, f st, hst', hm.link ▸ hL⟩
  refine
    { tables := hended.tables.freeAllTags sid
      directory := hended.directory.freeAllTags sid
      commands := hended.commands.freeAllTags sid
      tags := hended.tags.freeAllTags (fun h r hr hrs => ?_) hended.commands.slots hended.commands.pendingHeld }
  by_contra hd
  by_cases hw : r.waits
  · obtain ⟨hnot, hr'⟩ := endSlots_waits _ hr hw
    exact hnot (mem_waitingSlots.mpr ⟨hmoved.tables.slots.bounded.handles h r hr', r, hr', hrs, hw⟩)
  · have hsent : r.state = .sent := by
      unfold Slot.waits at hw
      cases hrstate : r.state <;> rw [hrstate] at hw hd <;> simp at hw hd ⊢
    obtain ⟨l, hl, hsl⟩ := hended.tags.sent h r hr hsent
    unfold Link.sentSlot at hsl
    split at hsl
    · cases hsl
    · rename_i x hx
      obtain ⟨b, hb, hbl, hagrees⟩ := hended.tags.exchange l x hl hx
      unfold Exchange.agrees at hagrees
      split at hsl
      · rename_i k g hk
        cases hsl
        rw [hk] at hagrees
        obtain ⟨q, hq, hqs, -⟩ := hagrees
        obtain rfl : q = r := Option.some.inj (hq.symm.trans hr)
        rw [← hqs, hrs, ha] at hb
        cases hb
        exact hl (hbl ▸ hLa)
      · cases hsl
      · cases hsl

/-- A change of a station that keeps its state and its capacity. -/
theorem FourLaws.modifyStation {sid : Nat} {st : Station} {f : Station → Station}
    (hst : s.stations.find sid = some st) (hm : st.Moves (f st)) (hduty : (f st).duty = st.duty)
    (hs : FourLaws L B R s) : FourLaws L B R (s.modifyStation sid f) where
  tables := FiveTables.kept.station hst hm hs.tables
  directory := DirectoryLaw.kept.station hst hm hs.directory
  commands := CommandLawBut.parts.station hst hm hs.commands
  tags := hs.tags.modifyStation (fun a ha => by
    obtain rfl : st = a := Option.some.inj (hst.symm.trans ha)
    exact hduty) hs.commands.pendingHeld

/-- R99, R100: a miss at a station of a link that is left out. -/
theorem FourLaws.miss {sid : Nat} {st : Station} (l : LinkId) (limit : BitVec 4)
    (hst : s.stations.find sid = some st) (hL : L st.link) (hs : FourLaws L nowhere R s) :
    FourLaws L nowhere R (countMiss sid l limit.toNat s) := by
  have hle : missAfter st.miss limit.toNat ≤ 15 :=
    (Nat.min_le_right _ _).trans (Nat.le_of_lt_succ limit.isLt)
  have hmiss : FourLaws L nowhere R
      (s.modifyStation sid (fun a => { a with miss := missAfter a.miss limit.toNat })) :=
    hs.modifyStation hst (Station.Moves.miss hle st) rfl
  have hst' : (s.modifyStation sid (fun a => { a with miss := missAfter a.miss limit.toNat })).stations.find
      sid = some { st with miss := missAfter st.miss limit.toNat } := by
    rw [State.modifyStation_stations, Table.find_modify_same, hst]
    rfl
  unfold countMiss
  rw [hst]
  dsimp only
  split
  · rename_i hj
    have hflag := FourLaws.reports.flag l .stationSilent hmiss
    have hst'' : (setLinkFlag l .stationSilent (s.modifyStation sid (fun a =>
        { a with miss := missAfter a.miss limit.toNat }))).stations.find sid =
          some { st with miss := missAfter st.miss limit.toNat } := hst'
    exact FourLaws.reports.agePoints sid .silent
      (hflag.departs (f := fun a => a.fallSilent .silent) .stationLost hst''
        (Station.Moves.fallSilent (st := { st with miss := missAfter st.miss limit.toNat }) hj.2 .silent) hL)
  · exact hmiss

/-- R96: a station that was not PRESENT answers. -/
theorem FourLaws.identified {sid : Nat} {st : Station} (l : LinkId) (typeCode : BitVec 16) (capacity : Nat)
    (hst : s.stations.find sid = some st) (hl : st.state ≠ .leaving) (hp : st.state ≠ .present)
    (hL : L st.link) (hs : FourLaws L nowhere R s) :
    FourLaws L nowhere R (identAnswer sid l typeCode capacity s) := by
  have hm := Station.Moves.identified hl typeCode capacity
  rw [identAnswer_eq]
  refine FourLaws.reports.flag _ _
    { tables := FiveTables.kept.station hst hm hs.tables
      directory := DirectoryLaw.kept.station hst hm hs.directory
      commands := CommandLawBut.parts.station hst hm hs.commands
      tags := hs.tags.present hst hm.link hL hp ((hs.directory.stations sid st hst).absent hp) }

theorem FourLaws.outcome {sid : Nat} {st : Station} (l : LinkId) (limit : BitVec 4) (o : ExchangeOutcome)
    (hst : s.stations.find sid = some st) (hl : st.state ≠ .leaving)
    (hident : ∀ typeCode capacity, o = .answered (.ident typeCode capacity) → st.state ≠ .present)
    (hL : L st.link) (hs : FourLaws L nowhere R s) :
    FourLaws L nowhere R (applyOutcome sid l limit.toNat o s) := by
  have hclear : FourLaws L nowhere R (clearMiss sid s) :=
    hs.modifyStation hst (Station.Moves.miss (Nat.zero_le _) st) rfl
  cases o with
  | answered r =>
    cases r with
    | report restarted es cs =>
      show FourLaws L nowhere R (if restarted then restartDeparture sid s
        else takeCompletions sid l cs (takeEntries sid es (clearMiss sid s)))
      split
      · exact hs.departs .stationRestarted hst (Station.Moves.restart hl) hL
      · exact FourLaws.reports.completions _ _ _ (FourLaws.reports.entries _ _ hclear)
    | ident typeCode capacity => exact hs.identified l typeCode capacity hst hl (hident _ _ rfl) hL
    | ack code => exact hclear
  | silent => exact hs.miss l limit hst hL
  | damaged f => exact hs.miss l limit hst hL

/-! ## The slot of an exchange that ends -/

theorem sentSlot_of_identReq {k : Link} {x : Exchange} (hx : k.activity.exchange = some x)
    (hk : x.kind = .identReq) : k.sentSlot = none := by
  unfold Link.sentSlot
  rw [hx]
  dsimp only
  rw [hk]

theorem sentSlot_of_poll {k : Link} {x : Exchange} (hx : k.activity.exchange = some x)
    (hk : x.kind = .poll) : k.sentSlot = none := by
  unfold Link.sentSlot
  rw [hx]
  dsimp only
  rw [hk]

/-- R115, R118: the answer to the COMMAND exchange of a link, left out from now on. -/
theorem TagLawBut.commandAnswer {l : LinkId} {h : Nat} {r : Slot} (o : ExchangeOutcome)
    (hr : s.slots.find h = some r) (ha : r.state = .sent) (hl : (s.link l).sentSlot = some h)
    (hother : ∀ m, ¬ m = l → (s.link m).sentSlot ≠ some h) (hc : CommandLawBut nowhere s)
    (hs : TagLawBut nowhere B nowhere s) : TagLawBut (· = l) B nowhere (commandAnswer h o s) := by
  have hnew (m : LinkId) (hm : m = l) (_ : ¬ nowhere m) : (s.link m).sentSlot = some h := hm ▸ hl
  have hend (result : CommandResult) (code : Byte) (fate : TagFate) :=
    hs.endSent (M := (· = l)) hr ha (fun _ hf => hf.elim) hnew hother result code fate hc
  unfold Machine.commandAnswer
  rw [hr]
  dsimp only
  split
  · rename_i code _ habort
    split
    · refine hs.modifySlot hr rfl rfl rfl (by rw [ha]; exact fun hx => by cases hx) (fun _ hf => hf.elim) hnew
        (fun hx => by cases hx) (fun k p hR hp hret hk => ?_)
      obtain ⟨q, hq, -, hqa⟩ := hs.retiring k p h hR hp hret hk
      rw [hr] at hq
      cases hq
      rw [habort] at hqa
      cases hqa
    · exact hend _ _ _
  · split
    · exact hend _ _ _
    · exact hend _ _ _
  · exact hend _ _ _
  · exact hend _ _ _

/-- R95: the slot of the exchange in flight on a link takes its result. -/
theorem FourLaws.slotOutcome {l : LinkId} {x : Exchange} (o : ExchangeOutcome)
    (hx : (s.link l).activity.exchange = some x) (hs : FourLaws nowhere nowhere nowhere s) :
    FourLaws (· = l) nowhere nowhere (slotOutcome x.kind o s) where
  tables := FiveTables.kept.slotOutcome _ o hs.tables
  directory := DirectoryLaw.kept.slotOutcome _ o hs.directory
  commands := hs.commands.slotOutcome o hx
  tags := by
    cases hk : x.kind with
    | poll => exact hs.tags.leaveOut (fun m hm => hm ▸ sentSlot_of_poll hx hk)
    | identReq => exact hs.tags.leaveOut (fun m hm => hm ▸ sentSlot_of_identReq hx hk)
    | command h g =>
      have hl := Link.sentSlot_of_command hx hk
      obtain ⟨r, hr, ha⟩ := hs.commands.sent l h id hl
      exact hs.tags.commandAnswer o hr ha hl
        (fun m hm hsent => hm (hs.commands.sentOnce m l h id id hsent hl)) hs.commands

theorem FourLaws.restore {l : LinkId} {f : Link → Link} (hf : (f (s.link l)).activity.exchange = none)
    (hround : (f (s.link l)).roundPos = (s.link l).roundPos ∨
      ∀ h, (f (s.link l)).roundPos = some h → h ∈ s.pollList l)
    (hs : FourLaws (· = l) nowhere nowhere s) : FourLaws nowhere nowhere nowhere (s.modifyLink l f) where
  tables := hs.tables.congr rfl rfl rfl rfl rfl
  directory := hs.directory.modifyLink hround
  commands := commandLaw_iff.mp (hs.commands.restore hf)
  tags := hs.tags.restore hf

theorem FourLaws.takeIn {l : LinkId} (hnone : (s.link l).activity.exchange = none)
    (hs : FourLaws (· = l) nowhere nowhere s) : FourLaws nowhere nowhere nowhere s := by
  have hsame : s.modifyLink l id = s := by
    have hlinks : s.links.modify l id = s.links := Quad.ext_get fun m => by
      rw [Quad.get_modify]
      split
      · rename_i hm
        rw [hm]
        rfl
      · rfl
    unfold State.modifyLink
    rw [hlinks]
  exact hsame ▸ hs.restore (f := id) hnone (.inl rfl)

theorem FourLaws.core (hc : s.SameCore t) (hs : FourLaws L B R s) : FourLaws L B R t where
  tables := FiveTables.kept.core hc hs.tables
  directory := DirectoryLaw.kept.core hc hs.directory
  commands := hs.commands.congr
    (SameCommands.of_eq hc.points hc.slots hc.cmdQueues hc.doneLists hc.links)
  tags := hs.tags.congr hs.commands.pendingHeld
    (SameTags.of_eq hc.stations hc.tagSets hc.slots hc.cmdQueues hc.links hc.points)

/-- R95: at the end of an exchange, its link is left out until the link is in QUIET. -/
theorem FourLaws.ends {l : LinkId} {x : Exchange} {o : ExchangeOutcome} (hfits : o.Fits x.kind)
    (hx : (s.link l).activity.exchange = some x) (hs : FourLaws nowhere nowhere nowhere s) :
    FourLaws nowhere nowhere nowhere (endExchange l x o s) := by
  have hflag := FourLaws.reports.receiveFlag l o hs
  have hx' := (receiveFlag_exchange l o s l).trans hx
  obtain ⟨st, hst, hlink, hagrees⟩ := hflag.tags.exchange l x id hx'
  have hout : FourLaws (· = l) nowhere nowhere (stationOutcome l x o (receiveFlag l o s)) := by
    unfold stationOutcome
    rw [hst]
    dsimp only
    split
    · rename_i hleave
      have hplain : ((receiveFlag l o s).link l).sentSlot = none := by
        cases hk : x.kind with
        | poll => exact sentSlot_of_poll hx' hk
        | identReq => exact sentSlot_of_identReq hx' hk
        | command h g =>
          rw [Exchange.agrees, hk] at hagrees
          obtain ⟨r, hr, hrs, hrg⟩ := hagrees
          obtain ⟨a, -, ha, -, -, hpresent⟩ := hflag.tags.station h r hr
            ((hflag.commands.slots h r hr).not_done_of_tag hrg)
          rw [hrs, hst] at ha
          cases ha
          have hpres := hpresent id
          rw [hleave] at hpres
          cases hpres
      have hcommands : CommandLawBut (· = l) (receiveFlag l o s) :=
        hflag.commands.weaken (fun _ hf => hf.elim)
      exact
        { tables := hflag.tables.freeStation _
          directory := DirectoryLaw.kept.leave hst hleave hflag.directory
          commands := CommandLawBut.parts.leave hst hleave hcommands
          tags := (hflag.tags.leaveOut (fun m hm => hm ▸ hplain)).freeStation hcommands (fun a ha => by
            obtain rfl : st = a := Option.some.inj (hst.symm.trans ha)
            exact ⟨hleave, hlink⟩) }
    · rename_i hleave
      obtain ⟨chain, hchain⟩ := slotOutcome_station x.kind o hst
      refine (hflag.slotOutcome o hx').outcome l x.missLimit o hchain hleave (fun typeCode capacity ho => ?_) hlink
      obtain ⟨bs, hbs⟩ := hfits _ ho
      have hk : x.kind = .identReq := by
        cases hk : x.kind <;> rw [hk] at hbs <;> first | rfl | cases hbs
      rw [Exchange.agrees, hk] at hagrees
      exact hagrees
  have hquiet := hout.restore (f := fun k => { k with activity := .quiet (Config.quietPeriods x.divisor) })
    rfl (.inl rfl)
  exact hquiet.core (State.SameCore.of_settle _)

/-! ## Link disable -/

theorem FourLaws.linkOff {sid : Nat} {l : LinkId} (hm : sid ∈ s.pollList l)
    (hs : FourLaws (· = l) nowhere nowhere s) : FourLaws (· = l) nowhere nowhere (stationLinkOff s sid) := by
  unfold stationLinkOff
  split
  · exact hs
  · rename_i st hst
    split
    · rename_i hj
      obtain ⟨a, ha, hlink, -⟩ := (hs.directory.pollList l sid).mp hm
      obtain rfl : st = a := Option.some.inj (hst.symm.trans ha)
      exact FourLaws.reports.agePoints sid .linkOff (hs.departs (f := fun a => a.fallSilent .linkOff) .linkDown
        hst (Station.Moves.fallSilent hj .linkOff) hlink)
    · exact hs

/-- R101: a COMMAND exchange that is cut ends its slot. -/
theorem FourLaws.cut (l : LinkId) (hs : FourLaws nowhere nowhere nowhere s) :
    FourLaws (· = l) nowhere nowhere (cutCommand (s.link l) s) := by
  have hcommands : CommandLawBut (· = l) s := hs.commands.weaken (fun _ hf => hf.elim)
  have hplain (hnone : (s.link l).sentSlot = none) : FourLaws (· = l) nowhere nowhere s :=
    { hs with
      commands := hcommands
      tags := hs.tags.leaveOut (fun m hm => hm ▸ hnone) }
  unfold cutCommand
  split
  · exact hplain (Link.sentSlot_of_none ‹_›)
  · rename_i x hx
    split
    · rename_i h g hk
      have hl := Link.sentSlot_of_command hx hk
      obtain ⟨r, hr, ha⟩ := hs.commands.sent l h id hl
      have hother (m : LinkId) (hm : ¬ m = l) : (s.link m).sentSlot ≠ some h :=
        fun hsent => hm (hs.commands.sentOnce m l h id id hsent hl)
      exact
        { tables := hs.tables.finishSlot _ _ _ _
          directory := hs.directory.finishSlot _ _ _ _
          commands := hcommands.endSent hr ha hother _ _ _
          tags := hs.tags.endSent hr ha (fun _ hf => hf.elim) (fun m (hm : m = l) _ => hm ▸ hl) hother
            _ _ _ hs.commands }
    · exact hplain (sentSlot_of_poll hx ‹_›)
    · exact hplain (sentSlot_of_identReq hx ‹_›)

theorem stationsOff_pollList (xs : List Nat) (s : State) (l : LinkId) :
    (xs.foldl stationLinkOff s).pollList l = s.pollList l :=
  foldl_keeps (fun s => s.pollList l) stationLinkOff (fun s sid => by simp [State.pollList]) xs s

theorem FourLaws.stationsOff {l : LinkId} (xs : List Nat) : ∀ {s : State}, (∀ x ∈ xs, x ∈ s.pollList l) →
    FourLaws (· = l) nowhere nowhere s → FourLaws (· = l) nowhere nowhere (xs.foldl stationLinkOff s) := by
  induction xs with
  | nil => exact fun _ hs => hs
  | cons x xs ih =>
    intro s hm hs
    refine ih (fun y hy => ?_) (hs.linkOff (hm x List.mem_cons_self))
    have hlist : (stationLinkOff s x).pollList l = s.pollList l := stationsOff_pollList [x] s l
    rw [hlist]
    exact hm y (List.mem_cons_of_mem _ hy)

theorem FourLaws.freeStations {l : LinkId} (xs : List Nat) : ∀ {s : State},
    (∀ x ∈ xs, ∀ st, s.stations.find x = some st → st.state = .leaving ∧ st.link = l) →
      FourLaws (· = l) nowhere nowhere s →
        FourLaws (· = l) nowhere nowhere (xs.foldl (fun s sid => freeStation sid s) s) := by
  induction xs with
  | nil => exact fun _ hs => hs
  | cons x xs ih =>
    intro s hm hs
    have hx := hm x List.mem_cons_self
    refine ih (fun y hy st hst => ?_)
      { tables := hs.tables.freeStation x
        directory := hs.directory.freeStation (fun st hst => (hx st hst).1)
        commands := hs.commands.congr (SameCommands.of_eq rfl rfl rfl rfl rfl)
        tags := hs.tags.freeStation hs.commands hx }
    have hst' : (s.stations.drop x).find y = some st := hst
    rw [Table.find_drop] at hst'
    split at hst'
    · cases hst'
    · exact hm y (List.mem_cons_of_mem _ hy) st hst'

theorem linkOff_exchange (xs : List Nat) (s : State) (l : LinkId) :
    ((xs.foldl stationLinkOff s).link l).activity.exchange = (s.link l).activity.exchange :=
  foldl_invariant (LinksSatisfy (fun m k => k.activity.exchange = (s.link m).activity.exchange)) _
    (fun _ sid hp => (linkStable_exchange _).parts.linkOff sid hp) xs s (fun _ => rfl) l

/-- R101, R102: at the disable of a link, the link is left out until its stations are off. -/
theorem FourLaws.disable (l : LinkId) (hs : FourLaws nowhere nowhere nowhere s) :
    FourLaws nowhere nowhere nowhere (disableLink l s) := by
  unfold disableLink
  dsimp only
  split
  · exact hs
  have hcut : FourLaws (· = l) nowhere nowhere ((cutCommand (s.link l) s).modifyLink l Link.disable) := by
    have hc := hs.cut l
    exact
      { tables := hc.tables.congr rfl rfl rfl rfl rfl
        directory := hc.directory.modifyLink (.inr fun k hk => by cases hk)
        commands := hc.commands.congr ⟨rfl, rfl, rfl, fun m hm => by
          rw [State.link_modifyLink, if_neg hm], fun _ => rfl⟩
        tags := hc.tags.modifyLink hc.commands.pendingHeld (fun hl => absurd rfl hl) }
  have hoff := hcut.stationsOff (((cutCommand (s.link l) s).modifyLink l Link.disable).pollList l)
    (fun _ hx => hx)
  have hgone := hoff.freeStations (leavingStations l _) (fun x hx st hst => by
    obtain ⟨a, ha, hlink, hleave⟩ := hoff.directory.mem_leavingStations.mp hx
    obtain rfl : st = a := Option.some.inj (hst.symm.trans ha)
    exact ⟨hleave, hlink⟩)
  refine (hgone.takeIn ?_).core (State.SameCore.of_settle _)
  show ((State.link _ l)).activity.exchange = none
  rw [freeStations_keeps (fun s => s.link l) (fun _ _ => rfl), linkOff_exchange, State.link_modifyLink_same]
  rfl

end

end Sys2Proof.Machine
end


section
/-! Every step keeps the law of tags, exchanges and command queues (O60): the requests, the starts of
exchanges and
the resets; and the four laws together. -/

namespace Sys2Proof.Machine

/-! ## Laws together -/

/-- Two laws that are kept are kept together. -/
theorem KeptByCore.and {P Q : State → Prop} (hP : KeptByCore P) (hQ : KeptByCore Q) :
    KeptByCore (fun s => P s ∧ Q s) where
  core := fun h hs => ⟨hP.core h hs.1, hQ.core h hs.2⟩
  link := fun h hs => ⟨hP.link h hs.1, hQ.link h hs.2⟩
  phase := fun h hs => ⟨hP.phase h hs.1, hQ.phase h hs.2⟩
  point := fun h1 h2 hs => ⟨hP.point h1 h2 hs.1, hQ.point h1 h2 hs.2⟩
  event := fun h e hs => ⟨hP.event h e hs.1, hQ.event h e hs.2⟩
  softReset := fun hs => ⟨hP.softReset hs.1, hQ.softReset hs.2⟩
  hardwareReset := fun hs => ⟨hP.hardwareReset hs.1, hQ.hardwareReset hs.2⟩
  addStation := fun h1 h2 h3 h4 h5 h6 hs =>
    ⟨hP.addStation h1 h2 h3 h4 h5 h6 hs.1, hQ.addStation h1 h2 h3 h4 h5 h6 hs.2⟩
  removeStation := fun h1 h2 h3 hs => ⟨hP.removeStation h1 h2 h3 hs.1, hQ.removeStation h1 h2 h3 hs.2⟩
  createPoint := fun key deadband period h1 h2 h3 h4 h5 hs =>
    ⟨hP.createPoint key deadband period h1 h2 h3 h4 h5 hs.1,
      hQ.createPoint key deadband period h1 h2 h3 h4 h5 hs.2⟩
  retirePoint := fun h1 h2 hs => ⟨hP.retirePoint h1 h2 hs.1, hQ.retirePoint h1 h2 hs.2⟩
  bind := fun c key address trigger h1 h2 h3 h4 hs =>
    ⟨hP.bind c key address trigger h1 h2 h3 h4 hs.1, hQ.bind c key address trigger h1 h2 h3 h4 hs.2⟩
  detach := fun h1 h2 h3 hs => ⟨hP.detach h1 h2 h3 hs.1, hQ.detach h1 h2 h3 hs.2⟩
  unbind := fun h1 h2 h3 hs => ⟨hP.unbind h1 h2 h3 hs.1, hQ.unbind h1 h2 h3 hs.2⟩
  resume := fun h1 h2 hs => ⟨hP.resume h1 h2 hs.1, hQ.resume h1 h2 hs.2⟩
  sendCommand := fun c hostTag value h1 h2 h3 h4 h5 h6 h7 hs =>
    ⟨hP.sendCommand c hostTag value h1 h2 h3 h4 h5 h6 h7 hs.1,
      hQ.sendCommand c hostTag value h1 h2 h3 h4 h5 h6 h7 hs.2⟩
  endQueued := fun result h1 h2 hs => ⟨hP.endQueued result h1 h2 hs.1, hQ.endQueued result h1 h2 hs.2⟩
  endAccepted := fun result h1 h2 hs => ⟨hP.endAccepted result h1 h2 hs.1, hQ.endAccepted result h1 h2 hs.2⟩
  mark := fun a h1 h2 hs => ⟨hP.mark a h1 h2 hs.1, hQ.mark a h1 h2 hs.2⟩
  collect := fun h1 h2 hs => ⟨hP.collect h1 h2 hs.1, hQ.collect h1 h2 hs.2⟩
  enable := fun l hs => ⟨hP.enable l hs.1, hQ.enable l hs.2⟩
  disable := fun l hs => ⟨hP.disable l hs.1, hQ.disable l hs.2⟩
  visit := fun h1 h2 h3 hs => ⟨hP.visit h1 h2 h3 hs.1, hQ.visit h1 h2 h3 hs.2⟩
  command := fun h1 h2 hs => ⟨hP.command h1 h2 hs.1, hQ.command h1 h2 hs.2⟩
  ends := fun h1 h2 hs => ⟨hP.ends h1 h2 hs.1, hQ.ends h1 h2 hs.2⟩
  mirrorStart := fun hs => ⟨hP.mirrorStart hs.1, hQ.mirrorStart hs.2⟩
  messageStart := fun hs => ⟨hP.messageStart hs.1, hQ.messageStart hs.2⟩
  endTransaction := fun e h hs => ⟨hP.endTransaction e h hs.1, hQ.endTransaction e h hs.2⟩

/-- The laws of the tables, the directory and the command slots. -/
def ThreeLaws (s : State) : Prop := FiveTables s ∧ DirectoryLaw s ∧ CommandLaw s

theorem ThreeLaws.kept : KeptByCore ThreeLaws :=
  FiveTables.kept.keptByCore.and (DirectoryLaw.kept.keptByCore.and CommandLaw.kept)

/-- The four laws, with nothing left out. -/
abbrev AllFour (s : State) : Prop := FourLaws nowhere nowhere nowhere s

section

variable {s t : State} {L : LinkId → Prop} {B R : Nat → Prop}

theorem FourLaws.three (hs : AllFour s) : ThreeLaws s :=
  ⟨hs.tables, hs.directory, commandLaw_iff.mpr hs.commands⟩

theorem ThreeLaws.with_tags (h : ThreeLaws s) (ht : TagLawBut nowhere nowhere nowhere s) : AllFour s :=
  ⟨h.1, h.2.1, commandLaw_iff.mp h.2.2, ht⟩

/-! ## Stations -/

/-- R6: a new station has no tag in use. -/
theorem TagLawBut.addStation {h : Nat} {st : Station} (hfree : s.stations.find h = none)
    (hst : t.stations = s.stations.put h st) (htags : t.tagSets = s.tagSets) (hslots : t.slots = s.slots)
    (hqueues : t.cmdQueues = s.cmdQueues) (hpoints : t.points = s.points)
    (hlink : ∀ l, (t.link l).activity.exchange = (s.link l).activity.exchange)
    (hs : TagLawBut L B R s) : TagLawBut L B R t := by
  have hput (k : Nat) := Table.find_put s.stations h k st
  have hset (k : Nat) : t.tagSet k = s.tagSet k := State.tagSet_congr htags k
  have hkept {k : Nat} {a : Station} (ha : s.stations.find k = some a) : t.stations.find k = some a := by
    rw [hst, hput, if_neg]
    · exact ha
    · rintro rfl
      rw [hfree] at ha
      cases ha
  exact
    { capacity := fun k a hB ha => by
        unfold State.tagsInUse
        rw [hset]
        rw [hst, hput] at ha
        split at ha
        · rename_i hk
          rw [hk, Table.size, hs.free h hfree]
          exact Nat.zero_le _
        · exact hs.capacity k a hB ha
      free := fun k hk => by
        rw [hset]
        rw [hst, hput] at hk
        split at hk
        · cases hk
        · exact hs.free k hk
      tags := fun k => hset k ▸ hs.tags k
      canonical := fun k => hset k ▸ hs.canonical k
      held := fun k g j => by
        rw [hset, hslots]
        exact hs.held k g j
      exchange := fun l x hl hx => by
        obtain ⟨a, ha, hal, hagrees⟩ := hs.exchange l x hl (hlink l ▸ hx)
        refine ⟨a, hkept ha, hal, ?_⟩
        unfold Exchange.agrees at hagrees ⊢
        rw [hslots]
        exact hagrees
      sent := fun k r hr hk => by
        obtain ⟨l, hl, hsent⟩ := hs.sent k r (hslots ▸ hr) hk
        exact ⟨l, hl, (Link.sentSlot_congr (hlink l)).trans hsent⟩
      queue := fun l k r hk hr => by
        have hqueue : t.cmdQueue l = s.cmdQueue l := by unfold State.cmdQueue; rw [hqueues]
        obtain ⟨a, ha, hal⟩ := hs.queue l k r (hqueue ▸ hk) (hslots ▸ hr)
        exact ⟨a, hkept ha, hal⟩
      station := fun k r hr hd => by
        obtain ⟨a, p, ha, hp, hstation⟩ := hs.station k r (hslots ▸ hr) hd
        exact ⟨a, p, hkept ha, hpoints ▸ hp, hstation⟩
      retiring := fun k p j hR hp => by
        rw [hslots]
        exact hs.retiring k p j hR (hpoints ▸ hp) }

theorem appendedWhileIdle_exchange (l : LinkId) (h : Nat) (s : State) (m : LinkId) :
    ((appendedWhileIdle l h s).link m).activity.exchange = (s.link m).activity.exchange := by
  unfold appendedWhileIdle
  split
  · rename_i hidle
    unfold decisionPoint
    rw [State.link_modifyLink]
    split
    · rename_i hm
      rw [decideLink_exchange, hm, hidle]
      rfl
    · rename_i hm
      rw [State.link_modifyLink, if_neg hm]
  · rfl

/-- R7: a station without points has no slot that is not DONE. -/
theorem FourLaws.station_ne {h : Nat} {st : Station} (hst : s.stations.find h = some st)
    (hchain : st.chain = [])
    (hs : FourLaws L B R s) {k : Nat} {r : Slot} (hr : s.slots.find k = some r) (hd : r.state ≠ .done) :
    r.station ≠ h := by
  intro hk
  obtain ⟨a, p, -, hp, hstation, -⟩ := hs.tags.station k r hr hd
  obtain ⟨b, hb, hmem⟩ := hs.directory.inChain r.point p hp
  rw [hstation, hk, hst] at hb
  cases hb
  rw [hchain] at hmem
  cases hmem

/-- R7: the record of a station without points is gone, or LEAVING while an exchange with it is in flight. -/
theorem TagLawBut.removed {h : Nat} {st : Station} (hst : s.stations.find h = some st)
    (hlaw : s.slots.All (fun _ r => r.Lawful))
    (hnone : ∀ k r, s.slots.find k = some r → r.state ≠ .done → r.station ≠ h)
    (hother : ∀ k, k ≠ h → t.stations.find k = s.stations.find k)
    (hself : ∀ a, t.stations.find h = some a → a.link = st.link ∧ a.state = .leaving)
    (hgone : t.stations.find h = none →
      ∀ x, (s.link st.link).activity.exchange = some x → x.station ≠ h)
    (htags : t.tagSets = s.tagSets.drop h) (hslots : t.slots = s.slots) (hqueues : t.cmdQueues = s.cmdQueues)
    (hpoints : t.points = s.points)
    (hlink : ∀ l, (t.link l).activity.exchange = (s.link l).activity.exchange)
    (hqueued : ∀ l k, k ∈ s.cmdQueue l → ∃ r, s.slots.find k = some r ∧ r.state = .queued)
    (hs : TagLawBut nowhere nowhere R s) : TagLawBut nowhere nowhere R t := by
  have hset (k : Nat) : t.tagSet k = if k = h then ⟨[]⟩ else s.tagSet k := by
    unfold State.tagSet
    rw [htags, Table.find_drop]
    split <;> rfl
  exact
    { capacity := fun k a _ ha => by
        unfold State.tagsInUse
        rw [hset]
        split
        · exact Nat.zero_le _
        · rename_i hk
          exact hs.capacity k a id (hother k hk ▸ ha)
      free := fun k hk => by
        rw [hset]
        split
        · rfl
        · rename_i hkh
          exact hs.free k (hother k hkh ▸ hk)
      tags := fun k g u hu => by
        rw [hset] at hu
        split at hu
        · cases hu
        · exact hs.tags k g u hu
      canonical := fun k => by
        rw [hset]
        split
        · exact Table.canonical_empty
        · exact hs.canonical k
      held := fun k g j => by
        rw [hset, hslots]
        split
        · rename_i hk
          refine ⟨fun hx => (by cases hx), fun ⟨r, hr, hrs, hrg⟩ => ?_⟩
          exact absurd (hrs.trans hk) (hnone j r hr ((hlaw j r hr).not_done_of_tag hrg))
        · exact hs.held k g j
      exchange := fun l x _ hx => by
        rw [hlink] at hx
        obtain ⟨a, ha, hal, hagrees⟩ := hs.exchange l x id hx
        by_cases hxh : x.station = h
        · rw [hxh, hst] at ha
          cases ha
          cases hfind : t.stations.find h with
          | none => exact absurd hxh (hgone hfind x (hal.symm ▸ hx))
          | some b =>
            obtain ⟨hbl, hbs⟩ := hself b hfind
            refine ⟨b, hxh.symm ▸ hfind, hbl.trans hal, ?_⟩
            unfold Exchange.agrees at hagrees ⊢
            rw [hslots]
            split at hagrees
            · exact .inr hbs
            · rw [hbs]
              exact fun hx => by cases hx
            · exact hagrees
        · refine ⟨a, (hother _ hxh).trans ha, hal, ?_⟩
          unfold Exchange.agrees at hagrees ⊢
          rw [hslots]
          exact hagrees
      sent := fun k r hr hk => by
        obtain ⟨l, hl, hsent⟩ := hs.sent k r (hslots ▸ hr) hk
        exact ⟨l, hl, (Link.sentSlot_congr (hlink l)).trans hsent⟩
      queue := fun l k r hk hr => by
        have hqueue : t.cmdQueue l = s.cmdQueue l := by unfold State.cmdQueue; rw [hqueues]
        rw [hqueue] at hk
        rw [hslots] at hr
        obtain ⟨a, ha, hal⟩ := hs.queue l k r hk hr
        obtain ⟨q, hq, hqs⟩ := hqueued l k hk
        obtain rfl : r = q := Option.some.inj (hr.symm.trans hq)
        exact ⟨a, (hother _ (hnone k r hr (by rw [hqs]; exact fun hx => by cases hx))).trans ha, hal⟩
      station := fun k r hr hd => by
        rw [hslots] at hr
        obtain ⟨a, p, ha, hp, hstation⟩ := hs.station k r hr hd
        exact ⟨a, p, (hother _ (hnone k r hr hd)).trans ha, hpoints ▸ hp, hstation⟩
      retiring := fun k p j hR hp => by
        rw [hslots]
        exact hs.retiring k p j hR (hpoints ▸ hp) }

theorem Link.forget_exchange (k : Link) (xs : List Nat) (h : Nat) :
    (k.forget xs h).activity.exchange = k.activity.exchange := by
  rw [Link.forget_eq]

theorem inFlightWith_eq_false {k : Link} {h : Nat} (hk : k.inFlightWith h = false) {x : Exchange}
    (hx : k.activity.exchange = some x) : x.station ≠ h := by
  unfold Link.inFlightWith at hk
  rw [hx] at hk
  exact fun he => by simp [he] at hk

theorem FourLaws.remove {h : Nat} {st : Station} (hst : s.stations.find h = some st) (hl : st.state ≠ .leaving)
    (hchain : st.chain = []) (hs : AllFour s) : AllFour (removeRecord h st s) := by
  refine (ThreeLaws.kept.removeStation hst hl hchain hs.three).with_tags ?_
  have hlinks (m : LinkId) : ((leavePollList h st.link (freeAllTags h s)).link m).activity.exchange =
      (s.link m).activity.exchange := by
    have hfreed := (linkStable_exchange (fun l => (s.link l).activity.exchange)).freeAllTags h (s := s)
      (fun _ => rfl) m
    refine Eq.trans ?_ hfreed
    show (((freeAllTags h s).modifyLink st.link _).link m).activity.exchange = _
    rw [State.link_modifyLink]
    split
    · rename_i hm
      rw [hm]
      exact Link.forget_exchange _ _ _
    · rfl
  have htags : (freeAllTags h s).tagSets = s.tagSets.drop h := by simp [freeAllTags]
  have hstations : (freeAllTags h s).stations = s.stations := by simp
  have hqueued (l : LinkId) (k : Nat) (hk : k ∈ s.cmdQueue l) := (hs.commands.queued k).mp ⟨l, hk⟩
  unfold removeRecord
  dsimp only
  split
  · refine hs.tags.removed hst hs.commands.slots (fun k r hr hd => hs.station_ne hst hchain hr hd)
      (fun k hk => (Table.find_modify_ne _ _ hk).trans (by simp)) (fun a ha => ?_) (fun hnone => ?_) htags
      (by simp) (by simp) (by simp) hlinks hqueued
    · rw [State.modifyStation_stations, Table.find_modify_same] at ha
      obtain ⟨b, hb, rfl⟩ := Option.map_eq_some_iff.mp ha
      have hb' : (freeAllTags h s).stations.find h = some b := hb
      rw [hstations, hst] at hb'
      cases hb'
      exact ⟨rfl, rfl⟩
    · rw [State.modifyStation_stations, Table.find_modify_same] at hnone
      have hb' : (freeAllTags h s).stations.find h = none := Option.map_eq_none_iff.mp hnone
      rw [hstations, hst] at hb'
      cases hb'
  · rename_i hflight
    refine hs.tags.removed hst hs.commands.slots (fun k r hr hd => hs.station_ne hst hchain hr hd)
      (fun k hk => (Table.find_drop_ne _ hk).trans (by simp)) (fun a ha => ?_)
      (fun _ x hx => inFlightWith_eq_false (Bool.eq_false_iff.mpr hflight) ((hlinks st.link).trans hx))
      ?_ (by simp) (by simp) (by simp) hlinks hqueued
    · have ha' : ((freeAllTags h s).stations.drop h).find h = some a := ha
      rw [Table.find_drop_same] at ha'
      cases ha'
    · show (freeAllTags h s).tagSets.drop h = _
      rw [htags, Table.drop_drop]

/-! ## Points and bindings -/

/-- R16: a new point has no pending command, and is not RETIRING. -/
theorem TagLawBut.addPoint {h : Nat} {p : Point} (hfree : s.points.find h = none) (hret : p.state ≠ .retiring)
    (hs : TagLawBut L B R s) : TagLawBut L B R { s with points := s.points.put h p } :=
  { hs with
    station := fun k r hr hd => by
      obtain ⟨a, q, ha, hq, hstation⟩ := hs.station k r hr hd
      refine ⟨a, q, ha, (Table.find_put_ne _ _ fun hk => ?_).trans hq, hstation⟩
      rw [hk, hfree] at hq
      cases hq
    retiring := fun k q j hR hq hqr hj => by
      have hq' : (s.points.put h p).find k = some q := hq
      rw [Table.find_put] at hq'
      split at hq'
      · cases hq'
        exact absurd hqr hret
      · exact hs.retiring k q j hR hq' hqr hj }

theorem PendingHeld.congr (hs : PendingHeld s) (hslots : t.slots = s.slots)
    (hp : ∀ k, t.pendingOf k = s.pendingOf k) : PendingHeld t := by
  intro h r hr hd
  rw [hp]
  exact hs h r (hslots ▸ hr) hd

theorem TagLawBut.testFree (h : Nat) (hc : PendingHeld s) (hs : TagLawBut L B R s) :
    TagLawBut L B R (testFree h s) := hs.congr hc (SameTags.testFree h s)

theorem TagLawBut.freeBinding (b : Nat) (hc : PendingHeld s) (hs : TagLawBut L B R s) :
    TagLawBut L B R (freeBinding b s) := by
  unfold Machine.freeBinding
  split
  · exact hs
  · rename_i r hr
    refine TagLawBut.testFree r.point ?_ (hs.congr hc (SameTags.of_points rfl rfl rfl rfl rfl
      (map_modify _ _ (fun _ _ => rfl))))
    exact hc.congr rfl (pendingOf_modify r.point (fun _ => rfl))

theorem TagLawBut.queueBinding (b : Nat) (hc : PendingHeld s) (hs : TagLawBut L B R s) :
    TagLawBut L B R (queueBinding b s) :=
  hs.congr hc (SameTags.of_eq (by simp) (by simp) (by simp) (by simp) (by simp) (by simp))

theorem TagLawBut.modifyBinding (b : Nat) (f : Binding → Binding) (hc : PendingHeld s)
    (hs : TagLawBut L B R s) : TagLawBut L B R (s.modifyBinding b f) :=
  hs.congr hc (SameTags.of_eq rfl rfl rfl rfl rfl rfl)

/-- What the command slots and the tags need of the closing of bindings. -/
def TagsAndCommands (L : LinkId → Prop) (B R : Nat → Prop) (s : State) : Prop :=
  CommandLawBut L s ∧ TagLawBut L B R s

theorem TagsAndCommands.closeBinding (b : Nat) (hs : TagsAndCommands L B R s) :
    TagsAndCommands L B R (closeBinding s b) := by
  refine ⟨hs.1.closeBinding b, ?_⟩
  unfold Machine.closeBinding
  split
  · exact hs.2
  split
  · exact (hs.2.modifyBinding b _ hs.1.pendingHeld).queueBinding b (hs.1.modifyBinding b _).pendingHeld
  · exact hs.2.freeBinding b hs.1.pendingHeld
  · exact hs.2
  · exact hs.2

theorem TagsAndCommands.closeBindings (h : Nat) (hs : TagsAndCommands L B R s) :
    TagsAndCommands L B R (closeBindings h s) := by
  unfold Machine.closeBindings
  split
  · exact hs
  · exact foldl_invariant (TagsAndCommands L B R) _ (fun _ b hp => hp.closeBinding b) _ s hs

theorem TagLawBut.handOn (o : Owner) (e : Option WriteError) (hc : PendingHeld s) (hs : TagLawBut L B R s) :
    TagLawBut L B R (handOn o e s) := by
  have hland (b : Nat) := hs.modifyBinding b Binding.landed hc
  unfold Machine.handOn
  split
  · exact mirrorEndOk_keeps (fun _ => hland _) (fun _ _ => (hland _).freeBinding _ hc)
  · exact mirrorEndError_keeps (fun _ => hland _) (fun _ _ => (hland _).freeBinding _ hc)
      (fun _ _ _ => hs.congr hc (SameTags.of_eq rfl rfl rfl rfl rfl rfl))
  · exact hs.congr hc (SameTags.of_eq rfl rfl rfl rfl rfl rfl)

/-! ## Retirement -/

/-- R22: a RETIRING point whose command is not yet marked. -/
theorem TagLawBut.retirePoint {h : Nat} {p : Point} (hp : s.points.find h = some p)
    (hs : TagLawBut L B nowhere s) : TagLawBut L B (· = h) { s with points := s.points.put h p.retire } :=
  { hs with
    station := fun k r hr hd => by
      obtain ⟨a, q, ha, hq, hstation, hpresent⟩ := hs.station k r hr hd
      by_cases hk : r.point = h
      · rw [hk, hp] at hq
        cases hq
        exact ⟨a, p.retire, ha, by rw [hk]; exact Table.find_put_same _ _ _, hstation, hpresent⟩
      · exact ⟨a, q, ha, (Table.find_put_ne _ _ hk).trans hq, hstation, hpresent⟩
    retiring := fun k q j hR hq =>
      hs.retiring k q j id ((Table.find_put_ne _ _ hR).symm.trans hq) }

/-- A point whose command is marked, or that has none, is taken in again. -/
theorem TagLawBut.marked {h : Nat} (hmark : ∀ p k, s.points.find h = some p → p.pendingCmd = some k →
      ∃ r, s.slots.find k = some r ∧ r.state = .sent ∧ r.abort.isSome = true)
    (hs : TagLawBut L B (· = h) s) : TagLawBut L B nowhere s :=
  { hs with
    retiring := fun k p j _ hp hret hj => by
      by_cases hk : k = h
      · subst hk
        exact hmark p j hp hj
      · exact hs.retiring k p j hk hp hret hj }

/-- R23: the mark of a SENT slot whose point is retired. -/
def Slot.markRetired (r : Slot) : Slot :=
  { r with abort := if r.abort = some .aborted then some .aborted else some .retired }

/-- R23: the pending command of the RETIRING point ends, or is marked. -/
theorem TagLawBut.retireCommand {h k : Nat} (hk : s.pendingOf h = some k)
    (hc : CommandLawBut nowhere s) (hs : TagLawBut nowhere B (· = h) s) :
    TagLawBut nowhere B nowhere (retireCommand k s) := by
  obtain ⟨r, hr, hd, hpoint⟩ := hc.ofPending h k hk
  -- An ended slot leaves its point without a pending command.
  have hended {u : State} (result : CommandResult) (fate : TagFate) (hu : u.slots.find k = some r)
      (ht : TagLawBut nowhere B (· = h) (finishSlot k result 0 fate u)) :
      TagLawBut nowhere B nowhere (finishSlot k result 0 fate u) := by
    refine ht.marked (fun p j hp hj => ?_)
    have hnone := finishSlot_pendingOf hu result 0 fate h
    rw [if_pos hpoint.symm, State.pendingOf, hp] at hnone
    rw [show p.pendingCmd = none from hnone] at hj
    cases hj
  unfold Machine.retireCommand
  rw [hr]
  dsimp only
  split
  · rename_i hq
    exact hended _ _ hr (hs.endWaiting hr (.inl hq) _ _ _ hc)
  · rename_i ha
    exact hended _ _ hr (hs.endAccepted hr ha _ _ _ hc)
  · rename_i ha
    obtain ⟨l, hl, hsl⟩ := hs.sent k r hr ha
    have habort : ((if r.abort = some AbortPending.aborted then some AbortPending.aborted
        else some .retired) : Option AbortPending).isSome = true := by
      split <;> rfl
    refine TagLawBut.marked (h := h) (fun p j hp hj => ?_)
      (hs.modifySlot hr rfl rfl rfl hd (fun _ hf => hf) (fun _ hf => hf.elim) (fun _ => ⟨l, hl, hsl⟩)
        (fun _ _ _ _ _ _ => ⟨ha, habort⟩))
    have hkj : j = k := by
      have hp' : s.pendingOf h = some j := State.pendingOf_eq_some.mpr ⟨p, hp, hj⟩
      exact Option.some.inj (hp'.symm.trans hk)
    subst hkj
    refine ⟨r.markRetired, ?_, ha, habort⟩
    exact (Table.find_modify_same s.slots j Slot.markRetired).trans (by rw [hr]; rfl)
  · rename_i hdone
    exact absurd hdone hd

theorem FourLaws.retire {h : Nat} {p : Point} (hp : s.points.find h = some p) (hret : p.state ≠ .retiring)
    (hs : AllFour s) : AllFour (retireRecord h p s) := by
  refine (ThreeLaws.kept.retirePoint hp hret hs.three).with_tags ?_
  have hpending := pendingOf_put (s := s) (q := p.retire) hp rfl
  have hcommands : CommandLawBut nowhere { s with points := s.points.put h p.retire } :=
    hs.commands.congr (SameCommands.of_points hpending rfl rfl rfl rfl)
  have htags := hs.tags.retirePoint hp
  -- The command first, then the bindings, then the test whether the point is free.
  have hboth : TagsAndCommands nowhere nowhere nowhere (match p.pendingCmd with
      | none => { s with points := s.points.put h p.retire }
      | some k => retireCommand k { s with points := s.points.put h p.retire }) := by
    split
    · rename_i hnone
      refine ⟨hcommands, htags.marked (fun q k hq hk => ?_)⟩
      have hq' : (s.points.put h p.retire).find h = some q := hq
      rw [Table.find_put_same] at hq'
      cases hq'
      rw [show p.retire.pendingCmd = p.pendingCmd from rfl, hnone] at hk
      cases hk
    · rename_i k hk
      have hkp := (hpending h).trans (State.pendingOf_eq_some.mpr ⟨p, hp, hk⟩)
      exact ⟨hcommands.retireCommand hkp, htags.retireCommand hkp hcommands⟩
  have hclosed := hboth.closeBindings h
  unfold retireRecord
  exact hclosed.2.testFree h hclosed.1.pendingHeld

/-! ## Slots -/

/-- R113: a new slot is QUEUED at the link of its point's station. -/
theorem TagLawBut.place {k : Nat} {r : Slot} {p : Point} {st : Station} (hfree : s.slots.find k = none)
    (hp : s.points.find r.point = some p) (hret : p.state ≠ .retiring) (hpst : p.station = r.station)
    (hst : s.stations.find r.station = some st) (hpresent : st.state = .present) (hstate : r.state = .queued)
    (htag : r.tag = none) (hnew : ∀ l, k ∉ s.cmdQueue l) (hc : PendingHeld s) (hs : TagLawBut L B R s) :
    TagLawBut L B R (placeSlot k r st.link s) := by
  have hput (j : Nat) := Table.find_put s.slots k j r
  have hkept {j : Nat} {q : Slot} (hq : s.slots.find j = some q) : (s.slots.put k r).find j = some q := by
    rw [hput, if_neg]
    · exact hq
    · rintro rfl
      rw [hfree] at hq
      cases hq
  have hback {j : Nat} {q : Slot} (hq : (s.slots.put k r).find j = some q) :
      j = k ∧ q = r ∨ j ≠ k ∧ s.slots.find j = some q := by
    rw [hput] at hq
    split at hq
    · exact .inl ⟨‹_›, (Option.some.inj hq).symm⟩
    · exact .inr ⟨‹_›, hq⟩
  have hpoint (j : Nat) := Table.find_modify s.points r.point j (fun p => { p with pendingCmd := some k })
  have hplaced : TagLawBut L B R { s.modifyPoint r.point (fun p => { p with pendingCmd := some k }) with
      slots := s.slots.put k r
      cmdQueues := s.cmdQueues.modify st.link (fun q => q ++ [k]) } := by
    refine
      { capacity := hs.capacity
        free := hs.free
        tags := hs.tags
        canonical := hs.canonical
        held := fun sid g j => (hs.held sid g j).trans ⟨?_, ?_⟩
        exchange := fun l x hl hx => ?_
        sent := fun j q hq hqs => ?_
        queue := fun l j q hj hq => ?_
        station := fun j q hq hqd => ?_
        retiring := fun h q j hR hq hqr hj => ?_ }
    · rintro ⟨q, hq, hqs⟩
      exact ⟨q, hkept hq, hqs⟩
    · rintro ⟨q, hq, hqs, hqg⟩
      rcases hback hq with ⟨-, rfl⟩ | ⟨-, hq⟩
      · rw [htag] at hqg
        cases hqg
      · exact ⟨q, hq, hqs, hqg⟩
    · obtain ⟨a, ha, hal, hagrees⟩ := hs.exchange l x hl hx
      refine ⟨a, ha, hal, ?_⟩
      unfold Exchange.agrees at hagrees ⊢
      split at hagrees
      · exact hagrees
      · exact hagrees
      · exact hagrees.imp fun q hq => ⟨hkept hq.1, hq.2⟩
    · rcases hback hq with ⟨-, rfl⟩ | ⟨-, hq⟩
      · rw [hstate] at hqs
        cases hqs
      · exact hs.sent j q hq hqs
    · have hj' : j ∈ (s.cmdQueues.modify st.link (fun q => q ++ [k])).get l := hj
      rw [Quad.get_modify] at hj'
      rcases hback hq with ⟨rfl, rfl⟩ | ⟨hne, hq⟩
      · split at hj'
        · rename_i hl
          exact ⟨st, hst, hl.symm⟩
        · exact absurd hj' (hnew l)
      · refine hs.queue l j q ?_ hq
        split at hj'
        · rename_i hl
          rw [hl]
          rcases List.mem_append.mp hj' with hj' | hj'
          · exact hj'
          · exact absurd (List.mem_singleton.mp hj') hne
        · exact hj'
    · have hfind {h : Nat} {a : Point} (ha : s.points.find h = some a) :
          ∃ b, (s.points.modify r.point (fun p => { p with pendingCmd := some k })).find h = some b ∧
            b.station = a.station := by
        rw [hpoint]
        split
        · rename_i hh
          rw [hh] at ha
          exact ⟨{ a with pendingCmd := some k }, by rw [ha]; rfl, rfl⟩
        · exact ⟨a, ha, rfl⟩
      rcases hback hq with ⟨-, rfl⟩ | ⟨-, hq⟩
      · obtain ⟨b, hb, hbs⟩ := hfind hp
        exact ⟨st, b, hst, hb, hbs.trans hpst, fun _ => hpresent⟩
      · obtain ⟨a, q', ha, hq', hstation, hpres⟩ := hs.station j q hq hqd
        obtain ⟨b, hb, hbs⟩ := hfind hq'
        exact ⟨a, b, ha, hb, hbs.trans hstation, hpres⟩
    · have hq' := (hpoint h).symm.trans hq
      split at hq'
      · rw [hp] at hq'
        cases hq'
        exact absurd hqr hret
      · obtain ⟨q'', hq'', hqs⟩ := hs.retiring h q j hR hq' hqr hj
        exact ⟨q'', hkept hq'', hqs⟩
  have hheld : PendingHeld { s.modifyPoint r.point (fun p => { p with pendingCmd := some k }) with
      slots := s.slots.put k r
      cmdQueues := s.cmdQueues.modify st.link (fun q => q ++ [k]) } := by
    intro j q hq hqd
    show ((s.points.modify r.point _).find q.point).bind Point.pendingCmd ≠ none
    rw [hpoint]
    split
    · rw [hp]
      exact fun hx => by cases hx
    · rename_i hqp
      rcases hback hq with ⟨-, rfl⟩ | ⟨-, hq⟩
      · exact absurd rfl hqp
      · exact hc j q hq hqd
  unfold placeSlot noticeNewSlot
  split
  · refine hplaced.modifyLink hheld (fun _ => ?_)
    obtain ⟨-, -, -, hexchange, -⟩ := Link.openInGap_keeps (State.link _ st.link)
    exact hexchange
  · exact hplaced

/-- R120: a DONE slot is collected. -/
theorem TagLawBut.collect {h : Nat} {r : Slot} {d : Quad (List Nat)} (hr : s.slots.find h = some r)
    (hd : r.state = .done) (hl : s.slots.All (fun _ r => r.Lawful)) (hs : TagLawBut L B R s) :
    TagLawBut L B R { s with slots := s.slots.drop h, doneLists := d } := by
  have hback {k : Nat} {q : Slot} (hq : (s.slots.drop h).find k = some q) : s.slots.find k = some q := by
    rw [Table.find_drop] at hq
    split at hq
    · cases hq
    · exact hq
  have hforth {k : Nat} {q : Slot} (hq : s.slots.find k = some q) (hqd : q.state ≠ .done) :
      (s.slots.drop h).find k = some q := by
    refine (Table.find_drop_ne _ ?_).trans hq
    rintro rfl
    rw [hr] at hq
    cases hq
    exact hqd hd
  exact
    { hs with
      held := fun sid g k => (hs.held sid g k).trans
        ⟨fun ⟨q, hq, hqs, hqg⟩ => ⟨q, hforth hq ((hl k q hq).not_done_of_tag hqg), hqs, hqg⟩,
          fun ⟨q, hq, hqs⟩ => ⟨q, hback hq, hqs⟩⟩
      exchange := fun l x hL hx => by
        obtain ⟨a, ha, hal, hagrees⟩ := hs.exchange l x hL hx
        refine ⟨a, ha, hal, ?_⟩
        unfold Exchange.agrees at hagrees ⊢
        split at hagrees
        · exact hagrees
        · exact hagrees
        · obtain ⟨q, hq, hqs, hqg⟩ := hagrees
          exact ⟨q, hforth hq ((hl _ q hq).not_done_of_tag hqg), hqs, hqg⟩
      sent := fun k q hq => hs.sent k q (hback hq)
      queue := fun l k q hk hq => hs.queue l k q hk (hback hq)
      station := fun k q hq => hs.station k q (hback hq)
      retiring := fun k p j hR hp hret hj => by
        obtain ⟨q, hq, hqs⟩ := hs.retiring k p j hR hp hret hj
        exact ⟨q, hforth hq (by rw [hqs.1]; exact fun hx => by cases hx), hqs⟩ }

/-! ## The starts of exchanges -/

/-- R90: a link without an exchange starts one with a station of its own. -/
theorem TagLawBut.visit {l : LinkId} {x : Exchange} {st : Station} {f : Link → Link}
    (hidle : (s.link l).activity.exchange = none) (hf : (f (s.link l)).activity.exchange = some x)
    (hst : s.stations.find x.station = some st) (hlink : st.link = l) (hagrees : x.agrees s st)
    (hs : TagLawBut nowhere B R s) : TagLawBut nowhere B R (s.modifyLink l f) := by
  have hother {m : LinkId} (hm : m ≠ l) : (s.modifyLink l f).link m = s.link m := by
    rw [State.link_modifyLink, if_neg hm]
  exact
    { hs with
      exchange := fun m y _ hy => by
        by_cases hm : m = l
        · subst hm
          rw [State.link_modifyLink_same, hf] at hy
          cases hy
          exact ⟨st, hst, hlink, hagrees⟩
        · exact hs.exchange m y id (hother hm ▸ hy)
      sent := fun k r hr hk => by
        obtain ⟨m, -, hsent⟩ := hs.sent k r hr hk
        refine ⟨m, id, ?_⟩
        rw [hother]
        · exact hsent
        · rintro rfl
          rw [Link.sentSlot_of_none hidle] at hsent
          cases hsent }

theorem visitExchange_agrees (k : Link) (sid : Nat) (st : Station) :
    (visitExchange k sid st).station = sid ∧ (visitExchange k sid st).agrees s st := by
  unfold visitExchange
  split
  · rename_i hp
    exact ⟨rfl, .inl hp⟩
  · rename_i hp
    exact ⟨rfl, hp⟩

/-- R114: a QUEUED slot whose station has room is sent with a free tag. -/
theorem TagLawBut.send {l : LinkId} {h tag : Nat} {timeout : BitVec 8} {r : Slot} {x : Exchange}
    {f : Link → Link} (hr : s.slots.find h = some r) (hq : r.state = .queued) (hrt : r.tag = none)
    (hroom : s.hasRoom r.station = true) (hfree : (s.tagSet r.station).lowestFree 16 = some tag)
    (hmine : ∃ st, s.stations.find r.station = some st ∧ st.link = l)
    (hidle : (s.link l).activity.exchange = none) (hf : (f (s.link l)).activity.exchange = some x)
    (hk : x.kind = .command h tag) (hxs : x.station = r.station)
    (htags : ∀ sid, t.tagSet sid = if sid = r.station then (s.tagSet r.station).put tag (.held h)
      else s.tagSet sid)
    (hslots : t.slots = s.slots.modify h (Slot.send tag timeout))
    (hqueues : t.cmdQueues = s.cmdQueues.map (fun q => without q h)) (hst : t.stations = s.stations)
    (hpoints : t.points = s.points) (hlinks : t.links = s.links.modify l f)
    (hs : TagLawBut nowhere nowhere nowhere s) : TagLawBut nowhere nowhere nowhere t := by
  obtain ⟨htagfree, hlt, -⟩ := Table.lowestFree_spec hfree
  have hfind (k : Nat) : t.slots.find k = if k = h then some (r.send tag timeout) else s.slots.find k := by
    rw [hslots, Table.find_modify, hr]
    rfl
  have hlink (m : LinkId) : t.link m = if m = l then f (s.link l) else s.link m := by
    unfold State.link
    rw [hlinks, Quad.get_modify]
  obtain ⟨st, hmst, hml⟩ := hmine
  -- A slot with a tag is not the one that is sent.
  have hne {k : Nat} {q : Slot} {g : Nat} (hkq : s.slots.find k = some q) (hg : q.tag = some g) : k ≠ h := by
    rintro rfl
    rw [hr] at hkq
    cases hkq
    rw [hrt] at hg
    cases hg
  refine
    { capacity := fun sid a _ ha => ?_
      free := fun sid ha => ?_
      tags := fun sid g u hu => ?_
      canonical := fun sid => ?_
      held := fun sid g k => ?_
      exchange := fun m y _ hy => ?_
      sent := fun k q hkq hqs => ?_
      queue := fun m k q hkm hkq => ?_
      station := fun k q hkq hqd => ?_
      retiring := fun k p j _ hp hret hj => ?_ }
  · rw [hst] at ha
    unfold State.tagsInUse
    rw [htags]
    split
    · rename_i hsid
      subst hsid
      have hless : s.tagsInUse r.station < a.capacity := by
        unfold State.hasRoom at hroom
        rw [ha] at hroom
        exact of_decide_eq_true hroom
      exact (Table.size_put_le _ _ _).trans hless
    · exact hs.capacity sid a id ha
  · rw [hst] at ha
    rw [htags, if_neg]
    · exact hs.free sid ha
    · rintro rfl
      rw [hmst] at ha
      cases ha
  · rw [htags] at hu
    split at hu
    · rw [Table.find_put] at hu
      split at hu
      · rename_i hg
        exact hg ▸ hlt
      · exact hs.tags _ g u hu
    · exact hs.tags sid g u hu
  · rw [htags]
    split
    · exact (hs.canonical _).put _ _
    · exact hs.canonical sid
  · rw [htags, hfind]
    by_cases hkh : k = h
    · subst hkh
      rw [if_pos rfl]
      have hnot (sid g : Nat) : (s.tagSet sid).find g ≠ some (.held k) := by
        intro hheld
        obtain ⟨q, hkq, -, hg⟩ := (hs.held sid g k).mp hheld
        exact hne hkq hg rfl
      constructor
      · intro hheld
        split at hheld
        · rename_i hsid
          rw [Table.find_put] at hheld
          split at hheld
          · rename_i hg
            exact ⟨_, rfl, hsid.symm, congrArg some hg.symm⟩
          · exact absurd hheld (hnot _ _)
        · exact absurd hheld (hnot _ _)
      · rintro ⟨q, hkq, hqs, hqg⟩
        cases hkq
        have hsid : sid = r.station := hqs.symm
        have hg : g = tag := (Option.some.inj hqg).symm
        rw [if_pos hsid, hg, Table.find_put_same]
    · rw [if_neg hkh]
      refine Iff.trans ?_ (hs.held sid g k)
      split
      · rename_i hsid
        subst hsid
        rw [Table.find_put]
        split
        · rename_i hg
          subst hg
          rw [htagfree]
          exact ⟨fun hx => absurd (by cases hx; rfl) hkh, fun hx => by cases hx⟩
        · exact Iff.rfl
      · exact Iff.rfl
  · rw [hlink] at hy
    split at hy
    · rename_i hm
      rw [hf] at hy
      cases hy
      refine ⟨st, by rw [hst, hxs]; exact hmst, hml.trans hm.symm, ?_⟩
      rw [Exchange.agrees, hk]
      exact ⟨r.send tag timeout, by rw [hfind, if_pos rfl], hxs.symm, rfl⟩
    · obtain ⟨a, ha, hal, hagrees⟩ := hs.exchange m y id hy
      refine ⟨a, hst ▸ ha, hal, ?_⟩
      unfold Exchange.agrees at hagrees ⊢
      split at hagrees
      · exact hagrees
      · exact hagrees
      · obtain ⟨q, hkq, hqs, hqg⟩ := hagrees
        exact ⟨q, by rw [hfind, if_neg (hne hkq hqg)]; exact hkq, hqs, hqg⟩
  · rw [hfind] at hkq
    split at hkq
    · rename_i hkh
      subst hkh
      exact ⟨l, id, by rw [hlink, if_pos rfl]; exact Link.sentSlot_of_command hf hk⟩
    · obtain ⟨m, -, hm⟩ := hs.sent k q hkq hqs
      refine ⟨m, id, ?_⟩
      rw [hlink, if_neg]
      · exact hm
      · rintro rfl
        rw [Link.sentSlot_of_none hidle] at hm
        cases hm
  · have hqueue : t.cmdQueue m = without (s.cmdQueue m) h := by
      unfold State.cmdQueue
      rw [hqueues, Quad.get_map]
    rw [hqueue, mem_without] at hkm
    rw [hfind, if_neg hkm.2] at hkq
    rw [hst]
    exact hs.queue m k q hkm.1 hkq
  · rw [hst, hpoints]
    rw [hfind] at hkq
    split at hkq
    · cases hkq
      exact hs.station h r hr (by rw [hq]; exact fun hx => by cases hx)
    · exact hs.station k q hkq hqd
  · rw [hpoints] at hp
    obtain ⟨q, hkq, hqs, hqa⟩ := hs.retiring k p j id hp hret hj
    refine ⟨q, ?_, hqs, hqa⟩
    rw [hfind, if_neg]
    · exact hkq
    · rintro rfl
      rw [hr] at hkq
      cases hkq
      rw [hq] at hqs
      cases hqs

theorem FourLaws.start {l : LinkId} {h : Nat} (hd : (s.link l).activity = .deciding)
    (ho : s.oldestEligible l = some h) (hs : AllFour s) : AllFour (startCommand l h s) := by
  refine (ThreeLaws.kept.command hd ho hs.three).with_tags ?_
  obtain ⟨hm, r, hr, hq, hroom⟩ := oldestEligible_queued ho
  rcases startCommand_cases hr with heq | ⟨st, p, tag, hst, -, hfree, heq⟩
  · rw [heq]
    exact hs.tags
  · rw [heq]
    have hrt := (hs.commands.slots h r hr).tag_eq_none (by rw [hq]; exact fun hx => by cases hx)
      (by rw [hq]; exact fun hx => by cases hx)
    exact hs.tags.send (f := Link.sendCommand h tag r st p.number) hr hq hrt hroom hfree
      (hs.tags.queue l h r hm hr) (by rw [hd]; rfl) rfl rfl rfl
      (fun sid => State.tagSet_setTagSet s r.station sid _) rfl rfl rfl rfl rfl

/-! ## Every command -/

theorem TagLawBut.empty (hst : s.stations = ⟨[]⟩) (hp : s.points = ⟨[]⟩) (hslots : s.slots = ⟨[]⟩)
    (htags : s.tagSets = ⟨[]⟩) (hl : ∀ l, (s.link l).activity.exchange = none) : TagLawBut L B R s := by
  have hset (sid : Nat) : s.tagSet sid = ⟨[]⟩ := by
    unfold State.tagSet
    rw [htags]
    rfl
  exact
    { capacity := fun sid st _ h => by rw [hst] at h; cases h
      free := fun sid _ => by rw [hset]
      tags := fun sid g u h => by rw [hset] at h; cases h
      canonical := fun sid => by rw [hset]; exact Table.canonical_empty
      held := fun sid g h => by
        rw [hset, hslots]
        exact ⟨fun h => (by cases h), fun ⟨_, h, _⟩ => by cases h⟩
      exchange := fun l x _ h => by rw [hl] at h; cases h
      sent := fun h r hr => by rw [hslots] at hr; cases hr
      queue := fun l h r _ hr => by rw [hslots] at hr; cases hr
      station := fun h r hr => by rw [hslots] at hr; cases hr
      retiring := fun h p k _ hh => by rw [hp] at hh; cases hh }

theorem FourLaws.enable (l : LinkId) (hs : AllFour s) : AllFour (enableLink l s) := by
  refine (ThreeLaws.kept.enable l hs.three).with_tags ?_
  unfold enableLink
  dsimp only
  split
  · rename_i hd
    split
    · exact ((FourLaws.reports.flag l .configError hs).core (State.SameCore.of_settle _)).tags
    · have hrejoin (st : Station) : st.rejoin.duty = st.duty := by
        unfold Station.rejoin
        split
        · rename_i hsilent
          exact Station.duty_eq_iff.mpr ⟨rfl, rfl, by rw [hsilent]; exact ⟨fun h => (by cases h), fun h => by cases h⟩,
            by rw [hsilent]; exact ⟨fun h => (by cases h), fun h => by cases h⟩⟩
        · rfl
      have hjoined := foldl_invariant (fun t => AllFour t ∧ (t.link l).activity = .disabled)
        (fun s sid => s.modifyStation sid Station.rejoin) (fun t sid hp => by
          refine ⟨?_, hp.2⟩
          cases hst : t.stations.find sid with
          | none =>
            rw [State.modifyStation, Table.modify_none _ _ hst]
            exact hp.1
          | some st => exact hp.1.modifyStation hst (Station.Moves.rejoin st) (hrejoin st))
        (s.pollList l) s ⟨hs, hd⟩
      refine hjoined.1.tags.modifyLink hjoined.1.commands.pendingHeld (fun _ => ?_)
      rw [beginRound_exchange, hjoined.2]
      rfl
  · exact hs.tags

theorem TagLawBut.mirrorStart (hc : PendingHeld s) (hs : TagLawBut L B R s) :
    TagLawBut L B R (mirrorWriteStart s) := by
  unfold mirrorWriteStart
  split
  · split
    · exact hs
    split
    · exact hs
    · exact hs.congr hc (SameTags.of_eq rfl rfl rfl rfl rfl rfl)
  · exact hs

theorem FourLaws.kept : KeptByCore AllFour where
  core := fun hc hs => hs.core hc
  link := fun hk hs => (ThreeLaws.kept.link hk hs.three).with_tags
    (hs.tags.modifyLink hs.commands.pendingHeld (fun _ => hk.exchange))
  phase := fun hm hs => (ThreeLaws.kept.phase hm hs.three).with_tags
    (hs.tags.congr hs.commands.pendingHeld (SameTags.of_eq rfl rfl rfl rfl rfl rfl))
  point := FourLaws.reports.point
  event := FourLaws.reports.event
  softReset := fun {s} hs => (ThreeLaws.kept.softReset hs.three).with_tags
    (TagLawBut.empty rfl rfl rfl rfl (fun l => by
      show ((s.links.map Link.softReset).get l).activity.exchange = none
      rw [Quad.get_map]
      rfl))
  hardwareReset := fun hs => (ThreeLaws.kept.hardwareReset hs.three).with_tags
    (TagLawBut.empty rfl rfl rfl rfl (fun l => by
      show ((Quad.all Link.reset).get l).activity.exchange = none
      rw [Quad.get_all]
      rfl))
  addStation := fun {s l a limit h} h1 h2 h3 h4 h5 h6 hs =>
    (ThreeLaws.kept.addStation h1 h2 h3 h4 h5 h6 hs.three).with_tags
      (hs.tags.addStation (Table.lowestFree_spec h6).1 (by simp [placeStation]; rfl) (by simp) (by simp)
        (by simp) (by simp) (appendedWhileIdle_exchange _ h _))
  removeStation := fun hst hl hc hs => hs.remove hst hl hc
  createPoint := fun {s sid st number confirm h} key deadband period h1 h2 h3 h4 h5 hs => by
    have hthree := ThreeLaws.kept.createPoint key deadband period h1 h2 h3 h4 h5 hs.three
    have hput := hs.tags.addPoint (p := newPoint sid number key confirm deadband period)
      (Table.lowestFree_spec h5).1 (fun hx => by cases hx)
    have hheld : PendingHeld { s with
        points := s.points.put h (newPoint sid number key confirm deadband period) } :=
      (commandLaw_iff.mp hthree.2.2).pendingHeld
    exact hthree.with_tags (hput.congr hheld ⟨rfl, rfl, rfl, fun _ _ => rfl, map_modify _ _ (fun _ _ => rfl),
      fun _ q hq => ⟨q, hq, rfl⟩, fun _ q hq _ => ⟨q, hq, rfl⟩⟩)
  retirePoint := fun hp hret hs => hs.retire hp hret
  bind := fun c key address trigger h1 h2 h3 h4 hs =>
    (ThreeLaws.kept.bind c key address trigger h1 h2 h3 h4 hs.three).with_tags
      (TagLawBut.queueBinding _ (hs.commands.pendingHeld.congr rfl (pendingOf_modify _ (fun _ => rfl)))
        (hs.tags.congr hs.commands.pendingHeld
          (SameTags.of_points rfl rfl rfl rfl rfl (map_modify _ _ (fun _ _ => rfl)))))
  detach := fun h1 h2 h3 hs => (ThreeLaws.kept.detach h1 h2 h3 hs.three).with_tags
    (hs.tags.congr hs.commands.pendingHeld (SameTags.of_eq rfl rfl rfl rfl rfl rfl))
  unbind := fun h1 h2 h3 hs => (ThreeLaws.kept.unbind h1 h2 h3 hs.three).with_tags
    (hs.tags.freeBinding _ hs.commands.pendingHeld)
  resume := fun h1 h2 hs => (ThreeLaws.kept.resume h1 h2 hs.three).with_tags
    ((hs.tags.modifyBinding _ _ hs.commands.pendingHeld).queueBinding _
      (hs.commands.modifyBinding _ _).pendingHeld)
  sendCommand := fun c hostTag value h1 h2 h3 h4 h5 h6 h7 hs =>
    (ThreeLaws.kept.sendCommand c hostTag value h1 h2 h3 h4 h5 h6 h7 hs.three).with_tags
      (hs.tags.place (Table.lowestFree_spec h7).1 h1 h2 rfl h3 h4 rfl rfl (fun l hm => by
        obtain ⟨q, hq, -⟩ := (hs.commands.queued _).mp ⟨l, hm⟩
        rw [(Table.lowestFree_spec h7).1] at hq
        cases hq) hs.commands.pendingHeld)
  endQueued := fun result hr hq hs => hs.endSlot result hr (.inl hq)
  endAccepted := fun result hr ha hs => (ThreeLaws.kept.endAccepted result hr ha hs.three).with_tags
    (hs.tags.endAccepted hr ha result 0 _ hs.commands)
  mark := fun a hr ha hs => (ThreeLaws.kept.mark a hr ha hs.three).with_tags
    (hs.tags.modifySlot hr rfl rfl rfl (by rw [ha]; exact fun hx => by cases hx) (fun _ hf => hf)
      (fun _ hf => hf.elim) (fun _ => hs.tags.sent _ _ hr ha) (fun _ _ _ _ _ _ => ⟨ha, rfl⟩))
  collect := fun {s c h rest r} hd hr hs => (ThreeLaws.kept.collect hd hr hs.three).with_tags (by
    obtain ⟨q, hq, hqd, -⟩ := (hs.commands.done c h).mp (hd ▸ List.mem_cons_self)
    exact hs.tags.collect hq hqd hs.commands.slots)
  enable := fun l hs => hs.enable l
  disable := fun l hs => hs.disable l
  visit := fun {s l sid st} hd hdue hst hs => (ThreeLaws.kept.visit hd hdue hst hs.three).with_tags (by
    obtain ⟨hsid, hagrees⟩ := visitExchange_agrees (s := s) (s.link l) sid st
    obtain ⟨a, ha, hlink, -⟩ := (hs.directory.pollList l sid).mp (dueStation_mem hdue)
    obtain rfl : st = a := Option.some.inj (hst.symm.trans ha)
    exact hs.tags.visit (by rw [hd]; rfl) rfl (hsid.symm ▸ hst) hlink hagrees)
  command := fun hd ho hs => hs.start hd ho
  ends := fun hfits hx hs => hs.ends hfits hx
  mirrorStart := fun hs => (ThreeLaws.kept.mirrorStart hs.three).with_tags
    (hs.tags.mirrorStart hs.commands.pendingHeld)
  messageStart := fun hs => (ThreeLaws.kept.messageStart hs.three).with_tags
    (hs.tags.congr hs.commands.pendingHeld
      (SameTags.of_eq (by simp) (by simp) (by simp) (by simp) (by simp) (by simp)))
  endTransaction := fun {s t} e ht hs => (ThreeLaws.kept.endTransaction e ht hs.three).with_tags (by
    have hidle : TagLawBut nowhere nowhere nowhere (setPhase .idle s) :=
      hs.tags.congr hs.commands.pendingHeld (SameTags.of_eq rfl rfl rfl rfl rfl rfl)
    have hheld : PendingHeld (setPhase .idle s) := hs.commands.pendingHeld
    unfold endTransaction
    dsimp only
    split
    · exact hidle
    · refine (hidle.handOn t.owner e hheld).congr ?_ (SameTags.of_eq rfl rfl rfl rfl rfl rfl)
      exact (commandLaw_iff.mp (CommandLaw.handOn (s := setPhase .idle s) t.owner e
        (commandLaw_iff.mpr (hs.commands.congr (SameCommands.of_eq rfl rfl rfl rfl rfl))))).pendingHeld)

end

/-- Settles O60: the four laws are kept together by every command. -/
theorem stepKeepsTagLaw : Obligations.StepKeepsTagLaw := by
  intro s t htables hdirectory hcommands htags ht
  have hs : AllFour s := ThreeLaws.with_tags ⟨tablesLaw_iff.mp htables, hdirectory, hcommands⟩
    (tagLaw_iff.mp htags)
  exact tagLaw_iff.mpr (FourLaws.kept.step hs ht).tags

end Sys2Proof.Machine
end


section
/-! Every step keeps the law of the Client Windows, and of the ready requests one may be taken (O53). -/

namespace Sys2Proof.Machine

/-! ## What the ends of slots and the settling of messages do to a window -/

/-- A window moves: its causes, or its message from ARMED to PENDING in MESSAGE mode (R153). -/
structure Client.Moves (a b : Client) : Prop where
  requests : b.requests = a.requests
  responses : b.responses = a.responses
  passed : b.passed = a.passed
  mode : b.mode = a.mode
  address : b.msgAddr = a.msgAddr
  inFlight : b.msgInFlight = a.msgInFlight
  ignored : b.msgIgnored = a.msgIgnored
  state : b.msgState = a.msgState ∨ a.mode = .message ∧ b.msgState = .pending

theorem Client.Moves.refl (k : Client) : k.Moves k := ⟨rfl, rfl, rfl, rfl, rfl, rfl, rfl, .inl rfl⟩

theorem Client.Moves.trans {a b c : Client} (h : a.Moves b) (g : b.Moves c) : a.Moves c where
  requests := g.requests.trans h.requests
  responses := g.responses.trans h.responses
  passed := g.passed.trans h.passed
  mode := g.mode.trans h.mode
  address := g.address.trans h.address
  inFlight := g.inFlight.trans h.inFlight
  ignored := g.ignored.trans h.ignored
  state := by
    rcases g.state with hg | ⟨hmode, hg⟩
    · rcases h.state with hh | ⟨hmode, hh⟩
      · exact .inl (hg.trans hh)
      · exact .inr ⟨hmode, hg.trans hh⟩
    · exact .inr ⟨h.mode ▸ hmode, hg⟩

theorem Client.Moves.settle (k : Client) (links : Quad Link) : k.Moves (k.settle links) := by
  unfold Client.settle
  split
  · rename_i h
    exact ⟨rfl, rfl, rfl, rfl, rfl, rfl, rfl, .inr ⟨h.1, rfl⟩⟩
  · exact .refl k

theorem Client.Moves.sticky (k : Client) (x : Sticky) : k.Moves { k with sticky := x } :=
  ⟨rfl, rfl, rfl, rfl, rfl, rfl, rfl, .inl rfl⟩

theorem Client.Moves.ready {a b : Client} (h : a.Moves b) : b.ready = a.ready := by
  unfold Client.ready
  rw [h.requests, h.responses]

theorem Client.Moves.lawful {a b : Client} (h : a.Moves b) (ha : a.Lawful) : b.Lawful where
  requests := h.requests ▸ ha.requests
  responses := h.responses ▸ ha.responses
  ignored := fun hi => h.inFlight ▸ ha.ignored (h.ignored ▸ hi)
  inFlight := fun hf => by
    rcases h.state with hs | ⟨-, hs⟩
    · exact hs.trans (ha.inFlight (h.inFlight ▸ hf))
    · exact hs
  line := fun hm => by
    rw [h.ignored]
    rw [h.mode] at hm
    rcases h.state with hs | ⟨hmode, -⟩
    · rw [hs]
      exact ha.line hm
    · rw [hm] at hmode
      cases hmode
  address := h.address ▸ ha.address

/-- Every window moves. -/
def WindowsMove (s t : State) : Prop := ∀ c, (s.client c).Moves (t.client c)

section

variable {s t u : State}

theorem WindowsMove.of_eq (h : t.clients = s.clients) : WindowsMove s t := by
  intro c
  unfold State.client
  rw [h]
  exact .refl _

theorem WindowsMove.trans (h : WindowsMove s t) (g : WindowsMove t u) : WindowsMove s u :=
  fun c => (h c).trans (g c)

theorem WindowsMove.same (h : WindowsMove s t) (hc : u.clients = t.clients) : WindowsMove s u :=
  h.trans (.of_eq hc)

theorem WindowsMove.settle (s : State) : WindowsMove s (settle s) := by
  intro c
  rw [settle_client]
  exact .settle _ _

theorem WindowsMove.setSticky (c : ClientId) (x : StickyCause) (s : State) :
    WindowsMove s (setSticky c x s) := by
  intro d
  unfold Machine.setSticky
  rw [State.client_modifyClient]
  split
  · rename_i hd
    rw [hd]
    exact .sticky _ _
  · exact .refl _

theorem WindowsMove.finishSlot (h : Nat) (result : CommandResult) (code : Byte) (fate : TagFate) (s : State) :
    WindowsMove s (finishSlot h result code fate s) := by
  cases hr : s.slots.find h with
  | none => rw [finishSlot_free hr]; exact .of_eq rfl
  | some r =>
    exact (WindowsMove.setSticky r.client .commandDone s).trans
      (.of_eq ((finishSlot_clients hr result code fate).trans rfl))

theorem WindowsMove.acts (s : State) : KeptByActs (WindowsMove s) where
  point := fun _ _ h => h.same rfl
  event := fun _ _ h => h.same (by simp)
  addStation := fun _ _ _ _ _ _ h => h.same (by simp)
  removeStation := fun _ _ _ h => h.same (by simp)
  createPoint := fun _ _ _ _ _ _ _ _ h => h.same rfl
  retirePoint := fun {u h p} _ _ hm => by
    have hput : WindowsMove s { u with points := u.points.put h p.retire } := hm.same rfl
    unfold retireRecord
    dsimp only
    split
    · exact hput.same (by simp)
    · rename_i k _
      have hret := retireCommand_keeps (P := WindowsMove s)
        (fun _ _ _ _ hp => hp.trans (.finishSlot _ _ _ _ _)) (fun _ _ _ hp => hp.same rfl)
        (fun _ hp => hp.same rfl) k hput
      exact hret.same (by simp)
  bind := fun _ _ _ _ _ _ _ _ h => h.same (by simp)
  detach := fun _ _ _ h => h.same rfl
  unbind := fun _ _ _ h => h.same (by simp)
  resume := fun _ _ h => h.same (by simp)
  sendCommand := fun _ _ _ _ _ _ _ _ _ _ h => h.same (by simp)
  endQueued := fun _ _ _ h => h.trans (WindowsMove.finishSlot _ _ _ _ (dequeue _ _))
  endAccepted := fun _ _ _ h => h.trans (.finishSlot _ _ _ _ _)
  mark := fun _ _ _ h => h.same rfl
  collect := fun _ _ h => h.same rfl

theorem WindowsMove.parts (s : State) : KeptByParts (WindowsMove s) where
  flag := fun _ _ h => h.same rfl
  complete := fun _ _ _ _ h => h.trans (.finishSlot _ _ _ _ _)
  endSlot := fun _ _ _ h => h.trans (WindowsMove.finishSlot _ _ _ _ (dequeue _ _))
  freeTag := fun _ _ _ h => h.same (by simp)
  freeAllTags := fun _ h => h.same (by simp)
  point := fun _ _ h => h.same rfl
  event := fun _ _ h => h.same (by simp)
  station := fun _ _ h => h.same rfl
  leave := fun _ _ h => h.same rfl

theorem WindowsMove.slotOutcome (k : ExchangeKind) (o : ExchangeOutcome) (s : State) :
    WindowsMove s (slotOutcome k o s) := by
  cases k with
  | poll => exact .of_eq rfl
  | identReq => exact .of_eq rfl
  | command h tag =>
    show WindowsMove s (commandAnswer h o s)
    unfold commandAnswer
    split
    · exact .of_eq rfl
    split
    · split
      · exact .of_eq rfl
      · exact .finishSlot _ _ _ _ _
    · split
      · exact .finishSlot _ _ _ _ _
      · exact .finishSlot _ _ _ _ _
    · exact .finishSlot _ _ _ _ _
    · exact .finishSlot _ _ _ _ _

theorem WindowsMove.ends (l : LinkId) (x : Exchange) (o : ExchangeOutcome) (s : State) :
    WindowsMove s (endExchange l x o s) := by
  have hflag := (WindowsMove.parts s).receiveFlag l o (.of_eq rfl)
  have hout := (WindowsMove.parts s).stationOutcome l x o hflag (hflag.trans (.slotOutcome _ _ _))
  rw [endExchange_quieted]
  exact (hout.same (u := (stationOutcome l x o (receiveFlag l o s)).modifyLink l _) rfl).trans (.settle _)

theorem WindowsMove.disable (l : LinkId) (s : State) : WindowsMove s (disableLink l s) := by
  have hcut : WindowsMove s (cutCommand (s.link l) s) := by
    unfold cutCommand
    split
    · exact .of_eq rfl
    split
    · exact .finishSlot _ _ _ _ _
    · exact .of_eq rfl
    · exact .of_eq rfl
  exact disableLink_keeps (.of_eq rfl) (fun _ => hcut.same rfl)
    (fun _ sid h => (WindowsMove.parts s).linkOff sid h)
    (fun _ h => h.same (freeStations_keeps State.clients (fun _ _ => rfl) _ _))
    (fun _ h => h.trans (.settle _))

theorem WindowsMove.enable (l : LinkId) (s : State) : WindowsMove s (enableLink l s) := by
  unfold enableLink
  dsimp only
  split
  · split
    · exact (WindowsMove.of_eq (s := s) (t := setLinkFlag l .configError s) rfl).trans (.settle _)
    · exact (rejoin_keeps (P := WindowsMove s) (fun _ _ h => h.same rfl) (s.pollList l) (.of_eq rfl)).same rfl
  · exact .of_eq rfl

theorem WindowsMove.completion (h : Nat) (s : State) : WindowsMove s (expireSlot h s) := by
  unfold expireSlot
  split
  · exact .of_eq rfl
  split
  · exact (WindowsMove.finishSlot _ _ _ _ _).trans (.settle _)
  · exact .of_eq rfl

theorem WindowsMove.rate (l : LinkId) (v : Word) (s : State) : WindowsMove s (rateWrite l v s) := by
  unfold rateWrite
  dsimp only
  split
  · exact (WindowsMove.of_eq (s := s) (t := setLinkFlag l .configError s) rfl).trans (.settle _)
  · exact .of_eq rfl

theorem WindowsMove.response (l : LinkId) (s : State) : WindowsMove s (responseExpiry l s) := by
  unfold responseExpiry
  split
  · exact .ends _ _ _ _
  · exact .of_eq rfl

theorem WindowsMove.gap (l : LinkId) (s : State) : WindowsMove s (gapExpiry l s) := by
  unfold gapExpiry
  split
  · split
    · exact .ends _ _ _ _
    · exact .of_eq rfl
  · exact .of_eq rfl

theorem WindowsMove.receive (l : LinkId) (x : Exchange) (rx : Receiver) (data : Byte) (mark stop : Bool)
    (s : State) : WindowsMove s (receiveCharacter l x rx data mark stop s) := by
  unfold receiveCharacter
  dsimp only
  split
  · exact (WindowsMove.of_eq (s := s) (t := s.modifyLink l (fun k =>
      { k with activity := .receiving x (rx.take x data mark stop), inCharacter := false })) rfl).trans
      (.ends l x _ _)
  · exact .of_eq rfl

theorem WindowsMove.character (l : LinkId) (data : Byte) (mark stop : Bool) (s : State) :
    WindowsMove s (characterReceived l data mark stop s) := by
  unfold characterReceived
  split
  · exact .of_eq rfl
  · exact .of_eq rfl
  · exact .receive _ _ _ _ _ _ _
  · exact .receive _ _ _ _ _ _ _
  · exact .of_eq rfl

theorem WindowsMove.startBit (l : LinkId) (a b : Bool) (s : State) : WindowsMove s (startBit l a b s) := by
  unfold Machine.startBit
  dsimp only
  split
  · exact .of_eq rfl
  split
  · exact .of_eq rfl
  · exact .of_eq rfl
  · split
    · exact .of_eq rfl
    split
    · exact .response l s
    · exact .of_eq rfl
  · split <;> exact .of_eq rfl
  · split <;> exact .of_eq rfl

/-! ## The law -/

/-- The marks of a new state are none or the old ones. -/
theorem WindowLaw.of (hs : WindowLaw s) (hlaw : ∀ d, (t.client d).Lawful)
    (hflight : ∀ d, (t.client d).msgInFlight = true ↔
      ∃ x, t.mwm.phase.transaction = some x ∧ x.owner = .message d ∧ x.ignored = false)
    (hready : ∀ d, (t.client d).ready = false → (t.client d).passed = 0)
    (hpassed : ∀ d, (t.client d).passed = 0 ∨ (t.client d).passed = (s.client d).passed) :
    WindowLaw t := by
  obtain ⟨rank, hrank⟩ := hs.order
  refine ⟨hlaw, hflight, hready, rank, fun e d hde _ hbit => ?_⟩
  -- A mark in the new state is a mark of a ready request in the old one.
  have hmark : (s.client d).passed.getLsbD e.val = true := by
    rcases hpassed d with h0 | hp
    · rw [h0] at hbit
      simp at hbit
    · exact hp ▸ hbit
  refine hrank e d hde ?_ hmark
  cases hrd : (s.client d).ready with
  | true => rfl
  | false =>
    rw [hs.passed d hrd] at hmark
    simp at hmark

/-- The law when every window moves, but for one that is given. -/
theorem WindowLaw.window {c : ClientId} (hs : WindowLaw s)
    (hother : ∀ d, d ≠ c → (s.client d).Moves (t.client d)) (hlaw : (t.client c).Lawful)
    (hflight : ∀ d, (t.client d).msgInFlight = true ↔
      ∃ x, t.mwm.phase.transaction = some x ∧ x.owner = .message d ∧ x.ignored = false)
    (hready : (t.client c).ready = false → (t.client c).passed = 0)
    (hpassed : (t.client c).passed = 0 ∨ (t.client c).passed = (s.client c).passed) : WindowLaw t := by
  refine hs.of (fun d => ?_) hflight (fun d hr => ?_) (fun d => ?_) <;> by_cases hd : d = c
  · exact hd ▸ hlaw
  · exact (hother d hd).lawful (hs.windows d)
  · rw [hd] at hr ⊢
    exact hready hr
  · rw [(hother d hd).passed]
    exact hs.passed d ((hother d hd).ready ▸ hr)
  · exact hd ▸ hpassed
  · exact .inr (hother d hd).passed

/-- Every window moves, and the Mirror Write Master enters a phase. -/
theorem WindowLaw.movesTo (hs : WindowLaw s) (h : WindowsMove s t)
    (hflight : ∀ d, (s.client d).msgInFlight = true ↔
      ∃ x, t.mwm.phase.transaction = some x ∧ x.owner = .message d ∧ x.ignored = false) : WindowLaw t :=
  hs.window (c := 0) (fun d _ => h d) ((h 0).lawful (hs.windows 0))
    (fun d => (h d).inFlight ▸ hflight d)
    (fun hr => (h 0).passed.trans (hs.passed 0 ((h 0).ready ▸ hr))) (.inr (h 0).passed)

theorem WindowLaw.moves (hs : WindowLaw s) (h : WindowsMove s t)
    (hm : t.mwm.phase.transaction = s.mwm.phase.transaction) : WindowLaw t :=
  hs.movesTo h (fun d => hm ▸ hs.inFlight d)

theorem WindowLaw.same (hs : WindowLaw s) (hc : t.clients = s.clients)
    (hm : t.mwm.phase.transaction = s.mwm.phase.transaction) : WindowLaw t := hs.moves (.of_eq hc) hm

theorem WindowLaw.settled (hs : WindowLaw s) : WindowLaw (settle s) := hs.moves (.settle s) rfl

/-- One window becomes another. -/
theorem WindowLaw.modifyClient {c : ClientId} {f : Client → Client} (hs : WindowLaw s)
    (hlaw : (f (s.client c)).Lawful) (hflight : (f (s.client c)).msgInFlight = (s.client c).msgInFlight)
    (hready : (f (s.client c)).ready = false → (f (s.client c)).passed = 0)
    (hpassed : (f (s.client c)).passed = 0 ∨ (f (s.client c)).passed = (s.client c).passed) :
    WindowLaw (s.modifyClient c f) := by
  have hself : (s.modifyClient c f).client c = f (s.client c) := by
    rw [State.client_modifyClient, if_pos rfl]
  refine hs.window (c := c) (fun d hd => ?_) (hself ▸ hlaw) (fun d => ?_) (hself ▸ hready)
    (hself ▸ hpassed)
  · rw [State.client_modifyClient, if_neg hd]
    exact .refl _
  · refine Iff.trans ?_ (hs.inFlight d)
    rw [State.client_modifyClient]
    split
    · rename_i hd
      rw [hd, hflight]
    · rfl

/-- A window whose FIFOs, marks and message are left. -/
theorem WindowLaw.modifyMoves {c : ClientId} {f : Client → Client} (hs : WindowLaw s)
    (hf : (s.client c).Moves (f (s.client c))) : WindowLaw (s.modifyClient c f) :=
  hs.modifyClient (hf.lawful (hs.windows c)) hf.inFlight
    (fun hr => hf.passed.trans (hs.passed c (hf.ready ▸ hr))) (.inr hf.passed)

/-! ## The register accesses -/

theorem Client.ready_eq_false {k : Client} :
    k.ready = false ↔ k.requests = [] ∨ 8 ≤ k.responses.length := by
  unfold Client.ready
  rw [Bool.and_eq_false_iff, Bool.not_eq_false', List.isEmpty_iff, decide_eq_false_iff_not, Nat.not_lt]
  rfl

theorem WindowLaw.submit (hs : WindowLaw s) (c : ClientId) (v : Word) : WindowLaw (submitWrite c v s) := by
  have hl := hs.windows c
  unfold submitWrite
  split
  · rename_i hlt
    have hroom : (s.client c).requests.length < 8 := hlt
    refine hs.modifyClient (f := fun k => { k with requests := k.requests ++ [k.requestOf v] })
      ⟨?_, hl.responses, hl.ignored, hl.inFlight, hl.line, hl.address⟩ rfl
      (fun hr => hs.passed c ?_) (.inr rfl)
    · rw [List.length_append, List.length_singleton]
      omega
    · rcases Client.ready_eq_false.mp hr with hn | hn
      · simp at hn
      · exact Client.ready_eq_false.mpr (.inr hn)
  · exact (hs.moves (.setSticky c _ s) rfl).settled

theorem WindowLaw.pop (hs : WindowLaw s) (c : ClientId) : WindowLaw (popWrite c s) := by
  have hl := hs.windows c
  unfold popWrite
  split
  · exact (hs.moves (.setSticky c _ s) rfl).settled
  · rename_i x rest hx
    have hlen := hl.responses
    rw [hx, List.length_cons] at hlen
    refine hs.modifyClient (f := fun k => { k with responses := rest })
      ⟨hl.requests, by dsimp only; omega, hl.ignored, hl.inFlight, hl.line, hl.address⟩ rfl
      (fun hr => hs.passed c ?_) (.inr rfl)
    rcases Client.ready_eq_false.mp hr with hn | hn
    · exact Client.ready_eq_false.mpr (.inl hn)
    · dsimp only at hn
      omega

theorem WindowLaw.respRead (hs : WindowLaw s) (c : ClientId) (i : Fin 4) : WindowLaw (respRead c i s) := by
  have hread : WindowLaw { s with readData := respWord (s.client c) i } := hs.same rfl rfl
  unfold Machine.respRead
  dsimp only
  split
  · exact (hread.moves (.setSticky c _ _) rfl).settled
  · exact hread

theorem State.withReadData_modifyClient (s : State) (c : ClientId) (f : Client → Client) (v : Word) :
    ({ s with readData := v }).modifyClient c f = { s.modifyClient c f with readData := v } := rfl

/-- R154: the read of CAUSE acknowledges a message. -/
theorem WindowLaw.causeRead (hs : WindowLaw s) (c : ClientId) : WindowLaw (causeRead c s) := by
  have hl := hs.windows c
  have hread : WindowLaw { s with readData := s.causeWord c } := hs.same rfl rfl
  unfold Machine.causeRead
  dsimp only
  split
  · rename_i hsent
    have harmed : WindowLaw (s.modifyClient c (fun k => { k with msgState := .armed })) := by
      refine hs.modifyClient (f := fun k => { k with msgState := .armed })
        ⟨hl.requests, hl.responses, hl.ignored, fun hf => ?_, fun _ => .inl rfl, hl.address⟩ rfl
        (hs.passed c) (.inr rfl)
      have hpending := hl.inFlight hf
      rw [hsent] at hpending
      cases hpending
    rw [State.withReadData_modifyClient]
    exact (harmed.same (t := { s.modifyClient c (fun k => { k with msgState := .armed }) with
      readData := s.causeWord c }) rfl rfl).settled
  · exact hread

/-- R156: a write of a notification setting takes the message back. -/
theorem Client.Lawful.resetMessage {k : Client} (hrequests : k.requests.length ≤ 8)
    (hresponses : k.responses.length ≤ 8) (hflight : k.msgInFlight = true → k.msgState = .pending)
    (hignored : k.msgIgnored = true → k.msgInFlight = true)
    (haddress : k.msgAddr &&& 3#32 = 0#32) : k.resetMessage.Lawful := by
  unfold Client.resetMessage
  split
  · rename_i hf
    exact ⟨hrequests, hresponses, fun _ => hf, hflight, fun _ => .inr rfl, haddress⟩
  · rename_i hf
    exact ⟨hrequests, hresponses, hignored, fun h => absurd h hf, fun _ => .inl rfl, haddress⟩

theorem Client.resetMessage_keeps (k : Client) : k.resetMessage.requests = k.requests ∧
    k.resetMessage.responses = k.responses ∧ k.resetMessage.passed = k.passed ∧
    k.resetMessage.msgInFlight = k.msgInFlight := by
  unfold Client.resetMessage
  split <;> exact ⟨rfl, rfl, rfl, rfl⟩

theorem WindowLaw.config {f : Client → Client} (hs : WindowLaw s) (c : ClientId)
    (hf : ∀ k : Client, (f k).requests = k.requests ∧ (f k).responses = k.responses ∧
      (f k).passed = k.passed ∧ (f k).msgInFlight = k.msgInFlight ∧ (f k).msgState = k.msgState ∧
      (f k).msgIgnored = k.msgIgnored)
    (haddress : (f (s.client c)).msgAddr &&& 3#32 = 0#32) : WindowLaw (configWrite c f s) := by
  have hl := hs.windows c
  obtain ⟨hreq, hresp, hpassed, hflight, hstate, hignored⟩ := hf (s.client c)
  obtain ⟨hreq', hresp', hpassed', hflight'⟩ := (f (s.client c)).resetMessage_keeps
  refine WindowLaw.settled (hs.modifyClient (f := fun k => (f k).resetMessage) ?_ (hflight'.trans hflight)
    (fun hr => (hpassed'.trans hpassed).trans (hs.passed c ?_)) (.inr (hpassed'.trans hpassed)))
  · refine Client.Lawful.resetMessage (hreq ▸ hl.requests) (hresp ▸ hl.responses) ?_ ?_ haddress
    · rw [hflight, hstate]
      exact hl.inFlight
    · rw [hignored, hflight]
      exact hl.ignored
  · have hready := Client.ready_eq_false.mp hr
    rw [hreq', hresp', hreq, hresp] at hready
    exact Client.ready_eq_false.mpr hready

theorem msgAddr_aligned (v : Word) : v &&& 0xFFFFFFFC#32 &&& 3#32 = 0#32 := by
  rw [BitVec.and_assoc]
  exact BitVec.and_zero

theorem WindowLaw.clientReset (hs : WindowLaw s) (c : ClientId) : WindowLaw (clientReset c s) := by
  have hl := hs.windows c
  obtain ⟨-, -, hpassed, hflight⟩ := Client.resetMessage_keeps { s.client c with
    requests := []
    responses := []
    passed := 0
    stage1 := 0
    stage2 := 0
    stage3 := 0
    sticky := Sticky.reset }
  exact WindowLaw.settled (hs.modifyClient (f := Client.clear)
    (Client.Lawful.resetMessage (Nat.zero_le _) (Nat.zero_le _) hl.inFlight hl.ignored hl.address) hflight
    (fun _ => hpassed) (.inl hpassed))

theorem WindowLaw.stage (hs : WindowLaw s) (c : ClientId) (i : Fin 3) (v : Word) :
    WindowLaw (stageWrite c i v s) := by
  unfold stageWrite
  refine hs.modifyMoves ?_
  split <;> exact ⟨rfl, rfl, rfl, rfl, rfl, rfl, rfl, .inl rfl⟩

/-! ## The taking of a request (R140) -/

/-- A request's owner leaves the Mirror Write Master. -/
theorem mwm_acts (s : State) : KeptByActs (fun t => t.mwm = s.mwm) where
  point := fun _ _ h => h
  event := fun _ _ h => by simpa using h
  addStation := fun _ _ _ _ _ _ h => by simpa using h
  removeStation := fun _ _ _ h => by simpa using h
  createPoint := fun _ _ _ _ _ _ _ _ h => h
  retirePoint := fun _ _ h => by simpa using h
  bind := fun _ _ _ _ _ _ _ _ h => by simpa using h
  detach := fun _ _ _ h => h
  unbind := fun _ _ _ h => by simpa using h
  resume := fun _ _ h => by simpa using h
  sendCommand := fun _ _ _ _ _ _ _ _ _ _ h => by simpa using h
  endQueued := fun _ _ _ h => by simpa using h
  endAccepted := fun _ _ _ h => by simpa using h
  mark := fun _ _ _ h => h
  collect := fun _ _ h => h

theorem Client.Lawful.withPassed {k : Client} (h : k.Lawful) (p : BitVec 4) :
    { k with passed := p }.Lawful := ⟨h.requests, h.responses, h.ignored, h.inFlight, h.line, h.address⟩

theorem Client.afterTaking_self (c : ClientId) (k : Client) : k.afterTaking c c = { k with passed := 0 } := by
  unfold Client.afterTaking
  rw [if_pos rfl]

/-- A mark that a taking leaves at another window is an old one, or the taken client's own. -/
theorem Client.afterTaking_marks {c d e : ClientId} {k : Client} (hdc : d ≠ c)
    (h : (k.afterTaking c d).passed.getLsbD e.val = true) : k.passed.getLsbD e.val = true ∨ e = c := by
  unfold Client.afterTaking at h
  rw [if_neg hdc] at h
  split at h
  · rw [BitVec.getLsbD_or, Bool.or_eq_true, BitVec.getLsbD_twoPow, Bool.and_eq_true, decide_eq_true_eq] at h
    exact h.imp_right (fun he => Fin.ext (of_decide_eq_true he.2).symm)
  · exact .inl h

theorem Client.afterTaking_ready (c d : ClientId) (k : Client) : (k.afterTaking c d).ready = k.ready := by
  rw [Client.afterTaking_passed]
  rfl

theorem Client.afterTaking_unready {c d : ClientId} {k : Client} (hdc : d ≠ c) (h : k.ready = false) :
    (k.afterTaking c d) = k := by
  unfold Client.afterTaking
  rw [if_neg hdc, h]
  rfl

/-- The order of the marks after a taking: the taken client stands behind the others. -/
def takenRank (rank : ClientId → Nat) (c e : ClientId) : Nat :=
  if e = c then rank 0 + rank 1 + rank 2 + rank 3 + 1 else rank e

theorem rank_lt_takenRank (rank : ClientId → Nat) {c d : ClientId} (hd : d ≠ c) :
    takenRank rank c d < takenRank rank c c := by
  unfold takenRank
  rw [if_neg hd, if_pos rfl]
  fin_cases d <;> dsimp <;> omega

/-- The window law when client `c` is answered: its window `k` holds no mark, the others pass `c`. -/
theorem WindowLaw.taken {c : ClientId} (hs : WindowLaw s) {old : ClientId → Client}
    (hother : ∀ d, d ≠ c → (s.client d).Moves (old d) ∧ t.client d = (old d).afterTaking c d)
    (hlaw : (t.client c).Lawful) (hflight : (t.client c).msgInFlight = (s.client c).msgInFlight)
    (hpassed : (t.client c).passed = 0) (hm : t.mwm = s.mwm) : WindowLaw t where
  windows := fun d => by
    by_cases hd : d = c
    · exact hd ▸ hlaw
    · obtain ⟨hmoves, ht⟩ := hother d hd
      rw [ht, Client.afterTaking_passed]
      exact (hmoves.lawful (hs.windows d)).withPassed _
  inFlight := fun d => by
    rw [hm, ← hs.inFlight d]
    by_cases hd : d = c
    · rw [hd, hflight]
    · obtain ⟨hmoves, ht⟩ := hother d hd
      rw [ht, Client.afterTaking_passed]
      exact hmoves.inFlight ▸ Iff.rfl
  passed := fun d hr => by
    by_cases hd : d = c
    · exact hd ▸ hpassed
    · obtain ⟨hmoves, ht⟩ := hother d hd
      rw [ht, Client.afterTaking_ready] at hr
      rw [ht, Client.afterTaking_unready hd hr, hmoves.passed]
      exact hs.passed d (hmoves.ready ▸ hr)
  order := by
    obtain ⟨rank, hrank⟩ := hs.order
    refine ⟨takenRank rank c, fun e d hde hr hbit => ?_⟩
    have hd : d ≠ c := by
      intro hd
      rw [hd, hpassed] at hbit
      simp at hbit
    obtain ⟨hmoves, ht⟩ := hother d hd
    rw [ht] at hbit hr
    by_cases he : e = c
    · rw [he]
      exact rank_lt_takenRank rank hd
    · have hold := (Client.afterTaking_marks hd hbit).resolve_right he
      have hlt := hrank e d hde (hmoves.ready ▸ Client.afterTaking_ready c d _ ▸ hr) (hmoves.passed ▸ hold)
      unfold takenRank
      rw [if_neg hd, if_neg he]
      exact hlt

theorem WindowLaw.take (hs : WindowLaw s) (c : ClientId) (isKind : Nat → Bool)
    {f : ClientId → Request → State → Answer} (hf : f ∈ requestOwners) :
    WindowLaw (takeRequest c isKind f s) := by
  unfold takeRequest
  split
  · exact hs
  rename_i r rest hr
  split
  · rename_i hready
    rw [Bool.and_eq_true, Bool.and_eq_true, decide_eq_true_eq] at hready
    have hl := hs.windows c
    have hroom : (s.client c).responses.length < 8 := hready.1.2
    have hlen : rest.length ≤ 8 := by
      have := hl.requests
      rw [hr, List.length_cons] at this
      omega
    have hacts : WindowsMove (s.modifyClient c (fun k => { k with requests := rest }))
        (f c r (s.modifyClient c (fun k => { k with requests := rest }))).state :=
      (WindowsMove.acts _).owner hf c r (.of_eq rfl)
    have hmwm : (f c r (s.modifyClient c (fun k => { k with requests := rest }))).state.mwm = s.mwm :=
      (mwm_acts _).owner hf c r rfl
    generalize f c r (s.modifyClient c (fun k => { k with requests := rest })) = a at hacts hmwm
    have hself := hacts c
    rw [State.client_modifyClient, if_pos rfl] at hself
    dsimp only
    refine WindowLaw.settled (hs.taken (c := c) (old := a.state.client) (fun d hd => ⟨?_, ?_⟩) ?_ ?_ ?_ hmwm)
    · have := hacts d
      rwa [State.client_modifyClient, if_neg hd] at this
    · rw [State.client_noteTaking, State.client_modifyClient, if_neg hd]
    all_goals rw [State.client_noteTaking, State.client_modifyClient, if_pos rfl, Client.afterTaking_self]
    · have hla := hself.lawful ⟨hlen, hl.responses, hl.ignored, hl.inFlight, hl.line, hl.address⟩
      refine ⟨hla.requests, ?_, hla.ignored, hla.inFlight, hla.line, hla.address⟩
      dsimp only
      rw [List.length_append, List.length_singleton, hself.responses]
      exact hroom
    · exact hself.inFlight
  · exact hs

/-! ## Resets and transactions -/

theorem Phase.drain_ignored {p : Phase} {x : Transaction} (h : p.drain.transaction = some x) :
    x.ignored = true := by
  cases p <;> simp only [Phase.drain, Phase.transaction, Option.some.injEq, reduceCtorEq] at h <;>
    exact h ▸ rfl

theorem Client.Lawful.softReset {k : Client} (h : k.Lawful) : k.softReset.Lawful :=
  ⟨Nat.zero_le _, Nat.zero_le _, nofun, nofun, fun _ => .inl rfl, h.address⟩

theorem Client.Lawful.reset : Client.reset.Lawful :=
  ⟨Nat.zero_le _, Nat.zero_le _, nofun, nofun, fun _ => .inl rfl, rfl⟩

theorem WindowLaw.softReset (hs : WindowLaw s) : WindowLaw (softReset s) := by
  have hk : ∀ d, (Machine.softReset s).client d = (s.client d).softReset := fun _ => Quad.get_map _ _ _
  refine hs.of (fun d => ?_) (fun d => ?_) (fun d _ => ?_) (fun d => .inl ?_)
  · exact (hk d).symm ▸ (hs.windows d).softReset
  · rw [hk]
    refine ⟨nofun, fun ⟨x, hx, _, hi⟩ => ?_⟩
    rw [Phase.drain_ignored (p := s.mwm.phase) hx] at hi
    cases hi
  · exact (hk d).symm ▸ rfl
  · exact (hk d).symm ▸ rfl

theorem WindowLaw.hardwareReset (hs : WindowLaw s) : WindowLaw (hardwareReset s) := by
  have hk : ∀ d, (Machine.hardwareReset s).client d = Client.reset := fun _ => Quad.get_all _ _
  refine hs.of (fun d => ?_) (fun d => ?_) (fun d _ => ?_) (fun d => .inl ?_)
  · exact (hk d).symm ▸ .reset
  · rw [hk]
    exact ⟨nofun, fun ⟨_, hx, _⟩ => nomatch hx⟩
  · exact (hk d).symm ▸ rfl
  · exact (hk d).symm ▸ rfl

/-- R128, R154: the message of a client enters the bus. -/
theorem WindowLaw.messageStart (hs : WindowLaw s) : WindowLaw (messageWriteStart s) := by
  unfold messageWriteStart
  split
  · rename_i c hidle hnext
    have hl := hs.windows c
    have hwants : (s.client c).wantsMessage = true :=
      List.find?_some (p := fun c => (s.client c).wantsMessage) hnext
    have hpending : (s.client c).msgState = .pending := by
      unfold Client.wantsMessage at hwants
      rw [Bool.and_eq_true] at hwants
      exact eq_of_beq hwants.1
    dsimp only
    generalize ht : startTransaction _ _ _ _ _ _ = t
    have hclient : ∀ d, t.client d = if d = c then { s.client c with msgInFlight := true }
        else s.client d := fun d => by
      rw [← ht]
      exact State.client_modifyClient s c d (fun k => { k with msgInFlight := true })
    have hself := hclient c
    rw [if_pos rfl] at hself
    refine hs.window (c := c) (fun d hd => ?_) ?_ (fun d => ?_) (fun hr => ?_) (.inr ?_)
    · rw [hclient, if_neg hd]
      exact .refl _
    · rw [hself]
      exact ⟨hl.requests, hl.responses, fun _ => rfl, fun _ => hpending, hl.line, hl.address⟩
    · -- The transaction in flight is the message of `c`, and there was none before.
      have howner : (∃ x, t.mwm.phase.transaction = some x ∧ x.owner = .message d ∧ x.ignored = false) ↔
          d = c := by
        rw [← ht]
        constructor
        · rintro ⟨x, hx, ho, _⟩
          cases hx
          cases ho
          rfl
        · rintro rfl
          exact ⟨_, rfl, rfl, rfl⟩
      rw [howner, hclient]
      split
      · rename_i hd
        exact ⟨fun _ => hd, fun _ => rfl⟩
      · rename_i hd
        rw [hs.inFlight d, hidle]
        exact ⟨fun ⟨_, hx, _⟩ => (nomatch hx), fun h => absurd h hd⟩
    · rw [hself] at hr ⊢
      exact hs.passed c hr
    · rw [hself]
  · exact hs

theorem Client.Lawful.messageEnd {k : Client} (h : k.Lawful) (hf : k.msgInFlight = true)
    (e : Option WriteError) : (k.messageEnd e).Lawful ∧ (k.messageEnd e).msgInFlight = false ∧
      (k.messageEnd e).passed = k.passed ∧ (k.messageEnd e).ready = k.ready := by
  have hpending := h.inFlight hf
  unfold Client.messageEnd
  split
  · exact ⟨⟨h.requests, h.responses, nofun, nofun, fun _ => .inl rfl, h.address⟩, rfl, rfl, rfl⟩
  · rename_i hi
    -- In LINE mode the message in flight would be ignored.
    have hline : k.mode ≠ .line := fun hm => by
      rcases h.line hm with ha | hig
      · rw [hpending] at ha
        cases ha
      · exact hi hig
    split
    all_goals exact ⟨⟨h.requests, h.responses, fun hig => absurd hig hi, nofun, fun hm => absurd hm hline,
      h.address⟩, rfl, rfl, rfl⟩

theorem WindowsMove.mirrorEndOk (b : Nat) (final : Bool) (s : State) :
    WindowsMove s (mirrorEndOk b final s) := .of_eq (by simp)

theorem WindowsMove.mirrorEndError (b : Nat) (e : WriteError) (s : State) :
    WindowsMove s (mirrorEndError b e s) := by
  unfold Machine.mirrorEndError
  dsimp only
  split
  · exact .of_eq rfl
  · split
    · exact (WindowsMove.of_eq rfl).trans (.setSticky _ _ _)
    · exact .of_eq rfl
    · exact .of_eq (by simp)
    · exact .of_eq (by simp)

/-- R133, R154: the end of a transaction. -/
theorem WindowLaw.endTransaction (hs : WindowLaw s) {x : Transaction}
    (hx : s.mwm.phase.transaction = some x) (e : Option WriteError) : WindowLaw (endTransaction x e s) := by
  have hflight : ∀ d, (s.client d).msgInFlight = true ↔ x.owner = .message d ∧ x.ignored = false := fun d => by
    rw [hs.inFlight d, hx]
    exact ⟨fun ⟨y, hy, h⟩ => by cases hy; exact h, fun h => ⟨x, rfl, h⟩⟩
  unfold Machine.endTransaction
  dsimp only
  split
  · rename_i hi
    exact hs.movesTo (.of_eq rfl) (fun d => ⟨fun h => absurd hi (by simp [((hflight d).mp h).2]),
      fun ⟨_, hy, _⟩ => nomatch hy⟩)
  rename_i hi
  refine WindowLaw.settled ?_
  cases ho : x.owner with
  | mirror b final =>
    have hnone : ∀ {t : State}, t.mwm = (setPhase .idle s).mwm → ∀ d, (s.client d).msgInFlight = true ↔
        ∃ y, t.mwm.phase.transaction = some y ∧ y.owner = .message d ∧ y.ignored = false :=
      fun hm d => ⟨fun h => (by cases ho.symm.trans ((hflight d).mp h).1),
        fun ⟨_, hy, _⟩ => (by rw [hm] at hy; exact nomatch hy)⟩
    cases e with
    | none =>
      exact hs.movesTo ((WindowsMove.of_eq (t := setPhase .idle s) rfl).trans
        (.mirrorEndOk b final (setPhase .idle s))) (hnone (by simp [handOn]))
    | some e =>
      exact hs.movesTo ((WindowsMove.of_eq (t := setPhase .idle s) rfl).trans
        (.mirrorEndError b e (setPhase .idle s))) (hnone (by simp [handOn]))
  | message c =>
    have hf := (hflight c).mpr ⟨ho, by simpa using hi⟩
    obtain ⟨hlaw, hnot, hpassed, hready⟩ := (hs.windows c).messageEnd hf e
    show WindowLaw ((setPhase .idle s).modifyClient c (fun k => k.messageEnd e))
    have hclient : ∀ d, ((setPhase .idle s).modifyClient c (fun k => k.messageEnd e)).client d =
        if d = c then (s.client c).messageEnd e else s.client d :=
      fun d => State.client_modifyClient _ c d _
    have hself := hclient c
    rw [if_pos rfl] at hself
    refine hs.window (c := c) (fun d hd => ?_) (hself ▸ hlaw) (fun d => ?_) (fun hr => ?_) (.inr ?_)
    · rw [hclient, if_neg hd]
      exact .refl _
    · refine ⟨fun h => ?_, fun ⟨_, hy, _⟩ => nomatch hy⟩
      rw [hclient] at h
      split at h
      · rw [hnot] at h
        cases h
      · rename_i hd
        have := ((hflight d).mp h).1
        rw [ho] at this
        cases this
        exact absurd rfl hd
    · rw [hself] at hr ⊢
      exact hpassed.trans (hs.passed c (hready ▸ hr))
    · rw [hself, hpassed]

theorem WindowLaw.busEnd (hs : WindowLaw s) (a : Bool) (e : EndStatus) : WindowLaw (busEnd a e s) := by
  unfold Machine.busEnd
  split
  · rename_i hx
    exact hs.endTransaction (hx ▸ rfl) _
  · rename_i hx
    split
    · exact hs.endTransaction (hx ▸ rfl) _
    · exact hs
  · exact hs
  · exact hs

theorem WindowLaw.busTimeout (hs : WindowLaw s) : WindowLaw (busTimeout s) := by
  unfold Machine.busTimeout
  split
  · rename_i hx
    exact hs.endTransaction hx _
  · exact hs

theorem WindowLaw.mirrorStart (hs : WindowLaw s) : WindowLaw (mirrorWriteStart s) := by
  unfold mirrorWriteStart
  split
  · rename_i hidle _ _
    split
    · exact hs
    split
    · exact hs
    · refine hs.movesTo (.of_eq rfl) (fun d => ?_)
      rw [hs.inFlight d, hidle]
      refine ⟨fun ⟨_, hx, _⟩ => (nomatch hx), ?_⟩
      rintro ⟨x, hx, ho, _⟩
      cases hx
      cases ho
  · exact hs

theorem WindowLaw.grant (hs : WindowLaw s) : WindowLaw (busGrant s) := by
  refine hs.same (by simp) ?_
  unfold busGrant
  split
  · rfl
  · dsimp only
    split
    · rename_i hx
      rw [hx]
      rfl
    · rfl

theorem WindowLaw.accept (hs : WindowLaw s) : WindowLaw (busAccept s) := by
  refine hs.same (by simp) ?_
  unfold busAccept
  split
  · rename_i hx
    rw [hx]
    rfl
  · rfl

theorem WindowLaw.meanings : Meanings (fun s t => WindowLaw s → WindowLaw t) where
  idle := fun _ hs => hs
  take := fun _ c isKind _ hf hs => hs.take c isKind hf
  submit := fun _ c v hs => hs.submit c v
  respRead := fun _ c i hs => hs.respRead c i
  pop := fun _ c hs => hs.pop c
  causeRead := fun _ c hs => hs.causeRead c
  lowRead := fun _ hs => hs.same rfl rfl
  causeWrite := fun s c _ hs => hs.modifyMoves (.sticky _ _)
  causeMask := fun s c _ hs => WindowLaw.settled
    (hs.modifyMoves (c := c) ⟨rfl, rfl, rfl, rfl, rfl, rfl, rfl, .inl rfl⟩)
  linkWatch := fun s c _ hs => WindowLaw.settled
    (hs.modifyMoves (c := c) ⟨rfl, rfl, rfl, rfl, rfl, rfl, rfl, .inl rfl⟩)
  irqMode := fun _ c _ hs => hs.config c (fun _ => ⟨rfl, rfl, rfl, rfl, rfl, rfl⟩) (hs.windows c).address
  msgAddr := fun _ c v hs => hs.config c (fun _ => ⟨rfl, rfl, rfl, rfl, rfl, rfl⟩) (msgAddr_aligned v)
  msgData := fun _ c _ hs => hs.config c (fun _ => ⟨rfl, rfl, rfl, rfl, rfl, rfl⟩) (hs.windows c).address
  msgKey := fun _ c _ hs => hs.config c (fun _ => ⟨rfl, rfl, rfl, rfl, rfl, rfl⟩) (hs.windows c).address
  clientReset := fun _ c hs => hs.clientReset c
  stage := fun _ c i v hs => hs.stage c i v
  softReset := fun _ hs => hs.softReset
  hardwareReset := fun _ hs => hs.hardwareReset
  release := fun s hs => by
    unfold resetNRelease
    split
    · exact hs
    · exact hs.same rfl rfl
  tick := fun _ hs => hs.same rfl rfl
  enable := fun s l hs => hs.moves (.enable l s) (by simp)
  disable := fun s l hs => hs.moves (.disable l s) (by simp)
  rate := fun s l v hs => hs.moves (.rate l v s) (by unfold rateWrite; dsimp only; split <;> rfl)
  timing := fun _ _ _ hs => hs.same rfl rfl
  poll := fun _ _ _ hs => hs.same rfl rfl
  status := fun _ _ _ hs => hs.same rfl rfl
  mask := fun _ l _ hs => WindowLaw.settled (hs.same rfl rfl)
  busConfig := fun _ _ hs => hs.same rfl rfl
  freshness := fun _ _ hs => hs.same (by simp) (by simp)
  completion := fun s h hs => hs.moves (.completion h s) (by simp)
  visit := fun _ _ hs => hs.same (by simp) (by simp)
  command := fun _ _ hs => hs.same (by simp) (by simp)
  frameSent := fun _ _ hs => hs.same (by simp) (by simp)
  response := fun s l hs => hs.moves (.response l s) (by simp)
  character := fun s l data mark stop hs => hs.moves (.character l data mark stop s) (by simp)
  gap := fun s l hs => hs.moves (.gap l s) (by simp)
  quiet := fun _ _ hs => hs.same (by simp) (by simp)
  pollGap := fun _ _ hs => hs.same (by simp) (by simp)
  startBit := fun s l a b hs => hs.moves (.startBit l a b s) (by simp)
  mirrorStart := fun _ hs => hs.mirrorStart
  messageStart := fun _ hs => hs.messageStart
  grant := fun _ hs => hs.grant
  ungrant := fun _ hs => hs.same rfl rfl
  accept := fun _ hs => hs.accept
  busEnd := fun _ a e hs => hs.busEnd a e
  busTimeout := fun _ hs => hs.busTimeout

/-- R140: of the ready requests the one of the least rank may be taken. -/
theorem WindowLaw.someTurn (hs : WindowLaw s) (h : ∃ c, (s.client c).ready = true) :
    ∃ c, (s.client c).ready = true ∧ s.mayTake c = true := by
  obtain ⟨rank, hrank⟩ := hs.order
  have hne : (Finset.univ.filter (fun c => (s.client c).ready = true)).Nonempty :=
    h.imp (fun c hc => by simpa using hc)
  obtain ⟨c, hc, hmin⟩ := Finset.exists_min_image _ rank hne
  refine ⟨c, by simpa using hc, (s.mayTake_iff c).mpr (fun d hd => ?_)⟩
  intro hreq hroom
  by_contra hbit
  have hd' : (s.client d).ready = true := by
    rw [← Bool.not_eq_false, Client.ready_eq_false]
    rintro (hn | hn)
    · exact hreq hn
    · omega
  have hlt := hrank c d hd hd' (by simpa using hbit)
  exact absurd (hmin d (by simpa using hd')) (Nat.not_le.mpr hlt)

end

/-- Settles O53: every meaning keeps the window law, and of the ready requests the least may be taken. -/
theorem stepKeepsWindowLaw : Obligations.StepKeepsWindowLaw :=
  ⟨fun _ _ hs ht => WindowLaw.meanings.keeps (fun _ _ hp => hp.same rfl rfl) hs ht,
    fun _ hs h => hs.someTurn h⟩

end Sys2Proof.Machine
end


section
/-! The queue of commands, the resets and the time base (O1 to O4), and the laws at reset (O50). -/

namespace Sys2Proof.Machine

/-! ## RESET_N low -/

theorem inService_of_low {s : State} (hs : s.resetN = false) (f : State → State) :
    inService s f = .next s := by
  rw [inService, if_neg (by rw [hs]; exact Bool.false_ne_true)]

theorem readInService_of_low {s : State} (hs : s.resetN = false) (f : State → State) :
    readInService s f = .next { s with readData := 0 } := by
  rw [readInService, if_neg (by rw [hs]; exact Bool.false_ne_true)]

/-- R159, R162: the reset pin, the arbiter's pin and the register reads apart, every meaning is a command in
service. -/
theorem exec_of_low {s : State} (hs : s.resetN = false) {i : Instr} (hreset : i ≠ .hardwareReset)
    (hrelease : i ≠ .resetNRelease) (hgrant : i ≠ .busGrant) (hungrant : i ≠ .bgntNDeasserted)
    (hresp : ∀ c j, i ≠ .respRead c j) (hcause : ∀ c, i ≠ .causeRead c) : exec i s = .next s := by
  cases i with
  | hardwareReset => exact absurd rfl hreset
  | resetNRelease => exact absurd rfl hrelease
  | busGrant => exact absurd rfl hgrant
  | bgntNDeasserted => exact absurd rfl hungrant
  | respRead c j => exact absurd rfl (hresp c j)
  | causeRead c => exact absurd rfl (hcause c)
  | _ => exact inService_of_low hs _

/-! ## The resets -/

theorem exec_resetNRelease_low {s : State} (hs : s.resetN = false) :
    exec .resetNRelease s = .next { s with resetN := true, now := 0 } := by
  show Host.Outcome.next (resetNRelease s) = _
  rw [resetNRelease, if_neg (by rw [hs]; exact Bool.false_ne_true)]

theorem exec_resetNRelease_high {s : State} (hs : s.resetN = true) :
    exec .resetNRelease s = .next s := by
  show Host.Outcome.next (resetNRelease s) = _
  rw [resetNRelease, if_pos hs]

theorem readRegister_of_low {s : State} (hs : s.resetN = false) (o : BitVec 10) : readRegister s o = 0 := by
  rw [readRegister, if_neg (by rw [hs]; exact Bool.false_ne_true)]

/-! ## Deadlines -/

/-- R158: seen from its start a deadline is due after its length, however the count wraps. -/
theorem Deadline.due_iff (start : BitVec 32) (length k : Nat) (hk : k < 2 ^ 32) :
    (⟨start, length⟩ : Deadline).due (start + BitVec.ofNat 32 k) = true ↔ length ≤ k := by
  have hdiff : start + BitVec.ofNat 32 k - start = BitVec.ofNat 32 k := by
    rw [BitVec.add_comm, BitVec.add_sub_cancel]
  unfold Deadline.due
  rw [decide_eq_true_eq, hdiff, BitVec.toNat_ofNat, Nat.mod_eq_of_lt hk]

/-! ## The laws at reset -/

theorem windowLaw_reset : WindowLaw State.reset := by
  have hk : ∀ c, State.reset.client c = Client.reset := fun c => Quad.get_all _ c
  refine ⟨fun c => ?_, fun c => ?_, fun c _ => ?_, fun _ => 0, fun c d _ _ hbit => ?_⟩
  · exact (hk c).symm ▸ .reset
  · rw [hk]
    exact ⟨nofun, fun ⟨_, hx, _⟩ => nomatch hx⟩
  · exact (hk c).symm ▸ rfl
  · rw [hk, show Client.reset.passed = 0#4 from rfl, BitVec.getLsbD_zero] at hbit
    cases hbit

theorem link_reset (l : LinkId) : State.reset.link l = Link.reset := Quad.get_all _ l

theorem commandLaw_reset : CommandLaw State.reset :=
  CommandLaw.empty rfl rfl (fun l => (link_reset l).symm ▸ rfl) (fun l => Quad.get_all _ l)
    (fun c => Quad.get_all _ c)

theorem directoryLaw_reset : DirectoryLaw State.reset :=
  DirectoryLaw.empty rfl rfl (fun l => Quad.get_all _ l) (fun l => (link_reset l).symm ▸ rfl)

theorem tagLaw_reset : TagLaw State.reset :=
  tagLaw_iff.mpr (TagLawBut.empty rfl rfl rfl rfl (fun l => (link_reset l).symm ▸ rfl))

theorem messagesSettled_reset : MessagesSettled State.reset :=
  (messagesSettled_hardwareReset State.reset).same rfl rfl

/-- Settles O1. -/
theorem stepRunsFrontCommand : Obligations.StepRunsFrontCommand :=
  ⟨fun _ _ _ => step_front, fun _ => step_idle⟩

/-- Settles O2: while RESET_N is low, every other command is one in service. -/
theorem hardwareResetLowAndRelease : Obligations.HardwareResetLowAndRelease := by
  refine ⟨fun s => ⟨rfl, exec_resetNRelease_low, exec_resetNRelease_high⟩, fun s hs => ?_⟩
  refine ⟨fun i => exec_of_low hs, fun c j => readInService_of_low hs _, fun c => readInService_of_low hs _,
    readRegister_of_low hs, fun c => ?_, fun t ht => ?_⟩
  · rw [State.irqAsserted, hs, Bool.false_and, Bool.false_and]
  · obtain rfl : hardwareReset s = t := Host.Outcome.next.inj ht
    refine ⟨rfl, rfl, fun l => ?_⟩
    rw [show (hardwareReset s).link l = Link.reset from Quad.get_all _ l]
    exact ⟨rfl, rfl⟩

/-- Settles O3, by the definition of soft reset. -/
theorem softResetKeepsTheSettings : Obligations.SoftResetKeepsTheSettings := by
  intro s hs
  rw [show exec .softReset s = .next (softReset s) from inService_of_resetN hs _]
  unfold softReset
  rw [hs]
  cases hp : s.mwm.phase <;> rfl

/-- Settles O4. -/
theorem timeBaseCountsAndDeadlinesWrap : Obligations.TimeBaseCountsAndDeadlinesWrap :=
  ⟨fun _ hs => inService_of_resetN hs _, fun _ hs => if_pos hs, Deadline.due_iff⟩

/-- Settles O50. -/
theorem lawsHoldAtReset : Obligations.LawsHoldAtReset :=
  ⟨Table.All.empty _, MirrorLaw.empty rfl rfl, windowLaw_reset, messagesSettled_reset,
    fun l => (link_reset l).symm ▸ Link.lawful_reset, tablesLaw_iff.mpr (FiveTables.empty rfl rfl rfl rfl rfl),
    directoryLaw_reset, BindingChainLaw.empty rfl rfl, commandLaw_reset, tagLaw_reset⟩

end Sys2Proof.Machine
end


section
/-! The notification registers (O7 to O9), what register writes store (O10) and what registers read (O11). -/

namespace Sys2Proof.Machine

/-! ## The notify condition (R148, R150) -/

theorem Link.raised_iff (k : Link) :
    k.raised = true ↔ ∃ i, i < 11 ∧ k.status.getLsbD i = true ∧ k.mask.getLsbD i = true := by
  unfold Link.raised
  rw [bne_iff_ne, ne_eq, ← not_forall_not]
  refine not_congr ⟨fun h i hi => ?_, fun h => BitVec.eq_of_getLsbD_eq (fun i hi => ?_)⟩
  · obtain ⟨-, hstatus, hmask⟩ := hi
    have hbit := congrArg (fun w => w.getLsbD i) h
    simp [hstatus, hmask] at hbit
  · rw [BitVec.getLsbD_and]
    simpa [hi] using h i

theorem linkEvent_iff (links : Quad Link) (watch : BitVec 4) :
    linkEvent links watch = true ↔ ∃ l : LinkId, watch.getLsbD l.val = true ∧ (links.get l).raised = true := by
  unfold linkEvent
  simp only [Bool.or_eq_true, Bool.and_eq_true, Fin.exists_fin_succ, or_assoc]
  simp [Quad.get]

/-- Settles O7. -/
theorem causeRegister : Obligations.CauseRegister := by
  intro s c hs
  rw [show exec (.causeRead c) s = .next (causeRead c s) from readInService_of_resetN hs _]
  unfold causeRead
  exact ⟨fun h => congrArg Host.Outcome.next (if_neg h), fun h => congrArg Host.Outcome.next (if_pos h),
    fun v => inService_of_resetN hs _⟩

theorem irqAsserted_iff (s : State) (c : ClientId) : s.irqAsserted c = true ↔
    s.resetN = true ∧ (s.client c).mode = .line ∧ s.notify c = true := by
  unfold State.irqAsserted
  rw [Bool.and_eq_true, Bool.and_eq_true, beq_iff_eq, and_assoc]

/-- Settles O8: the causes bit by bit, the notify condition and the settling. -/
theorem notifyConditionLineAndMessage : Obligations.NotifyConditionLineAndMessage := by
  refine ⟨fun s c => ?_, fun s => ⟨settle_client s, rfl⟩⟩
  obtain ⟨hready, hlink, hdone, hmirror, hmessage, hoverrun, hunderread⟩ := causes_bits (s.client c) s.links
  refine ⟨hready, ?_, hdone, hmirror, hmessage, hoverrun, hunderread, notify_iff _ _, irqAsserted_iff s c⟩
  unfold State.causes
  rw [hlink, linkEvent_iff]
  exact exists_congr (fun l => and_congr_right' (Link.raised_iff (s.link l)))

/-! ## The notification settings and client reset (R146, R156) -/

theorem Client.resetMessage_inFlight {k : Client} (h : k.msgInFlight = true) :
    k.resetMessage = { k with msgIgnored := true } := if_pos h

theorem Client.resetMessage_quiet {k : Client} (h : k.msgInFlight = false) :
    k.resetMessage = { k with msgState := .armed } := if_neg (h ▸ Bool.false_ne_true)

theorem configWrite_quiet {s : State} {c : ClientId} {f : Client → Client}
    (h : (f (s.client c)).msgInFlight = false) :
    configWrite c f s = settle (s.modifyClient c (fun k => { f k with msgState := .armed })) :=
  congrArg settle (State.modifyClient_congr (Client.resetMessage_quiet h))

theorem configWrite_inFlight {s : State} {c : ClientId} {f : Client → Client}
    (h : (f (s.client c)).msgInFlight = true) :
    configWrite c f s = settle (s.modifyClient c (fun k => { f k with msgIgnored := true })) :=
  congrArg settle (State.modifyClient_congr (Client.resetMessage_inFlight h))

/-- Settles O9: each setting is a configuration write, with or without a write in flight. -/
theorem notificationSettingsAndClientReset : Obligations.NotificationSettingsAndClientReset := by
  refine ⟨fun s c v hs => ⟨inService_of_resetN hs _, inService_of_resetN hs _, fun hf => ?_, fun hf => ?_⟩,
    fun s c hs => ?_⟩
  · exact ⟨(inService_of_resetN hs _).trans (congrArg Host.Outcome.next (configWrite_quiet hf)),
      (inService_of_resetN hs _).trans (congrArg Host.Outcome.next (configWrite_quiet hf)),
      (inService_of_resetN hs _).trans (congrArg Host.Outcome.next (configWrite_quiet hf)),
      (inService_of_resetN hs _).trans (congrArg Host.Outcome.next (configWrite_quiet hf))⟩
  · exact ⟨(inService_of_resetN hs _).trans (congrArg Host.Outcome.next (configWrite_inFlight hf)),
      (inService_of_resetN hs _).trans (congrArg Host.Outcome.next (configWrite_inFlight hf)),
      (inService_of_resetN hs _).trans (congrArg Host.Outcome.next (configWrite_inFlight hf)),
      (inService_of_resetN hs _).trans (congrArg Host.Outcome.next (configWrite_inFlight hf))⟩
  · refine (inService_of_resetN hs _).trans
      (congrArg Host.Outcome.next (congrArg settle (State.modifyClient_congr ?_)))
    unfold Client.clear Client.resetMessage
    cases hf : (s.client c).msgInFlight <;> rfl

/-! ## The register window (R162) -/

theorem decodeOffset_common {o : BitVec 10} (h : o.toNat < 0x40) :
    decodeOffset o = decodeCommonReg (o.toNat / 4) := if_pos h

theorem decodeOffset_link {o : BitVec 10} {l : LinkId} {a : Nat} (ha : a < 0x20)
    (h : o.toNat = 0x40 + 0x20 * l.val + a) : decodeOffset o = decodeLinkReg l (a / 4) := by
  have hl := l.isLt
  have hblock : Fin.ofNat 4 ((o.toNat - 0x40) / 0x20) = l := Fin.ext (by
    show (o.toNat - 0x40) / 0x20 % 4 = l.val
    omega)
  have hword : (o.toNat - 0x40) % 0x20 / 4 = a / 4 := by omega
  rw [decodeOffset, if_neg (by omega), if_pos (by omega), hblock, hword]

theorem decodeOffset_between {o : BitVec 10} (h : 0xC0 ≤ o.toNat) (h' : o.toNat < 0x200) :
    decodeOffset o = .undefined := by
  rw [decodeOffset, if_neg (by omega), if_neg (by omega), if_pos h']

theorem decodeOffset_client {o : BitVec 10} {c : ClientId} {a : Nat} (ha : a < 0x80)
    (h : o.toNat = 0x200 + 0x80 * c.val + a) : decodeOffset o = decodeClientReg c (a / 4) := by
  have hc := c.isLt
  have hwindow : Fin.ofNat 4 ((o.toNat - 0x200) / 0x80) = c := Fin.ext (by
    show (o.toNat - 0x200) / 0x80 % 4 = c.val
    omega)
  have hword : (o.toNat - 0x200) % 0x80 / 4 = a / 4 := by omega
  rw [decodeOffset, if_neg (by omega), if_neg (by omega), if_neg (by omega), hwindow, hword]

theorem toNat_linkOffset (l : LinkId) {a : Nat} (ha : a < 0x60) :
    (BitVec.ofNat 10 (0x40 + a) + BitVec.ofNat 10 (0x20 * l.val)).toNat = 0x40 + 0x20 * l.val + a := by
  have hl := l.isLt
  rw [BitVec.toNat_add, BitVec.toNat_ofNat, BitVec.toNat_ofNat]
  omega

theorem toNat_clientOffset (c : ClientId) {a : Nat} (ha : a < 0x80) :
    (BitVec.ofNat 10 (0x200 + a) + BitVec.ofNat 10 (0x80 * c.val)).toNat = 0x200 + 0x80 * c.val + a := by
  have hc := c.isLt
  rw [BitVec.toNat_add, BitVec.toNat_ofNat, BitVec.toNat_ofNat]
  omega

/-- R162: bits 1 and 0 of an offset are ignored. -/
theorem toNat_aligned (o : BitVec 10) : (o &&& 0x3FC#10).toNat = o.toNat / 4 * 4 := by
  have hshift : o &&& 0x3FC#10 = (o >>> 2) <<< 2 := by
    ext i hi
    interval_cases i <;> simp
  have ho := o.isLt
  rw [hshift, BitVec.toNat_shiftLeft, BitVec.toNat_ushiftRight, Nat.shiftRight_eq_div_pow,
    Nat.shiftLeft_eq]
  omega

theorem decodeOffset_aligned (o : BitVec 10) : decodeOffset (o &&& 0x3FC#10) = decodeOffset o := by
  have ha := toNat_aligned o
  unfold decodeOffset
  rw [ha]
  have hword : o.toNat / 4 * 4 / 4 = o.toNat / 4 := by omega
  have hlink : (o.toNat / 4 * 4 - 0x40) / 0x20 = (o.toNat - 0x40) / 0x20 := by omega
  have hlinkWord : (o.toNat / 4 * 4 - 0x40) % 0x20 / 4 = (o.toNat - 0x40) % 0x20 / 4 := by omega
  have hclient : (o.toNat / 4 * 4 - 0x200) / 0x80 = (o.toNat - 0x200) / 0x80 := by omega
  have hclientWord : (o.toNat / 4 * 4 - 0x200) % 0x80 / 4 = (o.toNat - 0x200) % 0x80 / 4 := by omega
  have hbound (n : Nat) : o.toNat / 4 * 4 < 4 * n ↔ o.toNat < 4 * n := by omega
  simp only [hword, hlink, hlinkWord, hclient, hclientWord, hbound 0x10, hbound 0x30, hbound 0x80]

/-! ## What the writes store (R103 to R105, R129) -/

section

variable {s : State}

theorem exec_registerWrite (hs : s.resetN = true) (o : BitVec 10) (v : Word) :
    exec (.registerWrite o v) s = .next (registerWrite o v s) := inService_of_resetN hs _

theorem registerWrite_link {o : BitVec 10} {l : LinkId} {r : LinkReg} (h : decodeOffset o = .link l r)
    (v : Word) (s : State) : registerWrite o v s = linkWrite l r v s := by
  unfold registerWrite
  rw [h]

theorem registerWrite_client {o : BitVec 10} {c : ClientId} {r : ClientReg}
    (h : decodeOffset o = .client c r) (v : Word) (s : State) :
    registerWrite o v s = clientWrite c r v s := by
  unfold registerWrite
  rw [h]

theorem registerWrite_undefined {o : BitVec 10} (h : decodeOffset o = .undefined) (v : Word) (s : State) :
    registerWrite o v s = s := by
  unfold registerWrite
  rw [h]

theorem burstLimitOf_eq (v : BitVec 4) :
    burstLimitOf v = if v = 0#4 then 1 else if 8 < v.toNat then 8 else v := by
  unfold burstLimitOf atLeastOne
  by_cases h : v = 0#4
  · subst h
    rfl
  · have hz : ¬v = 0 := h
    simp only [h, hz, if_false]

theorem lineSizeOf_eq (v : Word) (old : LineSize) : lineSizeOf v old =
    if fieldOf v 0 2 = 0 then .l16
    else if fieldOf v 0 2 = 1 then .l32
    else if fieldOf v 0 2 = 2 then .l64
    else old := by
  unfold lineSizeOf
  match fieldOf v 0 2 with
  | 0 => rfl
  | 1 => rfl
  | 2 => rfl
  | n + 3 =>
    have h0 : n + 3 ≠ 0 := by omega
    have h1 : n + 3 ≠ 1 := by omega
    have h2 : n + 3 ≠ 2 := by omega
    simp only [h0, h1, h2, if_false]

theorem rateWrite_eq (l : LinkId) (v : Word) : rateWrite l v s =
    if v.extractLsb' 0 10 = 0#10 ∧ (s.link l).activity ≠ .disabled then
      settle (s.modifyLink l (fun k => { k with status := k.status ||| 0x400#11 }))
    else s.modifyLink l (fun k => { k with config := { k.config with divisor := v.extractLsb' 0 10 } }) := by
  have hrunning : (s.link l).running = true ↔ (s.link l).activity ≠ .disabled := by
    unfold Link.running
    rw [bne_iff_ne]
  unfold rateWrite
  simp only [hrunning]
  rfl

theorem undefined_link {o : BitVec 10} {l : LinkId} (h : 0x058 + 0x20 * l.val ≤ o.toNat)
    (h' : o.toNat ≤ 0x05F + 0x20 * l.val) : decodeOffset o = .undefined := by
  rw [decodeOffset_link (l := l) (a := o.toNat - (0x40 + 0x20 * l.val)) (by omega) (by omega)]
  have hw : (o.toNat - (0x40 + 0x20 * l.val)) / 4 = 6 ∨ (o.toNat - (0x40 + 0x20 * l.val)) / 4 = 7 := by omega
  rcases hw with hw | hw <;> rw [hw] <;> rfl

theorem undefined_client {o : BitVec 10} {c : ClientId} (h : 0x248 + 0x80 * c.val ≤ o.toNat)
    (h' : o.toNat ≤ 0x27F + 0x80 * c.val) : decodeOffset o = .undefined := by
  rw [decodeOffset_client (c := c) (a := o.toNat - (0x200 + 0x80 * c.val)) (by omega) (by omega)]
  obtain ⟨n, hn⟩ : ∃ n, (o.toNat - (0x200 + 0x80 * c.val)) / 4 = n + 18 :=
    ⟨(o.toNat - (0x200 + 0x80 * c.val)) / 4 - 18, by omega⟩
  rw [hn]
  rfl

/-- R162: the offsets of no register. -/
theorem decodeOffset_undefined {o : BitVec 10} (h :
    (0x020 ≤ o.toNat ∧ o.toNat ≤ 0x03F) ∨
    (∃ l : LinkId, 0x058 + 0x20 * l.val ≤ o.toNat ∧ o.toNat ≤ 0x05F + 0x20 * l.val) ∨
    (0x0B8 ≤ o.toNat ∧ o.toNat ≤ 0x1FF) ∨
    ∃ c : ClientId, 0x248 + 0x80 * c.val ≤ o.toNat ∧ o.toNat ≤ 0x27F + 0x80 * c.val) :
    decodeOffset o = .undefined := by
  rcases h with ⟨h, h'⟩ | ⟨l, h, h'⟩ | ⟨h, h'⟩ | ⟨c, h, h'⟩
  · rw [decodeOffset_common (by omega)]
    obtain ⟨n, hn⟩ : ∃ n, o.toNat / 4 = n + 8 := ⟨o.toNat / 4 - 8, by omega⟩
    rw [hn]
    rfl
  · exact undefined_link h h'
  · by_cases hlast : o.toNat < 0xC0
    · have h3 : (3 : LinkId).val = 3 := rfl
      exact undefined_link (l := 3) (by omega) (by omega)
    · exact decodeOffset_between (by omega) (by omega)
  · exact undefined_client h h'

theorem decodeOffset_linkOffset (l : LinkId) {a : Nat} (ha : a < 0x20) :
    decodeOffset (BitVec.ofNat 10 (0x40 + a) + BitVec.ofNat 10 (0x20 * l.val)) = decodeLinkReg l (a / 4) :=
  decodeOffset_link ha (toNat_linkOffset l (by omega))

theorem decodeOffset_clientOffset (c : ClientId) {a : Nat} (ha : a < 0x80) :
    decodeOffset (BitVec.ofNat 10 (0x200 + a) + BitVec.ofNat 10 (0x80 * c.val)) =
      decodeClientReg c (a / 4) := decodeOffset_client ha (toNat_clientOffset c ha)

/-- R162: the reads of a response, the occupancy and the time are not written. -/
theorem clientWrite_readOnly {o : BitVec 10} {c : ClientId} (h : o.toNat = 0x210 + 0x80 * c.val ∨
    o.toNat = 0x214 + 0x80 * c.val ∨ o.toNat = 0x218 + 0x80 * c.val ∨ o.toNat = 0x21C + 0x80 * c.val ∨
    o.toNat = 0x224 + 0x80 * c.val) (v : Word) (s : State) : registerWrite o v s = s := by
  rcases h with h | h | h | h | h
  · exact registerWrite_client (decodeOffset_client (c := c) (a := 0x10) (by omega) (by omega)) v s
  · exact registerWrite_client (decodeOffset_client (c := c) (a := 0x14) (by omega) (by omega)) v s
  · exact registerWrite_client (decodeOffset_client (c := c) (a := 0x18) (by omega) (by omega)) v s
  · exact registerWrite_client (decodeOffset_client (c := c) (a := 0x1C) (by omega) (by omega)) v s
  · exact registerWrite_client (decodeOffset_client (c := c) (a := 0x24) (by omega) (by omega)) v s

theorem commonWrite_readOnly {o : BitVec 10} (h : o.toNat = 0x004 ∨ (0x00C ≤ o.toNat ∧ o.toNat ≤ 0x01F))
    (v : Word) (s : State) : registerWrite o v s = s := by
  have hw : o.toNat / 4 = 1 ∨ o.toNat / 4 = 3 ∨ o.toNat / 4 = 4 ∨ o.toNat / 4 = 5 ∨ o.toNat / 4 = 6 ∨
      o.toNat / 4 = 7 := by omega
  unfold registerWrite
  rw [decodeOffset_common (by omega)]
  rcases hw with hw | hw | hw | hw | hw | hw <;> rw [hw] <;> rfl

end

/-- Settles O10: each register by its decoding. -/
theorem registerWritesStoreTheirFields : Obligations.RegisterWritesStoreTheirFields := by
  intro s v hs
  have hwrite := fun o => exec_registerWrite hs o v
  refine ⟨fun l => ⟨?_, inService_of_resetN hs _, inService_of_resetN hs _, ?_, ?_⟩, ?_,
    fun c => ⟨?_, ?_, ?_, fun o ho => ?_⟩, fun o ho => ?_, fun o ho => ?_⟩
  · rw [show exec (.rateWrite l v) s = .next (rateWrite l v s) from inService_of_resetN hs _, rateWrite_eq,
      apply_ite Host.Outcome.next]
  · rw [hwrite]
    exact congrArg Host.Outcome.next (registerWrite_link (decodeOffset_linkOffset l (a := 8) (by omega)) v s)
  · rw [hwrite, ← burstLimitOf_eq]
    exact congrArg Host.Outcome.next (registerWrite_link (decodeOffset_linkOffset l (a := 12) (by omega)) v s)
  · rw [hwrite, ← lineSizeOf_eq]
    rfl
  · rw [hwrite]
    exact congrArg Host.Outcome.next (registerWrite_client (decodeOffset_clientOffset c (a := 0) (by omega)) v s)
  · rw [hwrite]
    exact congrArg Host.Outcome.next (registerWrite_client (decodeOffset_clientOffset c (a := 4) (by omega)) v s)
  · rw [hwrite]
    exact congrArg Host.Outcome.next (registerWrite_client (decodeOffset_clientOffset c (a := 8) (by omega)) v s)
  · rw [hwrite, clientWrite_readOnly ho]
  · rw [hwrite, commonWrite_readOnly ho]
  · have hundef := decodeOffset_undefined ho
    rw [hwrite, registerWrite_undefined hundef]
    refine ⟨rfl, ?_⟩
    rw [readRegister, if_pos hs, hundef]

/-! ## What the registers read (R144, R161) -/

section

variable {s : State}

theorem place_toNat {n : Nat} (v : BitVec n) : place 0 n v.toNat = v.setWidth 32 := by
  unfold place
  rw [Nat.mod_eq_of_lt v.isLt, BitVec.shiftLeft_zero]
  exact BitVec.eq_of_toNat_eq (by rw [BitVec.toNat_ofNat, BitVec.toNat_setWidth])

theorem readRegister_link (hs : s.resetN = true) {o : BitVec 10} {l : LinkId} {r : LinkReg}
    (h : decodeOffset o = .link l r) : readRegister s o = linkRead (s.link l) r := by
  rw [readRegister, if_pos hs, h]

theorem readRegister_client (hs : s.resetN = true) {o : BitVec 10} {c : ClientId} {r : ClientReg}
    (h : decodeOffset o = .client c r) : readRegister s o = clientRead s c r := by
  rw [readRegister, if_pos hs, h]

/-- The offset of a register of a block, its base and its place in either order. -/
theorem toNat_linkRegister (l : LinkId) {a : Nat} (ha : a < 0x20) :
    (0x040#10 + BitVec.ofNat 10 (0x20 * l.val) + BitVec.ofNat 10 a).toNat = 0x40 + 0x20 * l.val + a := by
  have hl := l.isLt
  simp only [BitVec.toNat_add, BitVec.toNat_ofNat]
  omega

theorem toNat_clientRegister (c : ClientId) {a : Nat} (ha : a < 0x80) :
    (0x200#10 + BitVec.ofNat 10 (0x80 * c.val) + BitVec.ofNat 10 a).toNat = 0x200 + 0x80 * c.val + a := by
  have hc := c.isLt
  simp only [BitVec.toNat_add, BitVec.toNat_ofNat]
  omega

theorem decodeOffset_linkRegister (l : LinkId) {a : Nat} (ha : a < 0x20) :
    decodeOffset (0x040#10 + BitVec.ofNat 10 (0x20 * l.val) + BitVec.ofNat 10 a) = decodeLinkReg l (a / 4) :=
  decodeOffset_link ha (toNat_linkRegister l ha)

theorem decodeOffset_clientRegister (c : ClientId) {a : Nat} (ha : a < 0x80) :
    decodeOffset (0x200#10 + BitVec.ofNat 10 (0x80 * c.val) + BitVec.ofNat 10 a) =
      decodeClientReg c (a / 4) := decodeOffset_client ha (toNat_clientRegister c ha)

theorem linkRead_control (k : Link) :
    linkRead k .control = if k.activity = .disabled then 0 else 1 := by
  unfold linkRead Link.running
  cases k.activity <;> rfl

theorem respWord_cons {k : Client} {r : Response} {more : List Response} (h : k.responses = r :: more)
    (i : Fin 4) : respWord k i = r.word i := by
  unfold respWord
  rw [h]

theorem respWord_nil {k : Client} (h : k.responses = []) (i : Fin 4) : respWord k i = 0xFFFFFFFF := by
  unfold respWord
  rw [h]

end

/-- Settles O11: each register by its decoding. -/
theorem registersReadBack : Obligations.RegistersReadBack := by
  intro s hs
  have hcommon {o : BitVec 10} {w : Word}
      (h : (match decodeOffset o with
        | .devControl => 0
        | .timeNow => s.now
        | .busConfig => place 0 2 s.mwm.lineSize.code
        | .occupancy i => BitVec.ofNat 32 (occupancy s i)
        | .link l r => linkRead (s.link l) r
        | .client c r => clientRead s c r
        | .undefined => 0) = w) : readRegister s o = w := (if_pos hs).trans h
  refine ⟨fun l => ?_, hcommon rfl, hcommon ?_, hcommon rfl, hcommon rfl, hcommon rfl, hcommon rfl,
    hcommon rfl, fun c => ?_, fun v hv => ?_, fun o => ⟨?_, fun v => ?_⟩⟩
  · refine ⟨?_, ?_, ?_, ?_, ?_, ?_⟩
    · exact (readRegister_link hs (decodeOffset_linkRegister l (a := 0x00) (by omega))).trans (linkRead_control _)
    · exact (readRegister_link hs (decodeOffset_linkRegister l (a := 0x04) (by omega))).trans
        (place_toNat _)
    · exact readRegister_link hs (decodeOffset_linkRegister l (a := 0x08) (by omega))
    · exact readRegister_link hs (decodeOffset_linkRegister l (a := 0x0C) (by omega))
    · exact (readRegister_link hs (decodeOffset_linkRegister l (a := 0x10) (by omega))).trans
        (place_toNat _)
    · exact (readRegister_link hs (decodeOffset_linkRegister l (a := 0x14) (by omega))).trans
        (place_toNat _)
  · show place 0 2 s.mwm.lineSize.code = _
    cases s.mwm.lineSize <;> rfl
  · have hread (a : Nat) (ha : a < 0x80) (r : ClientReg) (h : decodeClientReg c (a / 4) = .client c r) :=
      readRegister_client hs ((decodeOffset_clientRegister c ha).trans h)
    have h10 := hread 0x10 (by omega) (.resp 0) rfl
    have h14 := hread 0x14 (by omega) (.resp 1) rfl
    have h18 := hread 0x18 (by omega) (.resp 2) rfl
    have h1C := hread 0x1C (by omega) (.resp 3) rfl
    refine ⟨hread 0x00 (by omega) (.stage 0) rfl, hread 0x04 (by omega) (.stage 1) rfl,
      hread 0x08 (by omega) (.stage 2) rfl, hread 0x0C (by omega) .submit rfl, fun r more hr => ?_,
        fun hr => ?_,
      hread 0x20 (by omega) .pop rfl, hread 0x24 (by omega) .fifoState rfl, hread 0x28 (by omega) .cause rfl,
      (hread 0x2C (by omega) .causeMask rfl).trans (place_toNat _),
      (hread 0x30 (by omega) .linkWatch rfl).trans (place_toNat _), ?_,
      hread 0x38 (by omega) .msgAddr rfl, hread 0x3C (by omega) .msgData rfl,
      (hread 0x40 (by omega) .msgKey rfl).trans (place_toNat _),
      hread 0x44 (by omega) .control rfl, fun v hv => ?_⟩
    · exact ⟨h10.trans (respWord_cons hr 0), h14.trans (respWord_cons hr 1), h18.trans (respWord_cons hr 2),
        h1C.trans (respWord_cons hr 3)⟩
    · exact ⟨h10.trans (respWord_nil hr 0), h14.trans (respWord_nil hr 1), h18.trans (respWord_nil hr 2),
        h1C.trans (respWord_nil hr 3)⟩
    · refine (hread 0x34 (by omega) .irqMode rfl).trans ?_
      show place 0 1 (bit ((s.client c).mode == .message)) = _
      cases (s.client c).mode <;> rfl
    · rw [exec_registerWrite hs]
      exact congrArg Host.Outcome.next ((registerWrite_client (c := c) (r := .control)
        (decodeOffset_clientOffset c (a := 0x44) (by omega)) v s).trans (if_neg (ne_true_of_eq_false hv)))
  · rw [exec_registerWrite hs]
    exact congrArg Host.Outcome.next (if_neg (ne_true_of_eq_false hv))
  · unfold readRegister
    rw [decodeOffset_aligned]
  · rw [exec_registerWrite hs, exec_registerWrite hs]
    unfold registerWrite
    rw [decodeOffset_aligned]

end Sys2Proof.Machine
end


section
/-! The requests on stations and points that touch their own record and chain: O12 to O15 and O17 to O19. -/

namespace Sys2Proof.Machine

/-! ## Taken requests -/

section

variable {s x : State} {c : ClientId} {r : Request} {rest : List Request} {i : Instr} {code : Nat}
  {f : ClientId → Request → State → Answer}

/-- A ready request of the row's kind that its owner answers OK. -/
theorem exec_request_ok (hr : ReadyRequest s c r rest) (hk : r.kind = code)
    (hi : exec i s = inService s (takeRequest c (· == code) f)) {w1 w2 w3 : Word}
    (hf : f c r (s.withoutHead c rest) = okAnswer (x.withoutHead c rest) w1 w2 w3) :
    exec i s = .next (x.answered c r rest 0 w1 w2 w3) :=
  hi.trans (takeRequest_answered (isKind := (· == code)) (st := .ok) hr (beq_iff_eq.mpr hk) hf)

/-- A ready request of the row's kind that its owner refuses. -/
theorem exec_request_refused (hr : ReadyRequest s c r rest) (hk : r.kind = code) (st : Status)
    (hi : exec i s = inService s (takeRequest c (· == code) f))
    (hf : f c r (s.withoutHead c rest) = refuse (s.withoutHead c rest) st) :
    exec i s = .next (s.answered c r rest st.code 0 0 0) :=
  hi.trans (takeRequest_refused (isKind := (· == code)) hr (beq_iff_eq.mpr hk) hf)

end

section

variable {s : State} {r : Request}

/-! ## ADD_STATION (R6) -/

/-- R6: the operands of ADD_STATION in their ranges. -/
def StationArguments (r : Request) : Prop :=
  fieldOf r.w1 0 8 ≤ 3 ∧ 1 ≤ fieldOf r.w1 8 8 ∧ fieldOf r.w1 8 8 ≤ 126 ∧
    1 ≤ fieldOf r.w1 16 8 ∧ fieldOf r.w1 16 8 ≤ 4

theorem stationArguments_iff : StationArguments r ↔ ¬(3 < fieldOf r.w1 0 8 ∨ fieldOf r.w1 8 8 < 1 ∨
    126 < fieldOf r.w1 8 8 ∨ fieldOf r.w1 16 8 < 1 ∨ 4 < fieldOf r.w1 16 8) := by
  unfold StationArguments
  omega

theorem addressHeld_iff (s : State) (l : LinkId) (a : Byte) :
    addressHeld s l a = true ↔ ∃ row ∈ s.stations.rows, row.2.link = l ∧ row.2.address = a := by
  unfold addressHeld
  simp only [List.any_eq_true, Bool.and_eq_true, beq_iff_eq]

theorem addStation_badArgument (c : ClientId) (h : ¬StationArguments r) :
    addStation c r s = refuse s .badArgument := by
  rw [stationArguments_iff, not_not] at h
  exact if_pos h

/-- The link and the address that ADD_STATION names. -/
def Request.link (r : Request) : LinkId := Fin.ofNat 4 (fieldOf r.w1 0 8)

def Request.stationAddress (r : Request) : Byte := BitVec.ofNat 8 (fieldOf r.w1 8 8)

theorem addStation_duplicate (c : ClientId) (h : StationArguments r)
    (hheld : addressHeld s r.link r.stationAddress = true) : addStation c r s = refuse s .duplicate :=
  (if_neg (stationArguments_iff.mp h)).trans (if_pos hheld)

theorem addStation_inRange (c : ClientId) (h : StationArguments r)
    (hheld : addressHeld s r.link r.stationAddress = false) : addStation c r s =
      (match s.stations.lowestFree Config.stationCount with
      | none => refuse s .noSpace
      | some h => okAnswer (placeStation h (newStation (s.link r.link).running r.link r.stationAddress
          (fieldOf r.w1 16 8)) s) (place 0 16 h) 0 0) :=
  (if_neg (stationArguments_iff.mp h)).trans (if_neg (ne_true_of_eq_false hheld))

theorem addStation_noSpace (c : ClientId) (h : StationArguments r)
    (hheld : addressHeld s r.link r.stationAddress = false)
    (hfull : s.stations.lowestFree Config.stationCount = none) : addStation c r s = refuse s .noSpace := by
  rw [addStation_inRange c h hheld, hfull]

theorem addStation_placed (c : ClientId) (h : StationArguments r) {k : Nat}
    (hheld : addressHeld s r.link r.stationAddress = false)
    (hfree : s.stations.lowestFree Config.stationCount = some k) : addStation c r s =
      okAnswer (placeStation k (newStation (s.link r.link).running r.link r.stationAddress
        (fieldOf r.w1 16 8)) s) (place 0 16 k) 0 0 := by
  rw [addStation_inRange c h hheld, hfree]

/-- R6: JOINING on a RUNNING link, SILENT with LINK_OFF on a DISABLED one. -/
theorem newStation_eq (k : Link) (l : LinkId) (a : Byte) (limit : Nat) : newStation k.running l a limit =
    { state := if k.activity = .disabled then .silent else .joining
      link := l
      address := a
      limit := limit
      capacity := 0
      miss := 0
      typeCode := none
      chain := []
      staleCause := if k.activity = .disabled then some .linkOff else none } := by
  unfold newStation Link.running
  cases k.activity <;> rfl

theorem Station.due_joining {st : Station} (h : st.state = .joining) (counter : BitVec 3) :
    st.due counter = true := by
  unfold Station.due
  rw [h]

theorem placeStation_other {l : LinkId} {st : Station} (k : Nat) (hl : st.link = l)
    (hidle : (s.link l).activity ≠ .idle) : placeStation k st s =
      { s with
        stations := s.stations.put k st
        pollLists := s.pollLists.set l (s.pollList l ++ [k]) } := by
  subst hl
  exact appendedWhileIdle_other k hidle

/-- R91: a JOINING station is due, so that the decision point of an IDLE link stays open. -/
theorem placeStation_idle {l : LinkId} {st : Station} (k : Nat) (hl : st.link = l)
    (hjoining : st.state = .joining) (hidle : (s.link l).activity = .idle)
    (hgap : (s.link l).pollGap = .stopped) : placeStation k st s =
      { s with
        stations := s.stations.put k st
        pollLists := s.pollLists.set l (s.pollList l ++ [k]) }.modifyLink l (fun q =>
          { q with
            roundPos := some k
            activity := .deciding }) := by
  subst hl
  refine appendedWhileIdle_idle hidle hgap ?_ ?_
  · show k ∈ (s.pollLists.modify st.link (fun q => q ++ [k])).get st.link
    rw [Quad.get_modify_same]
    exact List.mem_append_right _ (List.mem_singleton_self k)
  · unfold stationDue
    rw [Table.find_put_same]
    exact Station.due_joining hjoining _

end

/-- Settles O12: the new station is placed on a link that is not in IDLE, or on one that leaves it. -/
theorem addStationCreatesStation : Obligations.AddStationCreatesStation := by
  intro s c r rest l h hr hk hlink ha ha' hlim hlim' hheld hfree off placed
  have hargs : StationArguments r := ⟨by have := l.isLt; omega, ha, ha', hlim, hlim'⟩
  have hl : r.link = l := Fin.ext (by
    show fieldOf r.w1 0 8 % 4 = l.val
    have := l.isLt
    omega)
  have haddress : r.stationAddress = r.w1.extractLsb' 8 8 := BitVec.ofNat_toNat _ _
  have hnot : addressHeld s r.link r.stationAddress = false := by
    rw [Bool.eq_false_iff, ne_eq, addressHeld_iff, hl, haddress]
    exact fun ⟨row, hrow, hat⟩ => hheld row hrow hat
  have hplaced := addStation_placed (s := s.withoutHead c rest) c hargs hnot hfree.lowestFree
  rw [hl, haddress, newStation_eq] at hplaced
  refine ⟨fun hidle => exec_request_ok hr hk rfl (hplaced.trans ?_),
    fun hidle hgap => exec_request_ok hr hk rfl (hplaced.trans ?_)⟩
  · rw [placeStation_other (s := s.withoutHead c rest) (l := l) h rfl hidle]
    rfl
  · have hon : (s.link l).activity ≠ .disabled := fun hd => by rw [hd] at hidle; cases hidle
    rw [placeStation_idle (s := s.withoutHead c rest) (l := l) h rfl (if_neg hon) hidle hgap]
    rfl

/-! ## REMOVE_STATION (R7) -/

section

variable {s : State} {r : Request}

theorem stationHandle_inRange {h : Nat} (hh : h ≤ 255) : ¬Config.stationCount ≤ h :=
  Nat.not_le.mpr (Nat.lt_succ_of_le hh)

theorem removeStation_of_find (c : ClientId) {st : Station} (hh : r.handle ≤ 255)
    (hst : s.stations.find r.handle = some st) : removeStation c r s =
      if st.state = .leaving then refuse s .wrongState
      else if 0 < st.pointCount then refuse s .hasPoints
      else okAnswer (removeRecord r.handle st s) 0 0 0 := by
  unfold removeStation
  rw [if_neg (stationHandle_inRange hh)]
  simp only [hst]

theorem removeStation_removed (c : ClientId) {st : Station} (hh : r.handle ≤ 255)
    (hst : s.stations.find r.handle = some st) (hl : st.state ≠ .leaving) (hc : st.chain = []) :
    removeStation c r s = okAnswer (removeRecord r.handle st s) 0 0 0 := by
  rw [removeStation_of_find c hh hst, if_neg hl, if_neg]
  unfold Station.pointCount
  rw [hc]
  exact Nat.lt_irrefl 0

/-- R7: the station without its tags, out of its poll list. -/
def State.outOfPoll (s : State) (h : Nat) (l : LinkId) : State :=
  { s with
    tagSets := s.tagSets.drop h
    pollLists := s.pollLists.set l ((s.pollList l).filter (fun x => x != h))
    links := s.links.modify l (fun k =>
      { k with roundPos := if k.roundPos = some h then successor (s.pollList l) h else k.roundPos }) }

theorem leavePollList_freed {h : Nat} {l : LinkId}
    (hq : ∀ k slot, s.slots.find k = some slot → slot.state = .queued → slot.station ≠ h) :
    leavePollList h l (freeAllTags h s) = s.outOfPoll h l := by
  rw [freeAllTags_noQueued hq]
  unfold leavePollList
  simp only [Link.forget_eq]
  rfl

theorem outOfPoll_inFlight (h : Nat) (l : LinkId) :
    ((s.outOfPoll h l).link l).activity = (s.link l).activity := by
  show ((s.links.modify l _).get l).activity = _
  rw [Quad.get_modify_same]
  rfl

theorem Link.inFlightWith_iff (k : Link) (h : Nat) :
    k.inFlightWith h = true ↔ ∃ x, k.activity.exchange = some x ∧ x.station = h := by
  unfold Link.inFlightWith
  cases hx : k.activity.exchange with
  | none => exact ⟨nofun, fun ⟨_, hy, _⟩ => nomatch hy⟩
  | some x => exact ⟨fun he => ⟨x, rfl, eq_of_beq he⟩, fun ⟨y, hy, he⟩ => by cases hy; exact beq_iff_eq.mpr he⟩

theorem inFlightWith_outOfPoll (h : Nat) (l : LinkId) :
    ((s.outOfPoll h l).link l).inFlightWith h = (s.link l).inFlightWith h := by
  unfold Link.inFlightWith
  rw [outOfPoll_inFlight]

/-- R7: with no exchange in flight the record is FREE. -/
theorem removeRecord_freed {h : Nat} {st : Station}
    (hq : ∀ k slot, s.slots.find k = some slot → slot.state = .queued → slot.station ≠ h)
    (hx : ∀ x, (s.link st.link).activity.exchange = some x → x.station ≠ h) :
    removeRecord h st s = { s.outOfPoll h st.link with stations := s.stations.drop h } := by
  unfold removeRecord
  rw [leavePollList_freed hq]
  dsimp only
  rw [inFlightWith_outOfPoll, if_neg]
  · unfold freeStation State.outOfPoll
    rw [Table.drop_drop]
  · rw [Link.inFlightWith_iff]
    exact fun ⟨x, hin, hat⟩ => hx x hin hat

/-- R7: with an exchange in flight it is LEAVING. -/
theorem removeRecord_leaving {h : Nat} {st : Station} {x : Exchange}
    (hq : ∀ k slot, s.slots.find k = some slot → slot.state = .queued → slot.station ≠ h)
    (hst : s.stations.find h = some st)
    (hx : (s.link st.link).activity.exchange = some x) (hat : x.station = h) :
    removeRecord h st s = { s.outOfPoll h st.link with
      stations := s.stations.put h { st with
        state := .leaving
        capacity := 0
        staleCause := none } } := by
  unfold removeRecord
  rw [leavePollList_freed hq]
  dsimp only
  rw [inFlightWith_outOfPoll, if_pos ((Link.inFlightWith_iff _ _).mpr ⟨x, hx, hat⟩)]
  unfold State.modifyStation State.outOfPoll
  rw [Table.modify_some _ _ hst]

end

/-- Settles O13. -/
theorem removeStationFreesOrLeaves : Obligations.RemoveStationFreesOrLeaves := by
  intro s c r rest st hr hk hh hst hl hc hq h out
  have hremoved := removeStation_removed (s := s.withoutHead c rest) c hh hst hl hc
  refine ⟨fun hx => exec_request_ok hr hk rfl (hremoved.trans ?_),
    fun x hx hat => exec_request_ok hr hk rfl (hremoved.trans ?_)⟩
  · rw [removeRecord_freed (s := s.withoutHead c rest) hq hx]
    rfl
  · rw [removeRecord_leaving (s := s.withoutHead c rest) hq hst hx hat]
    rfl

/-! ## The queries (R9, R17, R65) -/

section

variable {s : State} {r : Request}

theorem queryStation_of_find (c : ClientId) {st : Station} (hh : r.handle ≤ 255)
    (hst : s.stations.find r.handle = some st) : queryStation c r s = okAnswer s
      (place 0 8 st.state.code ||| place 8 8 st.link.val ||| place 16 8 st.address.toNat |||
        place 24 8 st.miss)
      (place 0 8 st.limit ||| place 8 8 st.capacity ||| place 16 8 (s.tagSet r.handle).rows.length |||
        place 24 8 (staleCode st.staleCause))
      (place 0 16 (st.typeCode.getD 0).toNat ||| place 16 1 (bit st.typeCode.isSome) |||
        place 17 9 st.chain.length) := by
  unfold queryStation
  rw [if_neg (stationHandle_inRange hh)]
  simp only [hst]
  rfl

/-- R164: the type code with its valid bit, both 0 while there is none. -/
theorem typeCode_word (t : Option (BitVec 16)) (w : Word) :
    place 0 16 (t.getD 0).toNat ||| place 16 1 (bit t.isSome) ||| w =
      (match t with
      | none => w
      | some t => place 0 16 t.toNat ||| place 16 1 1 ||| w) := by
  cases t with
  | none => exact BitVec.zero_or
  | some t => rfl

theorem pointHandle_inRange {h : Nat} (hh : h ≤ 1023) : ¬Config.pointCount ≤ h :=
  Nat.not_le.mpr (Nat.lt_succ_of_le hh)

theorem lookupPoint_of_find (c : ClientId) {p : Point} (hh : r.handle ≤ 1023)
    (hp : s.points.find r.handle = some p) : lookupPoint c r s = okAnswer s
      (place 0 4 p.published.state.code ||| place 4 4 (underlyingCode p) |||
        place 8 1 p.published.quality.code ||| place 9 2 (staleCode p.published.stale) |||
        place 11 1 (bit p.published.value.isSome) ||| place 12 1 (bit p.lastReport.isSome) |||
        place 16 16 p.reportCount.toNat)
      (p.published.value.getD 0) (p.lastReport.getD 0) := by
  unfold lookupPoint
  rw [if_neg (pointHandle_inRange hh)]
  simp only [hp]
  rfl

theorem published_unforced {p : Point} (hf : p.forced = none) :
    p.published = ⟨p.state, p.value, p.quality, p.stale⟩ := by
  unfold Point.published
  rw [hf]

theorem published_forced {p : Point} {f : ForcedPart} (hf : p.forced = some f) :
    p.published = ⟨.forced, some f.value, .good, none⟩ := by
  unfold Point.published
  rw [hf]

theorem underlyingCode_unforced {p : Point} (hf : p.forced = none) : underlyingCode p = 0 := by
  unfold underlyingCode
  rw [hf]

theorem underlyingCode_forced {p : Point} {f : ForcedPart} (hf : p.forced = some f) :
    underlyingCode p = f.under.state.code := by
  unfold underlyingCode
  rw [hf]

theorem place_zero (lo width : Nat) : place lo width 0 = 0#32 := by
  unfold place
  rw [Nat.zero_mod]
  exact BitVec.zero_shiftLeft lo

theorem queryBinding_of_find (c : ClientId) {b : Binding} (hh : r.handle ≤ 2047)
    (hb : s.bindings.find r.handle = some b) : queryBinding c r s = okAnswer s
      (place 0 16 b.point ||| place 16 4 b.state.code ||| place 20 2 b.client.val |||
        place 22 2 b.trigger.code ||| place 24 3 (faultCode b.fault) |||
        place 27 1 (bit (s.queued r.handle)) ||| place 28 1 (bit b.inFlight))
      b.address (place 0 16 b.sequence.toNat) := by
  unfold queryBinding
  rw [if_neg ((bindingHandle_inRange_iff _).mp hh)]
  simp only [hb]

theorem bit_queued (s : State) (b : Nat) : bit (s.queued b) = if b ∈ s.mirrorQueue then 1 else 0 := by
  unfold bit State.queued
  simp only [List.contains_iff_mem]

end

/-- Settles O14: each query answers from the record it finds. -/
theorem queriesReportTheRecord : Obligations.QueriesReportTheRecord := by
  intro s c r rest hr
  refine ⟨?station, ?point, ?binding⟩
  case station =>
    intro st hk hh hst state stale
    have hstate : st.state.code = state := by cases hx : st.state <;> simp only [state, hx] <;> rfl
    have hstale : staleCode st.staleCause = stale := by
      rcases hx : st.staleCause with _ | _ | _ | _ <;> simp only [stale, hx] <;> rfl
    refine exec_request_ok (x := s) hr hk rfl
      ((queryStation_of_find (s := s.withoutHead c rest) c hh hst).trans ?_)
    rw [hstate, hstale, typeCode_word]
    rfl
  case point =>
    intro p hk hh hp time
    refine ⟨?unforced, ?forced⟩
    case unforced =>
      intro hf state quality stale
      have hstate : p.state.code = state := by cases hx : p.state <;> simp only [state, hx] <;> rfl
      have hquality : p.quality.code = quality := by cases hx : p.quality <;> simp only [quality, hx] <;> rfl
      have hstale : staleCode p.stale = stale := by
        rcases hx : p.stale with _ | _ | _ | _ <;> simp only [stale, hx] <;> rfl
      refine exec_request_ok (x := s) hr hk rfl
        ((lookupPoint_of_find (s := s.withoutHead c rest) c hh hp).trans ?_)
      rw [published_unforced hf, underlyingCode_unforced hf, place_zero, BitVec.or_zero, hstate, hquality,
        hstale, BitVec.or_assoc _ (place 12 1 _)]
      rfl
    case forced =>
      intro f hf under
      have hunder : f.under.state.code = under := by
        cases hx : f.under.state <;> simp only [under, hx] <;> rfl
      refine exec_request_ok (x := s) hr hk rfl
        ((lookupPoint_of_find (s := s.withoutHead c rest) c hh hp).trans ?_)
      rw [published_forced hf, underlyingCode_forced hf, hunder, BitVec.or_assoc _ (place 12 1 _)]
      show okAnswer _ (place 0 4 4 ||| place 4 4 under ||| place 8 1 0 ||| place 9 2 0 ||| _ ||| _) _ _ = _
      rw [place_zero, place_zero, BitVec.or_zero, BitVec.or_zero]
      rfl
  case binding =>
    intro b hk hh hb state trigger fault
    have hstate : b.state.code = state := by cases hx : b.state <;> simp only [state, hx] <;> rfl
    have htrigger : b.trigger.code = trigger := by cases hx : b.trigger <;> simp only [trigger, hx] <;> rfl
    have hfault : faultCode b.fault = fault := by
      rcases hx : b.fault with _ | _ | _ | _ | _ <;> simp only [fault, hx] <;> rfl
    refine exec_request_ok (x := s) hr hk rfl
      ((queryBinding_of_find (s := s.withoutHead c rest) c hh hb).trans ?_)
    rw [hstate, htrigger, hfault, bit_queued]
    rfl

/-! ## CREATE_POINT (R12, R16) -/

section

variable {s : State} {r : Request}

/-- R16: the operands of CREATE_POINT in their ranges. -/
def PointArguments (r : Request) : Prop :=
  fieldOf r.w1 0 16 ≤ 255 ∧ fieldOf r.w1 16 16 ≤ 255 ∧ r.key ≤ 15 ∧
    1 ≤ fieldOf r.w2 0 8 ∧ fieldOf r.w2 0 8 ≤ 3

theorem pointArguments_iff : PointArguments r ↔ ¬(Config.stationCount ≤ fieldOf r.w1 0 16 ∨
    255 < fieldOf r.w1 16 16 ∨ 15 < r.key ∨ fieldOf r.w2 0 8 < 1 ∨ 3 < fieldOf r.w2 0 8) := by
  unfold PointArguments Config.stationCount
  omega

theorem createPoint_badArgument (c : ClientId) (h : ¬PointArguments r) :
    createPoint c r s = refuse s .badArgument := by
  rw [pointArguments_iff, not_not] at h
  exact if_pos h

theorem createPoint_notFound (c : ClientId) (h : PointArguments r)
    (hst : s.stations.find (fieldOf r.w1 0 16) = none) : createPoint c r s = refuse s .notFound := by
  simp only [createPoint, if_neg (pointArguments_iff.mp h), hst]

theorem createPoint_wrongState (c : ClientId) (h : PointArguments r) {st : Station}
    (hst : s.stations.find (fieldOf r.w1 0 16) = some st) (hl : st.state = .leaving) :
    createPoint c r s = refuse s .wrongState := by
  simp only [createPoint, if_neg (pointArguments_iff.mp h), hst, if_pos hl]

theorem createPoint_duplicate (c : ClientId) (h : PointArguments r) {st : Station}
    (hst : s.stations.find (fieldOf r.w1 0 16) = some st) (hl : st.state ≠ .leaving)
    (hnum : (pointByNumber s st.chain (fieldOf r.w1 16 16)).isSome = true) :
    createPoint c r s = refuse s .duplicate := by
  simp only [createPoint, if_neg (pointArguments_iff.mp h), hst, if_neg hl, if_pos hnum]

theorem createPoint_noSpace (c : ClientId) (h : PointArguments r) {st : Station}
    (hst : s.stations.find (fieldOf r.w1 0 16) = some st) (hl : st.state ≠ .leaving)
    (hnum : pointByNumber s st.chain (fieldOf r.w1 16 16) = none)
    (hfull : s.points.lowestFree Config.pointCount = none) : createPoint c r s = refuse s .noSpace := by
  simp only [createPoint, if_neg (pointArguments_iff.mp h), hst, if_neg hl, hnum, hfull, Option.isSome_none,
    Bool.false_eq_true, if_false]

theorem createPoint_placed (c : ClientId) (h : PointArguments r) {st : Station} {k : Nat}
    (hst : s.stations.find (fieldOf r.w1 0 16) = some st) (hl : st.state ≠ .leaving)
    (hnum : pointByNumber s st.chain (fieldOf r.w1 16 16) = none)
    (hfree : s.points.lowestFree Config.pointCount = some k) : createPoint c r s =
      okAnswer (placePoint k (newPoint (fieldOf r.w1 0 16) (BitVec.ofNat 8 (fieldOf r.w1 16 16))
        (BitVec.ofNat 4 r.key) (fieldOf r.w2 0 8) (r.w2.extractLsb' 16 16) (r.w3.extractLsb' 0 16)) s)
        (place 0 16 k) 0 0 := by
  simp only [createPoint, if_neg (pointArguments_iff.mp h), hst, if_neg hl, hnum, hfree, Option.isSome_none,
    Bool.false_eq_true, if_false]

/-- R12: a new point stands behind the lower and before the higher numbers. -/
theorem insertByNumber_between {n h : Nat} {before after : List Nat}
    (hb : ∀ x ∈ before, ∃ m, numberOf s x = some m ∧ m < n)
    (ha : ∀ x ∈ after, ∃ m, numberOf s x = some m ∧ n < m) :
    insertByNumber s n h (before ++ after) = before ++ h :: after := by
  induction before with
  | nil =>
    cases after with
    | nil => rfl
    | cons y ys =>
      obtain ⟨m, hm, hlt⟩ := ha y (List.mem_cons_self ..)
      simp only [List.nil_append, insertByNumber, hm, if_pos hlt]
  | cons x xs ih =>
    obtain ⟨m, hm, hlt⟩ := hb x (List.mem_cons_self ..)
    simp only [List.cons_append, insertByNumber, hm, if_neg (Nat.lt_asymm hlt),
      ih (fun y hy => hb y (List.mem_cons_of_mem _ hy))]

/-- R12, R16: the point record and the chain of its station. -/
theorem placePoint_between {h n sid : Nat} {p : Point} {st : Station} {before after : List Nat}
    (hst : s.stations.find sid = some st) (hsid : p.station = sid) (hn : p.number.toNat = n)
    (hchain : st.chain = before ++ after)
    (hb : ∀ x ∈ before, ∃ m, numberOf s x = some m ∧ m < n)
    (ha : ∀ x ∈ after, ∃ m, numberOf s x = some m ∧ n < m) :
    placePoint h p s = { s with
      stations := s.stations.put sid { st with chain := before ++ h :: after }
      points := s.points.put h p } := by
  subst hsid
  unfold placePoint State.modifyStation
  rw [Table.modify_some _ _ hst, hn, hchain, insertByNumber_between hb ha]

end

/-- Settles O15. -/
theorem createPointInsertsInOrder : Obligations.CreatePointInsertsInOrder := by
  intro s c r rest st h before after hr hk hsid hn hkey hconfirm hconfirm' hst hl hchain hb ha hfree
  have hnumber : (BitVec.ofNat 8 (fieldOf r.w1 16 16)).toNat = fieldOf r.w1 16 16 := by
    rw [BitVec.toNat_ofNat]
    omega
  have hnew : pointByNumber (s.withoutHead c rest) st.chain (fieldOf r.w1 16 16) = none := by
    refine pointByNumber_eq_none (fun x hx hnum => ?_)
    change numberOf s x = _ at hnum
    rw [hchain, List.mem_append] at hx
    rcases hx with hx | hx
    · obtain ⟨m, hm, hlt⟩ := hb x hx
      rw [hm] at hnum
      exact Nat.ne_of_lt hlt (Option.some.inj hnum)
    · obtain ⟨m, hm, hlt⟩ := ha x hx
      rw [hm] at hnum
      exact Nat.ne_of_gt hlt (Option.some.inj hnum)
  refine exec_request_ok hr hk rfl ((createPoint_placed (s := s.withoutHead c rest) c
    ⟨hsid, hn, hkey, hconfirm, hconfirm'⟩ hst hl hnew hfree.lowestFree).trans ?_)
  rw [placePoint_between (s := s.withoutHead c rest) (st := st) hst rfl hnumber hchain hb ha]
  rfl

/-- Settles O17: the refusals in the order of their checks. -/
theorem stationAndPointRefusals : Obligations.StationAndPointRefusals := by
  refine ⟨fun s c r rest hr => ⟨?add, ?remove, ?query⟩, ?points⟩
  case add =>
    intro hk link address limit good held
    have hheld : good → (addressHeld s r.link r.stationAddress = true ↔ held) := by
      rintro ⟨hlink, -, haddress, -, -⟩
      have hl : r.link.val = link := Nat.mod_eq_of_lt (show fieldOf r.w1 0 8 < 4 by omega)
      have ha : r.stationAddress.toNat = address :=
        (BitVec.toNat_ofNat _ _).trans (Nat.mod_eq_of_lt (show fieldOf r.w1 8 8 < 2 ^ 8 by omega))
      rw [addressHeld_iff]
      refine exists_congr (fun row => and_congr_right' (and_congr ?_ ?_))
      · rw [Fin.ext_iff, hl]
      · rw [← BitVec.toNat_inj, ha]
    refine ⟨fun hg => ?_, fun hg hh => ?_, fun hg hh hfull => ?_⟩
    · exact exec_request_refused hr hk .badArgument rfl (addStation_badArgument c hg)
    · exact exec_request_refused hr hk .duplicate rfl (addStation_duplicate c hg ((hheld hg).mpr hh))
    · exact exec_request_refused hr hk .noSpace rfl (addStation_noSpace c hg
        (Bool.eq_false_iff.mpr (fun h => hh ((hheld hg).mp h))) (Table.lowestFree_full hfull))
  case remove =>
    intro hk
    refine ⟨fun hh => ?_, fun hh hst => ?_, fun st hh hst => ⟨fun hl => ?_, fun hl hc => ?_⟩⟩
    · exact exec_request_refused hr hk .badArgument rfl (if_pos hh)
    · refine exec_request_refused hr hk .notFound rfl ?_
      simp only [removeStation, if_neg (stationHandle_inRange hh), State.withoutHead_frame, hst]
    · refine exec_request_refused hr hk .wrongState rfl ?_
      rw [removeStation_of_find (s := s.withoutHead c rest) c hh hst, if_pos hl]
    · refine exec_request_refused hr hk .hasPoints rfl ?_
      rw [removeStation_of_find (s := s.withoutHead c rest) c hh hst, if_neg hl,
        if_pos (show 0 < st.pointCount from List.length_pos_iff.mpr hc)]
  case query =>
    intro hk
    refine ⟨fun hh => ?_, fun hh hst => ?_⟩
    · exact exec_request_refused hr hk .badArgument rfl (if_pos hh)
    · refine exec_request_refused hr hk .notFound rfl ?_
      simp only [queryStation, if_neg (stationHandle_inRange hh), State.withoutHead_frame, hst]
  case points =>
    intro s c r rest hr sid n
    refine ⟨?create, ?lookup⟩
    case create =>
      intro hk confirm good
      refine ⟨fun hg => ?_, fun hg hst => ?_, fun st hg hst => ⟨fun hl => ?_, fun hl hx => ?_,
        fun hl hx hfull => ?_⟩⟩
      · exact exec_request_refused hr hk .badArgument rfl (createPoint_badArgument c hg)
      · exact exec_request_refused hr hk .notFound rfl (createPoint_notFound c hg hst)
      · exact exec_request_refused hr hk .wrongState rfl (createPoint_wrongState c hg hst hl)
      · refine exec_request_refused hr hk .duplicate rfl (createPoint_duplicate c hg hst hl ?_)
        rw [pointByNumber_eq_find?, List.find?_isSome]
        exact hx.imp (fun x hx => ⟨hx.1, decide_eq_true hx.2⟩)
      · exact exec_request_refused hr hk .noSpace rfl (createPoint_noSpace c hg hst hl
          (pointByNumber_eq_none (fun x hm => hx x hm)) (Table.lowestFree_full hfull))
    case lookup =>
      intro hk
      refine ⟨fun hh => ?_, fun hh hp => ?_⟩
      · exact exec_request_refused hr hk .badArgument rfl (if_pos hh)
      · refine exec_request_refused hr hk .notFound rfl ?_
        simp only [lookupPoint, if_neg (pointHandle_inRange hh), State.withoutHead_frame, hp]

/-! ## The requests that present a key (R14) -/

section

variable {s : State} {r : Request}

theorem keyFails_iff (r : Request) (p : Point) :
    keyFails r p = true ↔ p.key ≠ 0 ∧ r.key ≠ p.key.toNat := by
  unfold keyFails
  rw [Bool.and_eq_true, bne_iff_ne, bne_iff_ne]

theorem badConfirm_iff (r : Request) : badConfirm r = true ↔
    r.w1.getLsbD 16 = true ∧ ¬(1 ≤ fieldOf r.w2 0 8 ∧ fieldOf r.w2 0 8 ≤ 3) := by
  unfold badConfirm
  rw [Bool.and_eq_true, Bool.or_eq_true, decide_eq_true_eq, decide_eq_true_eq]
  refine and_congr_right' ?_
  omega

theorem canCommand_eq_false {sid : Nat}
    (h : ∀ st, s.stations.find sid = some st → st.state ≠ .present ∨ st.capacity = 0) :
    canCommand s sid = false := by
  unfold canCommand
  cases hst : s.stations.find sid with
  | none => rfl
  | some st =>
    refine Bool.and_eq_false_iff.mpr ((h st hst).imp beq_eq_false_iff_ne.mpr (fun hc => ?_))
    rw [hc]
    rfl

/-- R14: the row of a request with a key: its owner checks the operands, and then as `withPoint` does. -/
structure IsKeyed (f : ClientId → Request → State → Answer) (r : Request) (bad : Prop)
    (wrong : State → Point → Bool) : Prop where
  refused : bad → ∀ c s, f c r s = refuse s .badArgument
  keyed : ¬bad → ∀ c s, ∃ act, f c r s = withPoint r s (wrong s) act

variable {c : ClientId} {rest : List Request} {i : Instr} {f : ClientId → Request → State → Answer}
  {bad : Prop} {wrong : State → Point → Bool} {code : Nat}

/-- R14: the refusals of a request with a key, first refusal first. -/
theorem IsKeyed.refusals (h : IsKeyed f r bad wrong) (hr : ReadyRequest s c r rest) (hk : r.kind = code)
    (hi : exec i s = inService s (takeRequest c (· == code) f)) :
    (1023 < r.handle ∨ bad → exec i s = .next (s.answered c r rest 2 0 0 0)) ∧
    (r.handle ≤ 1023 → ¬bad → s.points.find r.handle = none →
      exec i s = .next (s.answered c r rest 3 0 0 0)) ∧
    ∀ p, r.handle ≤ 1023 → ¬bad → s.points.find r.handle = some p →
      (keyFails r p = true → exec i s = .next (s.answered c r rest 6 0 0 0)) ∧
      (keyFails r p = false → wrong (s.withoutHead c rest) p = true →
        exec i s = .next (s.answered c r rest 7 0 0 0)) := by
  refine ⟨fun hbad => ?_, fun hh hb hp => ?_, fun p hh hb hp => ?_⟩
  · refine exec_request_refused hr hk .badArgument hi ?_
    by_cases hb : bad
    · exact h.refused hb c _
    · obtain ⟨act, hact⟩ := h.keyed hb c (s.withoutHead c rest)
      exact hact.trans ((withPoint_refuses r (s.withoutHead c rest) _ act).1 (hbad.resolve_right hb))
  · obtain ⟨act, hact⟩ := h.keyed hb c (s.withoutHead c rest)
    obtain ⟨-, hfind, -⟩ := withPoint_refuses r (s.withoutHead c rest) (wrong (s.withoutHead c rest)) act
    exact exec_request_refused hr hk .notFound hi (hact.trans (hfind hh hp))
  · obtain ⟨act, hact⟩ := h.keyed hb c (s.withoutHead c rest)
    obtain ⟨-, -, hrecord⟩ := withPoint_refuses r (s.withoutHead c rest) (wrong (s.withoutHead c rest)) act
    obtain ⟨hkey, hwrong⟩ := hrecord p hh hp
    exact ⟨fun hf => exec_request_refused hr hk .keyMismatch hi (hact.trans (hkey hf)),
      fun hf hw => exec_request_refused hr hk .wrongState hi (hact.trans (hwrong hf hw))⟩

theorem isKeyed_modifyPoint (r : Request) :
    IsKeyed modifyPoint r (badConfirm r = true) (fun _ => isRetiring) where
  refused := fun hb _ _ => if_pos hb
  keyed := fun hb _ s => ⟨fun h p =>
    okAnswer { s with points := s.points.put h (p.modified r s.now) } 0 0 0, if_neg hb⟩

theorem isKeyed_retirePoint (r : Request) : IsKeyed retirePoint r False (fun _ => isRetiring) where
  refused := False.elim
  keyed := fun _ _ _ => ⟨_, rfl⟩

theorem isKeyed_forcePoint (r : Request) : IsKeyed forcePoint r False (fun _ => isRetiring) where
  refused := False.elim
  keyed := fun _ _ _ => ⟨_, rfl⟩

theorem isKeyed_releasePoint (r : Request) : IsKeyed releasePoint r False (fun _ => notForced) where
  refused := False.elim
  keyed := fun _ _ _ => ⟨_, rfl⟩

theorem isKeyed_sendCommand (r : Request) : IsKeyed sendCommand r False notCommandable where
  refused := False.elim
  keyed := fun _ _ _ => ⟨_, rfl⟩

theorem isRetiring_of_ne {p : Point} (h : p.state ≠ .retiring) : isRetiring p = false :=
  beq_eq_false_iff_ne.mpr h

theorem isRetiring_of {p : Point} (h : p.state = .retiring) : isRetiring p = true := beq_iff_eq.mpr h

theorem notForced_of {p : Point} (h : p.state ≠ .forced) : notForced p = true := bne_iff_ne.mpr h

theorem notForced_retiring {p : Point} (h : p.state = .retiring) : notForced p = true :=
  notForced_of (fun hf => by rw [h] at hf; cases hf)

theorem notCommandable_retiring {p : Point} (h : p.state = .retiring) : notCommandable s p = true := by
  unfold notCommandable
  rw [h]
  rfl

theorem notCommandable_of {p : Point} (h : canCommand s p.station = false) : notCommandable s p = true := by
  unfold notCommandable
  rw [h]
  exact Bool.or_true _

/-- R20: the operand of MODIFY_POINT that is checked first. -/
def BadConfirm (r : Request) : Prop :=
  r.kind = 0x14 ∧ r.w1.getLsbD 16 = true ∧ ¬(1 ≤ fieldOf r.w2 0 8 ∧ fieldOf r.w2 0 8 ≤ 3)

/-- The states of a point, and of its station, that do not allow the request. -/
def WrongState (s : State) (r : Request) (p : Point) : Prop :=
  p.state = .retiring ∨ (r.kind = 0x17 ∧ p.state ≠ .forced) ∨
    (r.kind = 0x30 ∧ ∀ st, s.stations.find p.station = some st → st.state ≠ .present ∨ st.capacity = 0)

/-- The refusals of a request with a key in terms of its operands and its records. -/
theorem IsKeyed.byKind (h : IsKeyed f r bad wrong) (hr : ReadyRequest s c r rest) (hk : r.kind = code)
    (hi : exec i s = inService s (takeRequest c (· == code) f)) (hbad : bad ↔ BadConfirm r)
    (hwrong : ∀ p, WrongState s r p → wrong (s.withoutHead c rest) p = true) :
    (1023 < r.handle ∨ BadConfirm r → exec i s = .next (s.answered c r rest 2 0 0 0)) ∧
    (r.handle ≤ 1023 → ¬BadConfirm r → s.points.find r.handle = none →
      exec i s = .next (s.answered c r rest 3 0 0 0)) ∧
    ∀ p, r.handle ≤ 1023 → ¬BadConfirm r → s.points.find r.handle = some p →
      (p.key ≠ 0 ∧ r.key ≠ p.key.toNat → exec i s = .next (s.answered c r rest 6 0 0 0)) ∧
      (¬(p.key ≠ 0 ∧ r.key ≠ p.key.toNat) → WrongState s r p →
        exec i s = .next (s.answered c r rest 7 0 0 0)) := by
  obtain ⟨hrange, hfind, hrecord⟩ := h.refusals hr hk hi
  rw [← hbad]
  refine ⟨hrange, hfind, fun p hh hb hp => ?_⟩
  obtain ⟨hkey, hstate⟩ := hrecord p hh hb hp
  rw [← keyFails_iff]
  exact ⟨hkey, fun hf hw => hstate (Bool.eq_false_iff.mpr hf) (hwrong p hw)⟩

theorem not_badConfirm (hk : r.kind ≠ 0x14) : False ↔ BadConfirm r := ⟨False.elim, fun h => hk h.1⟩

/-- Of the requests with a key only RELEASE_POINT and SEND_COMMAND look at more than RETIRING. -/
theorem WrongState.retiring {p : Point} (h : WrongState s r p) (h17 : r.kind ≠ 0x17) (h30 : r.kind ≠ 0x30) :
    p.state = .retiring :=
  h.resolve_right (fun h => h.elim (fun h => h17 h.1) (fun h => h30 h.1))

end

/-- Settles O18: each of the five requests checks its operands and then the point's record. -/
theorem keyedRequestRefusals : Obligations.KeyedRequestRefusals := by
  intro s c r rest i hr hi badConfirm
  suffices h : (1023 < r.handle ∨ BadConfirm r → exec i s = .next (s.answered c r rest 2 0 0 0)) ∧
      (r.handle ≤ 1023 → ¬BadConfirm r → s.points.find r.handle = none →
        exec i s = .next (s.answered c r rest 3 0 0 0)) ∧
      ∀ p, r.handle ≤ 1023 → ¬BadConfirm r → s.points.find r.handle = some p →
        (p.key ≠ 0 ∧ r.key ≠ p.key.toNat → exec i s = .next (s.answered c r rest 6 0 0 0)) ∧
        (¬(p.key ≠ 0 ∧ r.key ≠ p.key.toNat) → WrongState s r p →
          exec i s = .next (s.answered c r rest 7 0 0 0)) by
    obtain ⟨hrange, hfind, hrecord⟩ := h
    refine ⟨hrange, hfind, ?_⟩
    intro p hh hb hp fails
    obtain ⟨hkey, hstate⟩ := hrecord p hh hb hp
    exact ⟨hkey, fun hf h => hstate hf (.inl h), fun hf h17 h => hstate hf (.inr (.inl ⟨h17, h⟩)),
      fun hf h30 h => hstate hf (.inr (.inr ⟨h30, h⟩))⟩
  simp only [List.mem_cons, Prod.mk.injEq, List.not_mem_nil, or_false] at hi
  rcases hi with ⟨hk, rfl⟩ | ⟨hk, rfl⟩ | ⟨hk, rfl⟩ | ⟨hk, rfl⟩ | ⟨hk, rfl⟩
  · refine (isKeyed_modifyPoint r).byKind hr hk rfl ?_ (fun p hw => isRetiring_of (hw.retiring ?_ ?_))
    · exact (badConfirm_iff r).trans ⟨fun h => ⟨hk, h⟩, fun h => h.2⟩
    all_goals rw [hk]; decide
  · refine (isKeyed_retirePoint r).byKind hr hk rfl (not_badConfirm ?_)
      (fun p hw => isRetiring_of (hw.retiring ?_ ?_))
    all_goals rw [hk]; decide
  · refine (isKeyed_forcePoint r).byKind hr hk rfl (not_badConfirm ?_)
      (fun p hw => isRetiring_of (hw.retiring ?_ ?_))
    all_goals rw [hk]; decide
  · refine (isKeyed_releasePoint r).byKind hr hk rfl (not_badConfirm (by rw [hk]; decide)) (fun p hw => ?_)
    rcases hw with h | ⟨-, h⟩ | ⟨h30, -⟩
    · exact notForced_retiring h
    · exact notForced_of h
    · rw [hk] at h30
      cases h30
  · refine (isKeyed_sendCommand r).byKind hr hk rfl (not_badConfirm (by rw [hk]; decide)) (fun p hw => ?_)
    rcases hw with h | ⟨h17, -⟩ | ⟨-, h⟩
    · exact notCommandable_retiring h
    · rw [hk] at h17
      cases h17
    · exact notCommandable_of (canCommand_eq_false h)

/-! ## MODIFY_POINT (R20, R21) -/

section

variable {s : State} {r : Request}

theorem Point.liveEligible_iff (p : Point) : p.liveEligible = true ↔
    p.state = .live ∨ (p.state = .forced ∧ p.reported.state = .live) := by
  unfold Point.liveEligible
  cases hp : p.state <;> simp

/-- R20: the selected fields, each by its selection bit. -/
theorem Point.modified_eq (p : Point) (r : Request) (now : BitVec 32) : p.modified r now = { p with
    confirm := if r.w1.getLsbD 16 then fieldOf r.w2 0 8 else p.confirm
    run := if r.w1.getLsbD 16 then 0 else p.run
    deadband := if r.w1.getLsbD 17 then r.w2.extractLsb' 16 16 else p.deadband
    period := if r.w1.getLsbD 18 then r.w3.extractLsb' 0 16 else p.period
    deadline :=
      if r.w1.getLsbD 18 then
        if p.liveEligible then
          if r.w3.extractLsb' 0 16 = 0#16 then none else some ⟨now, (r.w3.extractLsb' 0 16).toNat⟩
        else p.deadline
      else p.deadline
    key := if r.w1.getLsbD 19 then r.w2.extractLsb' 8 4 else p.key } := by
  unfold Point.modified
  cases r.w1.getLsbD 16 <;> cases r.w1.getLsbD 17 <;> cases r.w1.getLsbD 18 <;>
    cases r.w1.getLsbD 19 <;> rfl

theorem modifyPoint_modified (c : ClientId) {p : Point} (hbad : ¬BadConfirm r) (hk : r.kind = 0x14)
    (hh : r.handle ≤ 1023) (hp : s.points.find r.handle = some p) (hkey : p.key = 0 ∨ r.key = p.key.toNat)
    (hstate : p.state ≠ .retiring) : modifyPoint c r s =
      okAnswer { s with points := s.points.put r.handle (p.modified r s.now) } 0 0 0 := by
  have hconfirm : ¬badConfirm r = true := fun h => hbad ⟨hk, (badConfirm_iff r).mp h⟩
  unfold modifyPoint
  rw [if_neg hconfirm]
  exact withPoint_acts _ hh hp hkey (isRetiring_of_ne hstate)

end

/-- Settles O19. -/
theorem modifyPointChangesSelectedFields : Obligations.ModifyPointChangesSelectedFields := by
  intro s c r rest p hr hk hh hp hkey hstate hconfirm eligible period
  have hbad : ¬BadConfirm r := fun h => h.2.2 (hconfirm h.2.1)
  refine exec_request_ok hr hk rfl
    ((modifyPoint_modified (s := s.withoutHead c rest) c hbad hk hh hp hkey hstate).trans ?_)
  have hdeadline : (if r.w1.getLsbD 18 then
      if p.liveEligible then
        if r.w3.extractLsb' 0 16 = 0#16 then none
        else some (⟨s.now, (r.w3.extractLsb' 0 16).toNat⟩ : Deadline)
      else p.deadline
    else p.deadline) = if r.w1.getLsbD 18 = true ∧ eligible then
      (if period = 0 then none else some ⟨s.now, period.toNat⟩) else p.deadline := by
    rw [ite_and]
    simp only [Point.liveEligible_iff]
    rfl
  rw [Point.modified_eq, ← hdeadline]
  rfl

end Sys2Proof.Machine
end


section
/-! Point events and what raises them: FORCE_POINT and RELEASE_POINT (O22), report entries (O25) and the
millisecond deadlines (O26). -/

namespace Sys2Proof.Machine

/-! ## Point events (R35, R54) -/

section

variable {s : State}

/-- Table 2-3: binding `b` is ACTIVE and its trigger selects the event class. -/
def State.selectedBy (s : State) (e : EventClass) (b : Nat) : Bool :=
  match s.bindings.find b with
  | none => false
  | some r => r.state == .active && r.trigger.selects e

theorem queueIfSelected_eq (e : EventClass) (b : Nat) : queueIfSelected e s b = { s with
    mirrorQueue := s.mirrorQueue ++ [b].filter (fun x => !s.mirrorQueue.contains x && s.selectedBy e x) } := by
  unfold queueIfSelected queueBinding State.selectedBy
  cases hb : s.bindings.find b with
  | none => simp [hb]
  | some r =>
    by_cases hsel : r.state = .active ∧ r.trigger.selects e = true
    · by_cases hq : b ∈ s.mirrorQueue <;> simp [hb, hsel, hq]
    · have hnot : (r.state == .active && r.trigger.selects e) = false := by
        rw [Bool.eq_false_iff, ne_eq, Bool.and_eq_true, beq_iff_eq]
        exact hsel
      simp [hb, hnot, if_neg hsel]

/-- R35, R54: the selected bindings that are not queued join the queue in chain order. -/
theorem foldl_queueIfSelected (e : EventClass) {bs : List Nat} (hnodup : bs.Nodup) (s : State) :
    bs.foldl (queueIfSelected e) s = { s with
      mirrorQueue := s.mirrorQueue ++ bs.filter (fun x => !s.mirrorQueue.contains x && s.selectedBy e x) } := by
  induction bs generalizing s with
  | nil => simp
  | cons b rest ih =>
    obtain ⟨hb, hrest⟩ := List.nodup_cons.mp hnodup
    rw [List.foldl_cons, ih hrest, queueIfSelected_eq]
    have hsame : rest.filter (fun x => !(s.mirrorQueue ++ [b].filter (fun x =>
          !s.mirrorQueue.contains x && s.selectedBy e x)).contains x && s.selectedBy e x) =
        rest.filter (fun x => !s.mirrorQueue.contains x && s.selectedBy e x) := by
      refine List.filter_congr (fun x hx => ?_)
      have hne : x ≠ b := fun h => hb (h ▸ hx)
      have hnot : x ∉ [b].filter (fun x => !s.mirrorQueue.contains x && s.selectedBy e x) := fun h =>
        hne (List.mem_singleton.mp (List.mem_of_mem_filter h))
      have hcontains : (s.mirrorQueue ++ [b].filter (fun x =>
          !s.mirrorQueue.contains x && s.selectedBy e x)).contains x = s.mirrorQueue.contains x := by
        rw [Bool.eq_iff_iff, List.contains_iff_mem, List.contains_iff_mem, List.mem_append]
        exact or_iff_left hnot
      rw [hcontains]
    show { s with mirrorQueue := _ ++ rest.filter (fun x => !(s.mirrorQueue ++ [b].filter (fun x =>
          !s.mirrorQueue.contains x && s.selectedBy e x)).contains x && s.selectedBy e x) } = _
    rw [hsame, List.append_assoc, ← List.filter_append, List.singleton_append]

theorem pointEvent_eq {h : Nat} {p : Point} (e : EventClass) (hp : s.points.find h = some p)
    (hnodup : p.bindings.Nodup) : pointEvent h e s = { s with
      mirrorQueue :=
        s.mirrorQueue ++ p.bindings.filter (fun x => !s.mirrorQueue.contains x && s.selectedBy e x) } := by
  unfold pointEvent
  rw [hp]
  exact foldl_queueIfSelected e hnodup s

end

/-! ## FORCE_POINT and RELEASE_POINT (R42, R43, R46) -/

section

variable {s : State} {r : Request} {p : Point}

/-- A point event looks at no window. -/
theorem pointEvent_withoutHead (s : State) (c : ClientId) (rest : List Request) (h : Nat) (e : EventClass) :
    pointEvent h e (s.withoutHead c rest) = (pointEvent h e s).withoutHead c rest :=
  pointEvent_modifyClient s c _ h e

theorem forcePoint_force (c : ClientId) (hh : r.handle ≤ 1023) (hp : s.points.find r.handle = some p)
    (hkey : p.key = 0 ∨ r.key = p.key.toNat) (hretiring : p.state ≠ .retiring) (hforced : p.state ≠ .forced) :
    forcePoint c r s = okAnswer (pointEvent r.handle .quality { s with
      points := s.points.put r.handle (p.force r.w2) }) 0 0 0 := by
  unfold forcePoint
  rw [withPoint_acts _ hh hp hkey (isRetiring_of_ne hretiring), if_neg hforced]

theorem forcePoint_reforce (c : ClientId) (hh : r.handle ≤ 1023) (hp : s.points.find r.handle = some p)
    (hkey : p.key = 0 ∨ r.key = p.key.toNat) (hforced : p.state = .forced) :
    forcePoint c r s = okAnswer (pointEvent r.handle .value { s with
      points := s.points.put r.handle (p.reforce r.w2) }) 0 0 0 := by
  unfold forcePoint
  rw [withPoint_acts _ hh hp hkey (by rw [isRetiring, hforced]; rfl), if_pos hforced]

theorem releasePoint_release (c : ClientId) (hh : r.handle ≤ 1023) (hp : s.points.find r.handle = some p)
    (hkey : p.key = 0 ∨ r.key = p.key.toNat) (hforced : p.state = .forced) :
    releasePoint c r s = okAnswer (pointEvent r.handle .quality { s with
      points := s.points.put r.handle (p.release p.reported) }) (place 0 8 p.reported.state.code) 0 0 := by
  unfold releasePoint
  rw [withPoint_acts _ hh hp hkey (by rw [notForced, hforced]; rfl)]

theorem Point.force_eq {u : ReportedState} (hf : p.forced = none) (hu : p.state = u.toPointState) (v : Word) :
    p.force v = { p with
      state := .forced
      value := some v
      quality := .good
      stale := none
      notified := v
      forced := some ⟨v, ⟨u, p.value, p.quality, p.stale⟩⟩ } := by
  unfold Point.force
  rw [Point.reported_of_unforced hf hu]

theorem Point.reforce_eq {f : ForcedPart} (hf : p.forced = some f) (v : Word) : p.reforce v = { p with
    value := some v
    notified := v
    forced := some { f with value := v } } := by
  unfold Point.reforce
  rw [hf]
  rfl

theorem Point.release_eq (p : Point) (u : Reported) : p.release u = { p with
    state := match u.state with
      | .awaiting => .awaiting
      | .live => .live
      | .stale => .stale
    value := u.value
    quality := u.quality
    stale := u.stale
    notified := match u.value with
      | some v => v
      | none => p.notified
    forced := none } := by
  unfold Point.release
  cases u.state <;> cases u.value <;> rfl

theorem ReportedState.toPointState_ne (u : ReportedState) :
    u.toPointState ≠ .retiring ∧ u.toPointState ≠ .forced := by
  cases u <;> exact ⟨nofun, nofun⟩

end

/-- Settles O22. -/
theorem forceAndReleasePoint : Obligations.ForceAndReleasePoint := by
  refine ⟨fun s c r rest p hr hk hh hp hkey => ⟨fun u hf hu => ?_, fun f hstate hf => ?_⟩,
    fun s c r rest p f hr hk hh hp hkey hstate hf => ?_⟩
  · have hu' : p.state = u.toPointState := hu.trans (by cases u <;> rfl)
    obtain ⟨hretiring, hforced⟩ := u.toPointState_ne
    refine exec_request_ok hr hk rfl ((forcePoint_force (s := s.withoutHead c rest) c hh hp hkey
      (hu' ▸ hretiring) (hu' ▸ hforced)).trans ?_)
    rw [Point.force_eq hf hu', ← pointEvent_withoutHead]
    rfl
  · refine exec_request_ok hr hk rfl
      ((forcePoint_reforce (s := s.withoutHead c rest) c hh hp hkey hstate).trans ?_)
    rw [Point.reforce_eq hf, ← pointEvent_withoutHead]
    rfl
  · have hcode : p.reported.state.code = (match f.under.state with
        | .awaiting => 1
        | .live => 2
        | .stale => 3) := by
      rw [Point.reported_of_forced hf]
      cases f.under.state <;> rfl
    refine exec_request_ok hr hk rfl
      ((releasePoint_release (s := s.withoutHead c rest) c hh hp hkey hstate).trans ?_)
    rw [hcode, Point.reported_of_forced hf, Point.release_eq, ← pointEvent_withoutHead]
    rfl

/-! ## The entries of a report (R27) -/

section

variable {s : State} {sid : Nat} {st : Station} {e : Entry}

theorem takeEntryAt_unknown (hst : s.stations.find sid = some st)
    (hnum : ∀ x ∈ st.chain, numberOf s x ≠ some e.number.toNat) : takeEntryAt sid s e = s := by
  simp only [takeEntryAt, hst, pointByNumber_eq_none hnum]

theorem takeEntryAt_of_find {before after : List Nat} {h : Nat} {p : Point}
    (hst : s.stations.find sid = some st)
    (hchain : st.chain = before ++ h :: after)
    (hbefore : ∀ x ∈ before, numberOf s x ≠ some e.number.toNat) (hp : s.points.find h = some p)
    (hn : p.number = e.number) : takeEntryAt sid s e =
      if p.state = .retiring then s
      else announce h (p.takeEntry e s.now).2 { s with points := s.points.put h (p.takeEntry e s.now).1 } := by
  have hnum : numberOf s h = some e.number.toNat := hn ▸ numberOf_of_find hp
  simp only [takeEntryAt, hst, hchain, pointByNumber_eq_some hnum hbefore, hp]

end

/-- Settles O25: the search of the chain, and the queue after an event. -/
theorem reportEntriesAndPointEvents : Obligations.ReportEntriesAndPointEvents := by
  refine ⟨fun s sid st e hst => ⟨takeEntryAt_unknown hst, fun before h after p hchain hbefore hp hn =>
    ⟨fun hret => ?_, fun hret => ?_⟩⟩, fun s h p e hp hnodup => ?_⟩
  · rw [takeEntryAt_of_find hst hchain hbefore hp hn, if_pos hret]
  · rw [takeEntryAt_of_find hst hchain hbefore hp hn, if_neg hret]
    dsimp only
    cases (p.takeEntry e s.now).2 <;> rfl
  · rw [pointEvent_eq e hp hnodup]
    refine congrArg (fun q => { s with mirrorQueue := s.mirrorQueue ++ q })
      (List.filter_congr (fun b _ => congrArg (!s.mirrorQueue.contains b && ·) ?_))
    unfold State.selectedBy
    cases s.bindings.find b with
    | none => rfl
    | some r =>
      refine congrArg (r.state == .active && ·) ?_
      cases r.trigger <;> cases e <;> rfl

/-! ## The millisecond deadlines (R37, R116) -/

section

variable {s : State}

theorem expirePoint_of_find {h : Nat} {p : Point} (hp : s.points.find h = some p) :
    expirePoint h s = if deadlineDue p.deadline s.now = true then agePoint .expired s h else s := by
  simp only [expirePoint, hp]

theorem agePoint_live {h : Nat} {p : Point} (cause : StaleCause) (hp : s.points.find h = some p)
    (hstate : p.state = .live) : agePoint cause s h =
      pointEvent h .quality { s with points := s.points.put h (p.age cause) } := by
  have heligible : p.liveEligible = true := (Point.liveEligible_iff p).mpr (.inl hstate)
  simp only [agePoint, hp, heligible, hstate, if_true]

theorem agePoint_forced {h : Nat} {p : Point} (cause : StaleCause) (hp : s.points.find h = some p)
    (hstate : p.state = .forced) (hlive : p.reported.state = .live) : agePoint cause s h =
      { s with points := s.points.put h (p.age cause) } := by
  have heligible : p.liveEligible = true := (Point.liveEligible_iff p).mpr (.inr ⟨hstate, hlive⟩)
  simp only [agePoint, hp, heligible, hstate, if_true, reduceCtorEq, if_false]

theorem Point.age_unforced {p : Point} (cause : StaleCause) (hf : p.forced = none) : p.age cause = { p with
    state := .stale
    stale := some cause
    run := 0
    deadline := none } := by
  unfold Point.age Point.setReported Point.reported
  rw [hf]
  rfl

theorem Point.age_forced {p : Point} {f : ForcedPart} (cause : StaleCause) (hf : p.forced = some f) :
    p.age cause = { p with
      forced := some { f with under := { f.under with
        state := .stale
        stale := some cause } }
      run := 0
      deadline := none } := by
  unfold Point.age
  rw [Point.setReported_of_forced hf, Point.reported_of_forced hf]

theorem expireSlot_of_find {h : Nat} {r : Slot} (hr : s.slots.find h = some r) : expireSlot h s =
    if r.state = .accepted ∧ deadlineDue r.deadline s.now = true then
      settle (finishSlot h .timedOut 0 .abandoned s)
    else s := by
  simp only [expireSlot, hr]

/-! ## The end of a slot (R112) -/

theorem Table.isEmpty_put {α : Type} (t : Table α) (h : Nat) (a : α) : (t.put h a).rows.isEmpty = false := by
  cases hrows : (t.put h a).rows with
  | nil =>
    have hfind := t.find_put_same h a
    unfold Table.find at hfind
    rw [hrows] at hfind
    cases hfind
  | cons _ _ => rfl

theorem abandonTag_eq (sid g : Nat) (s : State) : abandonTag sid g s =
    { s with tagSets := s.tagSets.put sid ((s.tagSet sid).put g .abandoned) } := by
  unfold abandonTag State.setTagSet
  rw [Table.isEmpty_put, if_neg Bool.false_ne_true]

theorem releaseTag_abandoned {r : Slot} {g : Nat} (hg : r.tag = some g) (s : State) :
    releaseTag r .abandoned s =
      { s with tagSets := s.tagSets.put r.station ((s.tagSet r.station).put g .abandoned) } := by
  simp only [releaseTag, hg, abandonTag_eq]

theorem releaseTag_none {r : Slot} (hg : r.tag = none) (fate : TagFate) (s : State) :
    releaseTag r fate s = s := by
  simp only [releaseTag, hg]

/-- R112: slot `h` is DONE, in its owner's done list, and no longer the pending command of point `p`. -/
def State.ended (s : State) (h : Nat) (r : Slot) (p : Point) (result : CommandResult) (code : Byte) : State :=
  { s with
    slots := s.slots.put h (r.finish result code)
    points := s.points.put r.point { p with pendingCmd := none }
    doneLists := s.doneLists.modify r.client (fun d => d ++ [h])
    clients := s.clients.modify r.client (fun k => { k with sticky := k.sticky.raise .commandDone }) }

theorem finishSlot_abandoned {h g : Nat} {r : Slot} {p : Point} (hr : s.slots.find h = some r)
    (hp : s.points.find r.point = some p) (hlive : p.state ≠ .retiring) (hg : r.tag = some g)
    (result : CommandResult) (code : Byte) : finishSlot h result code .abandoned s =
      { s.ended h r p result code with
        tagSets := s.tagSets.put r.station ((s.tagSet r.station).put g .abandoned) } := by
  rw [finishSlot_live hr hp hlive, releaseTag_abandoned hg]
  rfl

theorem finishSlot_untagged {h : Nat} {r : Slot} {p : Point} (hr : s.slots.find h = some r)
    (hp : s.points.find r.point = some p) (hlive : p.state ≠ .retiring) (hg : r.tag = none)
    (result : CommandResult) (code : Byte) (fate : TagFate) :
    finishSlot h result code fate s = s.ended h r p result code := by
  rw [finishSlot_live hr hp hlive, releaseTag_none hg]
  rfl

end

/-- Settles O26: a deadline that is not due does nothing; one that is due ages the point, or ends the slot. -/
theorem millisecondDeadlinesExpire : Obligations.MillisecondDeadlinesExpire := by
  refine ⟨fun s h p hs hp => ⟨fun hdue => ?_, fun hdue hstate hf => ?_, fun f hdue hstate hf hlive => ?_⟩,
    fun s h r hs hr => ⟨fun hdue => ?_, fun g p hdue hstate hg hp hretiring => ?_⟩⟩
  all_goals refine (inService_of_resetN hs _).trans (congrArg Host.Outcome.next ?_)
  · rw [expirePoint_of_find hp, hdue, if_neg Bool.false_ne_true]
  · rw [expirePoint_of_find hp, if_pos hdue, agePoint_live .expired hp hstate, Point.age_unforced _ hf]
  · have hreported : p.reported.state = .live := by rw [Point.reported_of_forced hf, hlive]
    rw [expirePoint_of_find hp, if_pos hdue, agePoint_forced .expired hp hstate hreported,
      Point.age_forced _ hf]
  · rw [expireSlot_of_find hr, if_neg (fun h => by rw [hdue] at h; cases h.2)]
  · rw [expireSlot_of_find hr, if_pos ⟨hstate, hdue⟩, finishSlot_abandoned hr hp hretiring hg]
    rfl

end Sys2Proof.Machine
end


section
/-! The requests on bindings and commands: BIND and UNBIND (O27), SEND_COMMAND (O29), ABORT_COMMAND (O31), and
their refusals (O30). -/

namespace Sys2Proof.Machine

/-! ## BIND and UNBIND (R62, R63) -/

section

variable {s : State} {r : Request} {c : ClientId}

/-- R62: the operands of BIND in their ranges. -/
def BindArguments (r : Request) : Prop :=
  r.handle ≤ 1023 ∧ fieldOf r.w2 0 4 = 0 ∧ fieldOf r.w1 16 8 ≤ 2 ∧ r.key ≤ 15

theorem triggerOf_eq_none_iff (n : Nat) : triggerOf n = none ↔ 2 < n := by
  match n with
  | 0 => exact ⟨nofun, fun h => absurd h (by omega)⟩
  | 1 => exact ⟨nofun, fun h => absurd h (by omega)⟩
  | 2 => exact ⟨nofun, fun h => absurd h (by omega)⟩
  | n + 3 => exact ⟨fun _ => by omega, fun _ => rfl⟩

theorem bindPoint_badArgument (h : ¬BindArguments r) : bindPoint c r s = refuse s .badArgument := by
  unfold bindPoint
  split
  · rfl
  · rename_i t ht
    refine if_pos (Classical.byContradiction (fun hno => h ?_))
    have htrigger : ¬2 < fieldOf r.w1 16 8 := fun hn => by
      rw [(triggerOf_eq_none_iff _).mpr hn] at ht
      cases ht
    unfold Config.pointCount at hno
    unfold BindArguments
    omega

theorem bindPoint_of (h : BindArguments r) : ∃ t, triggerOf (fieldOf r.w1 16 8) = some t ∧ bindPoint c r s =
    (match s.points.find r.handle with
    | none => refuse s .notFound
    | some p =>
      if p.state = .retiring then refuse s .wrongState
      else if Config.bindingsPerPoint ≤ p.bindingCount then refuse s .limit
      else
        match s.bindings.lowestFree Config.bindingCount with
        | none => refuse s .noSpace
        | some b => okAnswer (placeBinding b (newBinding r.handle c (BitVec.ofNat 4 r.key) r.w2 t) s)
            (place 0 16 b) 0 0) := by
  obtain ⟨hh, hfield, htrigger, hkey⟩ := h
  cases ht : triggerOf (fieldOf r.w1 16 8) with
  | none => exact absurd ((triggerOf_eq_none_iff _).mp ht) (by omega)
  | some t =>
    refine ⟨t, rfl, ?_⟩
    unfold bindPoint
    simp only [ht]
    refine if_neg ?_
    unfold Config.pointCount
    omega

/-- R51, R62: the new binding at the tail of its point's chain and of the queue. -/
theorem placeBinding_eq {b h : Nat} {x : Binding} {p : Point} (hx : x.point = h)
    (hp : s.points.find h = some p) (hb : b ∉ s.mirrorQueue) : placeBinding b x s = { s with
      points := s.points.put h { p with bindings := p.bindings ++ [b] }
      bindings := s.bindings.put b x
      mirrorQueue := s.mirrorQueue ++ [b] } := by
  subst hx
  unfold placeBinding State.modifyPoint
  rw [Table.modify_some _ _ hp, queueBinding_of_notMem]
  exact hb

theorem unbindable_iff (x : BindingState) : unbindable x = true ↔ x = .active ∨ x = .suspended := by
  cases x <;> simp [unbindable]

theorem unbindPoint_detaching {b : Binding} (hh : r.handle ≤ 2047)
    (hb : s.bindings.find r.handle = some b) (hc : b.client = c)
      (hstate : b.state = .active ∨ b.state = .suspended)
    (hf : b.inFlight = true) : unbindPoint c r s = okAnswer { s with
      mirrorQueue := without s.mirrorQueue r.handle
      bindings := s.bindings.put r.handle { b with
        state := .detaching
        fault := none } } (place 0 8 4) 0 0 := by
  unfold unbindPoint
  rw [withOwnBinding_acts _ hh hb hc ((unbindable_iff _).mpr hstate), if_pos hf]
  unfold State.modifyBinding
  rw [Table.modify_some _ _ (show (unqueueBinding r.handle s).bindings.find r.handle = some b from hb)]
  rfl

/-- R51: a binding of a point that is not RETIRING leaves the queue and the chain. -/
theorem freeBinding_live {h : Nat} {b : Binding} {p : Point} (hb : s.bindings.find h = some b)
    (hp : s.points.find b.point = some p) (hlive : p.state ≠ .retiring) : freeBinding h s = { s with
      mirrorQueue := without s.mirrorQueue h
      bindings := s.bindings.drop h
      points := s.points.put b.point { p with bindings := without p.bindings h } } := by
  unfold freeBinding
  simp only [hb]
  unfold unqueueBinding State.modifyPoint
  dsimp only
  rw [Table.modify_some _ _ hp, testFree_stays]
  · intro q hq
    rw [Table.find_put_same] at hq
    obtain rfl := Option.some.inj hq
    exact .inl hlive

theorem unbindPoint_freed {b : Binding} {p : Point} (hh : r.handle ≤ 2047)
    (hb : s.bindings.find r.handle = some b) (hc : b.client = c)
      (hstate : b.state = .active ∨ b.state = .suspended)
    (hf : b.inFlight = false) (hp : s.points.find b.point = some p) (hlive : p.state ≠ .retiring) :
    unbindPoint c r s = okAnswer { s with
      mirrorQueue := without s.mirrorQueue r.handle
      bindings := s.bindings.drop r.handle
      points := s.points.put b.point { p with bindings := without p.bindings r.handle } } 0 0 0 := by
  unfold unbindPoint
  rw [withOwnBinding_acts _ hh hb hc ((unbindable_iff _).mpr hstate),
    if_neg (ne_true_of_eq_false hf), freeBinding_live hb hp hlive]

end

/-- Settles O27. -/
theorem bindAndUnbind : Obligations.BindAndUnbind := by
  refine ⟨?bind, ?unbind⟩
  case bind =>
    intro s c r rest p b trigger hr hk hh hkey hfield htrigger hp hstate hroom hfree hb
    have hle : fieldOf r.w1 16 8 ≤ 2 := by
      rw [htrigger]
      cases trigger <;> decide
    obtain ⟨t, ht, hbind⟩ := bindPoint_of (s := s.withoutHead c rest) (c := c) (r := r) ⟨hh, hfield, hle, hkey⟩
    obtain rfl : t = trigger := by
      rw [htrigger] at ht
      cases trigger <;> exact (Option.some.inj ht).symm
    refine exec_request_ok hr hk rfl (hbind.trans ?_)
    have hlowest : (s.withoutHead c rest).bindings.lowestFree Config.bindingCount = some b := hfree.lowestFree
    have hcount : ¬Config.bindingsPerPoint ≤ p.bindingCount := Nat.not_le.mpr hroom
    simp only [State.withoutHead_frame] at hlowest ⊢
    simp only [hp, if_neg hstate, if_neg hcount, hlowest]
    rw [placeBinding_eq (s := s.withoutHead c rest) (h := r.handle) (p := p) rfl hp hb]
    rfl
  case unbind =>
    intro s c r rest b hr hk hh hb hc hstate queue
    refine ⟨fun hf => exec_request_ok hr hk rfl
      ((unbindPoint_detaching (s := s.withoutHead c rest) hh hb hc hstate hf).trans rfl),
      fun p hf hp hlive => exec_request_ok hr hk rfl
        ((unbindPoint_freed (s := s.withoutHead c rest) hh hb hc hstate hf hp hlive).trans rfl)⟩

/-! ## SEND_COMMAND (R113) -/

section

variable {s : State} {r : Request} {c : ClientId}

theorem Quad.modify_self {α : Type} {q : Quad α} {i : Fin 4} {f : α → α} (h : f (q.get i) = q.get i) :
    q.modify i f = q := by
  refine Quad.ext_get (fun j => ?_)
  rw [Quad.get_modify]
  split
  · rename_i hj
    rw [h, hj]
  · rfl

theorem Quad.modify_congr {α : Type} {q : Quad α} {i : Fin 4} {f g : α → α} (h : f (q.get i) = g (q.get i)) :
    q.modify i f = q.modify i g := by
  unfold Quad.modify
  rw [h]

theorem canCommand_of {sid : Nat} {st : Station} (hst : s.stations.find sid = some st)
    (hpresent : st.state = .present) (hcap : 0 < st.capacity) : canCommand s sid = true := by
  simp only [canCommand, hst, hpresent, beq_self_eq_true, decide_eq_true hcap, Bool.and_self]

theorem notCommandable_eq_false {p : Point} {st : Station} (hstate : p.state ≠ .retiring)
    (hst : s.stations.find p.station = some st) (hpresent : st.state = .present) (hcap : 0 < st.capacity) :
    notCommandable s p = false := by
  rw [notCommandable, canCommand_of hst hpresent hcap, beq_eq_false_iff_ne.mpr hstate]
  rfl

/-- R113: what SEND_COMMAND does at a point that can take a command. -/
theorem sendCommand_of {p : Point} {st : Station} (hh : r.handle ≤ 1023)
    (hp : s.points.find r.handle = some p) (hkey : p.key = 0 ∨ r.key = p.key.toNat)
    (hstate : p.state ≠ .retiring) (hst : s.stations.find p.station = some st)
    (hpresent : st.state = .present) (hcap : 0 < st.capacity) : sendCommand c r s =
      if p.pendingCmd.isSome then refuse s .pointBusy
      else
        match grantedSlot s c with
        | some k => okAnswer (placeSlot k (newSlot c r.hostTag r.handle p.station r.w2) st.link s)
            (place 0 16 k) 0 0
        | none => refuse s .noSlot := by
  unfold sendCommand
  rw [withPoint_acts _ hh hp hkey (notCommandable_eq_false hstate hst hpresent hcap)]
  unfold stationLink
  rw [hst]
  cases grantedSlot s c <;> rfl

theorem grantedSlot_eq_none (h : 16 ≤ clientSlots s c ∨ ∀ k, k < 32 → s.slots.find k ≠ none) :
    grantedSlot s c = none := by
  unfold grantedSlot
  rcases h with h | h
  · exact if_neg (Nat.not_lt.mpr h)
  · split
    · exact Table.lowestFree_full h
    · rfl

theorem grantedSlot_eq_some {k : Nat} (h : clientSlots s c < 16) (hk : IsLowestFree s.slots 32 k) :
    grantedSlot s c = some k := (if_pos h).trans hk.lowestFree

/-- R93, R113: the new slot is noticed by its link when its station has room. -/
theorem placeSlot_eq {k : Nat} {x : Slot} {p : Point} {st : Station} (hqueued : x.state = .queued)
    (hp : s.points.find x.point = some p) (hst : s.stations.find x.station = some st) :
    placeSlot k x st.link s = { s with
      points := s.points.put x.point { p with pendingCmd := some k }
      slots := s.slots.put k x
      cmdQueues := s.cmdQueues.modify st.link (fun q => q ++ [k])
      links := s.links.modify st.link (fun y =>
        if y.activity = .gap ∧ y.burst < y.config.burstLimit.toNat ∧
          (s.tagSet x.station).rows.length < st.capacity then { y with activity := .deciding }
        else y) } := by
  unfold placeSlot State.modifyPoint
  rw [Table.modify_some _ _ hp]
  generalize hu : ({ s with
    points := s.points.put x.point { p with pendingCmd := some k }
    slots := s.slots.put k x
    cmdQueues := s.cmdQueues.modify st.link (fun q => q ++ [k]) } : State) = u
  have heligible : u.eligible k = decide ((s.tagSet x.station).rows.length < st.capacity) := by
    subst hu
    simp only [State.eligible, Table.find_put_same, hqueued, beq_self_eq_true, Bool.true_and, State.hasRoom,
      hst]
    rfl
  unfold noticeNewSlot
  rw [heligible]
  by_cases hroom : (s.tagSet x.station).rows.length < st.capacity
  · have hopen : s.links.modify st.link Link.openInGap = s.links.modify st.link (fun y =>
        if y.activity = .gap ∧ y.burst < y.config.burstLimit.toNat ∧
          (s.tagSet x.station).rows.length < st.capacity then { y with activity := .deciding }
        else y) := by
      refine Quad.modify_congr ?_
      simp only [Link.openInGap, Link.burstOpen, decide_eq_true_eq, hroom, and_true]
    rw [if_pos (decide_eq_true hroom), ← hopen, ← hu]
    rfl
  · have hsame : s.links.modify st.link (fun y =>
        if y.activity = .gap ∧ y.burst < y.config.burstLimit.toNat ∧
          (s.tagSet x.station).rows.length < st.capacity then { y with activity := .deciding }
        else y) = s.links := Quad.modify_self (if_neg (fun h => hroom h.2.2))
    rw [if_neg (by simpa using hroom), hsame, ← hu]

end

/-- Settles O29. -/
theorem sendCommandQueuesASlot : Obligations.SendCommandQueuesASlot := by
  intro s c r rest p st k hr hk hh hp hkey hstate hst hpresent hcap hpending hfree hslots
  refine exec_request_ok hr hk rfl
    ((sendCommand_of (s := s.withoutHead c rest) hh hp hkey hstate hst hpresent hcap).trans ?_)
  have hnone : ¬p.pendingCmd.isSome = true := by rw [hpending]; exact Bool.false_ne_true
  rw [if_neg hnone, grantedSlot_eq_some (s := s.withoutHead c rest) hslots hfree]
  dsimp only
  rw [placeSlot_eq (s := s.withoutHead c rest) (x := newSlot c r.hostTag r.handle p.station r.w2) rfl hp hst]
  rfl

/-! ## ABORT_COMMAND (R119) -/

section

variable {s : State} {r : Request} {c : ClientId}

theorem slotHandle_inRange {h : Nat} (hh : h ≤ 31) : ¬Config.slotCount ≤ h :=
  Nat.not_le.mpr (Nat.lt_succ_of_le hh)

theorem abortCommand_of_find {k : Slot} (hh : r.handle ≤ 31) (hk : s.slots.find r.handle = some k)
    (hc : k.client = c) : abortCommand c r s = abortSlot r.handle k s := by
  simp only [abortCommand, if_neg (slotHandle_inRange hh), hk, hc, ne_eq, not_true_eq_false, if_false]

theorem abortCommand_notFound (hh : r.handle ≤ 31)
    (hother : ∀ k, s.slots.find r.handle = some k → k.client ≠ c) :
    abortCommand c r s = refuse s .notFound := by
  unfold abortCommand
  rw [if_neg (slotHandle_inRange hh)]
  cases hk : s.slots.find r.handle with
  | none => rfl
  | some k => exact if_pos (hother k hk)

/-- A window's updates of its sticky causes and of its request FIFO act on different fields. -/
theorem modify_withoutHead (q : Quad Client) (c d : ClientId) (x : StickyCause) (rest : List Request) :
    (q.modify c (fun k => { k with requests := rest })).modify d
        (fun k => { k with sticky := k.sticky.raise x }) =
      (q.modify d (fun k => { k with sticky := k.sticky.raise x })).modify c
        (fun k => { k with requests := rest }) := by
  refine Quad.ext_get (fun j => ?_)
  simp only [Quad.get_modify]
  by_cases hc : j = c <;> by_cases hd : j = d <;> by_cases hcd : c = d <;> simp_all

theorem State.ended_withoutHead (s : State) (c : ClientId) (rest : List Request) (h : Nat) (r : Slot)
    (p : Point) (result : CommandResult) (code : Byte) :
    (s.withoutHead c rest).ended h r p result code = (s.ended h r p result code).withoutHead c rest := by
  show { s with
    slots := s.slots.put h (r.finish result code)
    points := s.points.put r.point { p with pendingCmd := none }
    doneLists := s.doneLists.modify r.client (fun d => d ++ [h])
    clients := (s.clients.modify c (fun k => { k with requests := rest })).modify r.client
      (fun k => { k with sticky := k.sticky.raise .commandDone }) } = _
  rw [modify_withoutHead]
  rfl

theorem abortSlot_queued {h : Nat} {k : Slot} {p : Point} (hk : s.slots.find h = some k)
    (hstate : k.state = .queued) (htag : k.tag = none) (hp : s.points.find k.point = some p)
    (hlive : p.state ≠ .retiring) : abortSlot h k s =
      okAnswer ((dequeue h s).ended h k p .aborted 0) (place 0 8 slotDoneCode) 0 0 := by
  simp only [abortSlot, hstate]
  rw [finishSlot_untagged (s := dequeue h s) hk hp hlive htag]

theorem abortSlot_sent {h : Nat} {k : Slot} (hk : s.slots.find h = some k) (hstate : k.state = .sent) :
    abortSlot h k s = okAnswer { s with slots := s.slots.put h { k with abort := some .aborted } }
      (place 0 8 slotSentCode) 0 0 := by
  have hput : s.modifySlot h (fun r => { r with abort := some .aborted }) =
      { s with slots := s.slots.put h { k with abort := some .aborted } } := by
    unfold State.modifySlot
    rw [Table.modify_some _ _ hk]
  simp only [abortSlot, hstate, hput]

theorem abortSlot_accepted {h g : Nat} {k : Slot} {p : Point} (hk : s.slots.find h = some k)
    (hstate : k.state = .accepted) (htag : k.tag = some g) (hp : s.points.find k.point = some p)
    (hlive : p.state ≠ .retiring) : abortSlot h k s =
      okAnswer { s.ended h k p .aborted 0 with
        tagSets := s.tagSets.put k.station ((s.tagSet k.station).put g .abandoned) }
      (place 0 8 slotDoneCode) 0 0 := by
  simp only [abortSlot, hstate]
  rw [finishSlot_abandoned hk hp hlive htag]

theorem abortSlot_done {h : Nat} {k : Slot} (hstate : k.state = .done) :
    abortSlot h k s = refuse s .wrongState := by
  simp only [abortSlot, hstate]

end

/-- Settles O31, by the state of the slot. -/
theorem abortCommandEndsOrMarksTheSlot : Obligations.AbortCommandEndsOrMarksTheSlot := by
  intro s c r rest k hr hkind hh hk hc ended
  subst hc
  have habort := abortCommand_of_find (s := s.withoutHead k.client rest) hh hk rfl
  refine ⟨fun p hstate htag hp hlive => ?_, fun hstate => ?_, fun p g hstate htag hp hlive => ?_⟩
  · refine exec_request_ok hr hkind rfl (habort.trans
      ((abortSlot_queued (s := s.withoutHead k.client rest) hk hstate htag hp hlive).trans ?_))
    rw [show dequeue r.handle (s.withoutHead k.client rest) =
      (dequeue r.handle s).withoutHead k.client rest from rfl, State.ended_withoutHead]
    rfl
  · exact exec_request_ok hr hkind rfl (habort.trans
      ((abortSlot_sent (s := s.withoutHead k.client rest) hk hstate).trans rfl))
  · refine exec_request_ok hr hkind rfl (habort.trans
      ((abortSlot_accepted (s := s.withoutHead k.client rest) hk hstate htag hp hlive).trans ?_))
    rw [State.ended_withoutHead]
    rfl

/-! ## The refusals of these requests -/

section

variable {s : State} {r : Request} {c : ClientId}

theorem queryBinding_refused : (2047 < r.handle → queryBinding c r s = refuse s .badArgument) ∧
    (r.handle ≤ 2047 → s.bindings.find r.handle = none → queryBinding c r s = refuse s .notFound) := by
  refine ⟨fun hh => if_pos hh, fun hh hb => ?_⟩
  simp only [queryBinding, if_neg ((bindingHandle_inRange_iff _).mp hh), hb]

end

/-- Settles O30: each refusal is that of its check, the checks before it passed. -/
theorem bindingAndCommandRefusals : Obligations.BindingAndCommandRefusals := by
  refine ⟨fun s c r rest hr => ⟨?bind, ?own⟩, fun s c r rest hr => ⟨?send, ?abort⟩⟩
  case bind =>
    intro hk good
    have hof (hg : good) := bindPoint_of (s := s.withoutHead c rest) (c := c) (r := r) hg
    refine ⟨fun hg => ?_, fun hg hp => ?_, fun p hg hp => ⟨fun hstate => ?_, fun hstate hlimit => ?_,
      fun hstate hroom hfull => ?_⟩⟩
    · exact exec_request_refused hr hk .badArgument rfl (bindPoint_badArgument hg)
    all_goals obtain ⟨t, -, hbind⟩ := hof hg
    all_goals simp only [State.withoutHead_frame, hp] at hbind
    · exact exec_request_refused hr hk .notFound rfl hbind
    · exact exec_request_refused hr hk .wrongState rfl (hbind.trans (if_pos hstate))
    all_goals rw [if_neg hstate] at hbind
    · exact exec_request_refused hr hk .limit rfl (hbind.trans (if_pos hlimit))
    · rw [if_neg (show ¬Config.bindingsPerPoint ≤ p.bindingCount from Nat.not_le.mpr hroom),
        show s.bindings.lowestFree Config.bindingCount = none from Table.lowestFree_full hfull] at hbind
      exact exec_request_refused hr hk .noSpace rfl hbind
  case own =>
    intro i hi
    simp only [List.mem_cons, Prod.mk.injEq, List.not_mem_nil, or_false] at hi
    rcases hi with ⟨hk, rfl⟩ | ⟨hk, rfl⟩ | ⟨hk, rfl⟩
    · refine ⟨fun hh => ?_, fun hh hb => ?_, fun b hh hb => ⟨fun _ hc => ?_, fun _ hc hstate => ?_, fun h22 => ?_⟩⟩
      · exact exec_request_refused hr hk .badArgument rfl (withOwnBinding_badArgument _ hh)
      · exact exec_request_refused hr hk .notFound rfl (withOwnBinding_notFound _ hh
          (fun b hb' => by cases hb.symm.trans hb'))
      · exact exec_request_refused hr hk .notFound rfl (withOwnBinding_notFound _ hh
          (fun b' hb' => by cases hb.symm.trans hb'; exact hc))
      · refine exec_request_refused hr hk .wrongState rfl (withOwnBinding_wrongState _ hh hb hc ?_)
        rcases hstate with hstate | hstate <;> rw [hstate] <;> rfl
      · rw [hk] at h22
        cases h22
    · refine ⟨fun hh => ?_, fun hh hb => ?_, fun b hh hb => ⟨fun _ hc => ?_, fun h21 => ?_, fun _ hc hstate => ?_⟩⟩
      · exact exec_request_refused hr hk .badArgument rfl (withOwnBinding_badArgument _ hh)
      · exact exec_request_refused hr hk .notFound rfl (withOwnBinding_notFound _ hh
          (fun b hb' => by cases hb.symm.trans hb'))
      · exact exec_request_refused hr hk .notFound rfl (withOwnBinding_notFound _ hh
          (fun b' hb' => by cases hb.symm.trans hb'; exact hc))
      · rw [hk] at h21
        cases h21
      · exact exec_request_refused hr hk .wrongState rfl (withOwnBinding_wrongState _ hh hb hc
          (Bool.eq_false_iff.mpr (fun h => hstate ((resumable_iff _).mp h))))
    · refine ⟨fun hh => ?_, fun hh hb => ?_, fun b hh hb => ⟨fun h23 => absurd hk h23, fun h21 => ?_, fun h22 => ?_⟩⟩
      · exact exec_request_refused hr hk .badArgument rfl (queryBinding_refused.1 hh)
      · exact exec_request_refused hr hk .notFound rfl (queryBinding_refused.2 hh hb)
      · rw [hk] at h21
        cases h21
      · rw [hk] at h22
        cases h22
  case send =>
    intro p st hk hh hp hkey hstate hst hpresent hcap
    have hsend := sendCommand_of (s := s.withoutHead c rest) (c := c) hh hp hkey hstate hst hpresent hcap
    refine ⟨fun hpending => ?_, fun hpending hfull => ?_⟩
    · exact exec_request_refused hr hk .pointBusy rfl
        (hsend.trans (if_pos (Option.isSome_iff_ne_none.mpr hpending)))
    · have hnone : ¬p.pendingCmd.isSome = true := by rw [hpending]; exact Bool.false_ne_true
      rw [if_neg hnone, grantedSlot_eq_none (s := s.withoutHead c rest) hfull] at hsend
      exact exec_request_refused hr hk .noSlot rfl hsend
  case abort =>
    intro hk
    refine ⟨fun hh => ?_, fun hh hother => ?_, fun k hh hfind hc hstate => ?_⟩
    · exact exec_request_refused hr hk .badArgument rfl (if_pos hh)
    · exact exec_request_refused hr hk .notFound rfl (abortCommand_notFound hh hother)
    · exact exec_request_refused hr hk .wrongState rfl
        ((abortCommand_of_find (s := s.withoutHead c rest) hh hfind hc).trans (abortSlot_done hstate))

end Sys2Proof.Machine
end


section
/-! How a COMMAND exchange and a completion end a slot: Tables 6-4 and 6-5 (O33, O34). -/

namespace Sys2Proof.Machine

section

variable {s : State} {h g : Nat} {r : Slot} {p : Point}

/-- R112, R25: slot `h` is DONE, and its point either FREE or without a pending command. -/
def State.doneSlot (s : State) (h : Nat) (r : Slot) (p : Point) (result : CommandResult) (code : Byte) :
    State :=
  { s with
    slots := s.slots.put h (r.finish result code)
    points :=
      if p.state = .retiring ∧ p.bindings = [] then s.points.drop r.point
      else s.points.put r.point { p with pendingCmd := none }
    stations :=
      if p.state = .retiring ∧ p.bindings = [] then
        s.stations.modify p.station (fun q => { q with chain := q.chain.filter (fun x => x != r.point) })
      else s.stations
    doneLists := s.doneLists.modify r.client (fun d => d ++ [h])
    clients := s.clients.modify r.client (fun k => { k with sticky := k.sticky.raise .commandDone }) }

/-- R112: the entry of a slot into DONE, whatever the state of its point. -/
theorem finishSlot_at (hr : s.slots.find h = some r) (hp : s.points.find r.point = some p)
    (result : CommandResult) (code : Byte) (fate : TagFate) :
    finishSlot h result code fate s = { s.doneSlot h r p result code with
      tagSets := (releaseTag r fate s).tagSets
      links := (releaseTag r fate s).links } := by
  rw [finishSlot_eq hr, Table.modify_some _ _ hp]
  unfold State.doneSlot
  by_cases hgone : p.state = .retiring ∧ p.bindings = []
  · rw [testFree_frees (p := { p with pendingCmd := none }) (Table.find_put_same _ _ _) hgone.1 rfl hgone.2]
    unfold freePoint State.modifyStation
    simp only [Table.drop_put, if_pos hgone]
    rfl
  · rw [testFree_stays]
    · simp only [if_neg hgone]
    · intro q hq
      rw [Table.find_put_same] at hq
      obtain rfl := Option.some.inj hq
      by_cases hret : p.state = .retiring
      · exact .inr (.inr (fun hb => hgone ⟨hret, hb⟩))
      · exact .inl hret

/-- R111: what a freed tag leaves of the tag sets. -/
def State.freedTag (s : State) (sid g : Nat) : Table (Table TagUse) :=
  if ((s.tagSet sid).drop g).rows = [] then s.tagSets.drop sid
  else s.tagSets.put sid ((s.tagSet sid).drop g)

theorem setTagSet_drop (s : State) (sid g : Nat) :
    s.setTagSet sid ((s.tagSet sid).drop g) = { s with tagSets := s.freedTag sid g } := by
  unfold State.setTagSet State.freedTag
  simp only [List.isEmpty_iff]

theorem freeTag_quiet {sid : Nat} {st : Station} (hst : s.stations.find sid = some st)
    (hgap : (s.link st.link).activity ≠ .gap) (g : Nat) :
    freeTag sid g s = { s with tagSets := s.freedTag sid g } := by
  unfold freeTag
  rw [setTagSet_drop]
  refine noticeFreedTag_quiet _ _ _ (fun st' hst' => ?_)
  cases hst.symm.trans hst'
  exact hgap

theorem releaseTag_freed {st : Station} (hg : r.tag = some g) (hst : s.stations.find r.station = some st)
    (hgap : (s.link st.link).activity ≠ .gap) :
    releaseTag r .freed s = { s with tagSets := s.freedTag r.station g } := by
  simp only [releaseTag, hg, freeTag_quiet hst hgap]

theorem finishSlot_at_abandoned (hr : s.slots.find h = some r) (hp : s.points.find r.point = some p)
    (hg : r.tag = some g) (result : CommandResult) (code : Byte) :
    finishSlot h result code .abandoned s = { s.doneSlot h r p result code with
      tagSets := s.tagSets.put r.station ((s.tagSet r.station).put g .abandoned) } := by
  rw [finishSlot_at hr hp, releaseTag_abandoned hg]
  rfl

theorem finishSlot_at_freed {st : Station} (hr : s.slots.find h = some r)
    (hp : s.points.find r.point = some p) (hg : r.tag = some g)
    (hst : s.stations.find r.station = some st) (hgap : (s.link st.link).activity ≠ .gap)
    (result : CommandResult) (code : Byte) : finishSlot h result code .freed s =
      { s.doneSlot h r p result code with tagSets := s.freedTag r.station g } := by
  rw [finishSlot_at hr hp, releaseTag_freed hg hst hgap]
  rfl

/-! ## The answer to a COMMAND (R115, Table 6-4) -/

theorem commandAnswer_accepted (hr : s.slots.find h = some r) (ha : r.abort = none) :
    commandAnswer h (.answered (.ack 0)) s = { s with slots := s.slots.put h { r with
      state := .accepted
      deadline := some (r.startDeadline s.now) } } := by
  have hput : s.modifySlot h (fun r => { r with
      state := .accepted
      deadline := some (r.startDeadline s.now) }) = { s with slots := s.slots.put h { r with
        state := .accepted
        deadline := some (r.startDeadline s.now) } } := by
    unfold State.modifySlot
    rw [Table.modify_some _ _ hr]
  simp only [commandAnswer, hr, ha, if_true, hput]

theorem commandAnswer_refused (hr : s.slots.find h = some r) (ha : r.abort = none) {code : Byte}
    (hcode : code ≠ 0) : commandAnswer h (.answered (.ack code)) s = finishSlot h .refused code .freed s := by
  simp only [commandAnswer, hr, ha, if_neg hcode]

theorem commandAnswer_aborted (hr : s.slots.find h = some r) {a : AbortPending} (ha : r.abort = some a)
    {code : Byte} (hcode : code ≠ 0) :
    commandAnswer h (.answered (.ack code)) s = finishSlot h a.result code .freed s := by
  simp only [commandAnswer, hr, ha, if_neg hcode]

/-- R115: the exchange ended without an answer. -/
def ExchangeOutcome.noReply (o : ExchangeOutcome) : Prop := o = .silent ∨ ∃ f, o = .damaged f

theorem commandAnswer_silent (hr : s.slots.find h = some r) (ha : r.abort = none) {o : ExchangeOutcome}
    (ho : o.noReply) : commandAnswer h o s = finishSlot h .noResponse 0 .abandoned s := by
  rcases ho with rfl | ⟨f, rfl⟩ <;> simp only [commandAnswer, hr, ha]

theorem commandAnswer_abandoned (hr : s.slots.find h = some r) {a : AbortPending} (ha : r.abort = some a)
    {o : ExchangeOutcome} (ho : o = .answered (.ack 0) ∨ o.noReply) :
    commandAnswer h o s = finishSlot h a.result 0 .abandoned s := by
  rcases ho with rfl | rfl | ⟨f, rfl⟩
  · simp only [commandAnswer, hr, ha, if_true]
  · simp only [commandAnswer, hr, ha]
  · simp only [commandAnswer, hr, ha]

end

/-- Settles O33, by the cells of Table 6-4. -/
theorem commandAnswerTable : Obligations.CommandAnswerTable := by
  intro s h g r p st o hr hstate hg hp hst hgap set gone done abandoned freed noReply
  refine ⟨?_, ?_, ?_, ?_⟩
  · intro timeout ha ho htimeout
    subst ho
    rw [commandAnswer_accepted hr ha, Slot.startDeadline, htimeout]
    rfl
  · intro code ha ho hcode
    subst ho
    rw [commandAnswer_refused hr ha hcode, finishSlot_at_freed hr hp hg hst hgap]
    rfl
  · intro ha ho
    rw [commandAnswer_silent hr ha ho, finishSlot_at_abandoned hr hp hg]
    rfl
  · intro result hresult
    obtain ⟨a, ha, hres⟩ : ∃ a : AbortPending, r.abort = some a ∧ a.result = result := by
      rcases hresult with ⟨ha, rfl⟩ | ⟨ha, rfl⟩
      · exact ⟨.aborted, ha, rfl⟩
      · exact ⟨.retired, ha, rfl⟩
    refine ⟨fun ho => ?_, fun code ho hcode => ?_⟩
    · rw [commandAnswer_abandoned hr ha ho, hres, finishSlot_at_abandoned hr hp hg]
      rfl
    · subst ho
      rw [commandAnswer_aborted hr ha hcode, hres, finishSlot_at_freed hr hp hg hst hgap]
      rfl

/-- Settles O34, by the use of the tag that the completion names. -/
theorem completionTable : Obligations.CompletionTable := by
  intro s sid l st x hst hgap set freed
  refine ⟨fun ht => ?_, fun ht => ?_, fun h r p ht hr hstate hsid hg hp hlive => ?_⟩
  · simp only [takeCompletion, show (s.tagSet sid).find x.tag.toNat = none from ht]
    rfl
  · simp only [takeCompletion, show (s.tagSet sid).find x.tag.toNat = some .abandoned from ht,
      freeTag_quiet hst hgap]
    rfl
  · subst hsid
    have hfinish (result : CommandResult) (code : Byte) :
        finishSlot h result code .freed s = { s.ended h r p result code with
          tagSets := s.freedTag r.station x.tag.toNat } := by
      rw [finishSlot_live hr hp hlive, releaseTag_freed hg hst hgap]
      rfl
    simp only [takeCompletion, show (s.tagSet r.station).find x.tag.toNat = some (.held h) from ht, hr, hstate,
      if_true, hfinish]
    by_cases hx : x.result = 0
    · rw [if_pos hx, if_pos hx, hx]
      rfl
    · rw [if_neg hx, if_neg hx]
      rfl

end Sys2Proof.Machine
end


section
/-! RETIRE_POINT: what it does with the pending command (O20) and with the bindings (O21) of the point. -/

namespace Sys2Proof.Machine

/-! ## The pending command (R23) -/

section

variable {s : State} {h k g : Nat} {p : Point} {slot : Slot} {c : ClientId} {r : Request}

theorem retireCommand_queued (hk : s.slots.find k = some slot) (hstate : slot.state = .queued) :
    retireCommand k s = finishSlot k .retired 0 .freed (dequeue k s) := by
  simp only [retireCommand, hk, hstate]

theorem retireCommand_accepted (hk : s.slots.find k = some slot) (hstate : slot.state = .accepted) :
    retireCommand k s = finishSlot k .retired 0 .abandoned s := by
  simp only [retireCommand, hk, hstate]

theorem retireCommand_sent (hk : s.slots.find k = some slot) (hstate : slot.state = .sent) :
    retireCommand k s = { s with slots := s.slots.put k slot.markRetired } := by
  have hput : s.modifySlot k Slot.markRetired = { s with slots := s.slots.put k slot.markRetired } := by
    unfold State.modifySlot
    rw [Table.modify_some _ _ hk]
  simp only [retireCommand, hk, hstate]
  exact hput

/-- R22: the retiring record with its pending command handed over. -/
def State.retired (s : State) (h : Nat) (p : Point) : State :=
  match p.pendingCmd with
  | none => { s with points := s.points.put h p.retire }
  | some k => retireCommand k { s with points := s.points.put h p.retire }

theorem retireRecord_eq (h : Nat) (p : Point) (s : State) :
    retireRecord h p s = testFree h (closeBindings h (s.retired h p)) := by
  unfold retireRecord State.retired
  cases p.pendingCmd <;> rfl

theorem retirePoint_retired (hh : r.handle ≤ 1023) (hp : s.points.find r.handle = some p)
    (hkey : p.key = 0 ∨ r.key = p.key.toNat) (hstate : p.state ≠ .retiring) :
    retirePoint c r s = okAnswer (retireRecord r.handle p s)
      (place 0 8 (pointStateCode (retireRecord r.handle p s) r.handle)) 0 0 := by
  unfold retirePoint
  rw [withPoint_acts _ hh hp hkey (isRetiring_of_ne hstate)]

theorem retired_none (hpending : p.pendingCmd = none) :
    s.retired h p = { s with points := s.points.put h p.retire } := by
  simp only [State.retired, hpending]

theorem retired_sent (hpending : p.pendingCmd = some k) (hk : s.slots.find k = some slot)
    (hstate : slot.state = .sent) : s.retired h p = { s with
      points := s.points.put h p.retire
      slots := s.slots.put k slot.markRetired } := by
  simp only [State.retired, hpending]
  exact retireCommand_sent hk hstate

theorem retired_queued (hpending : p.pendingCmd = some k) (hk : s.slots.find k = some slot)
    (hpoint : slot.point = h) (hstate : slot.state = .queued) :
    s.retired h p = { (dequeue k { s with points := s.points.put h p.retire }).doneSlot k slot p.retire .retired 0 with
      tagSets := (releaseTag slot .freed (dequeue k { s with points := s.points.put h p.retire })).tagSets
      links := (releaseTag slot .freed (dequeue k { s with points := s.points.put h p.retire })).links } := by
  subst hpoint
  simp only [State.retired, hpending]
  rw [retireCommand_queued (s := { s with points := s.points.put slot.point p.retire }) hk hstate]
  exact finishSlot_at (s := dequeue k { s with points := s.points.put slot.point p.retire }) hk
    (Table.find_put_same _ _ _) _ _ _

theorem retired_accepted (hpending : p.pendingCmd = some k) (hk : s.slots.find k = some slot)
    (hpoint : slot.point = h) (hstate : slot.state = .accepted) :
    s.retired h p = { ({ s with points := s.points.put h p.retire } : State).doneSlot k slot p.retire .retired 0 with
      tagSets := (releaseTag slot .abandoned { s with points := s.points.put h p.retire }).tagSets
      links := (releaseTag slot .abandoned { s with points := s.points.put h p.retire }).links } := by
  subst hpoint
  simp only [State.retired, hpending]
  rw [retireCommand_accepted (s := { s with points := s.points.put slot.point p.retire }) hk hstate]
  exact finishSlot_at (s := { s with points := s.points.put slot.point p.retire }) hk
    (Table.find_put_same _ _ _) _ _ _

/-! ## A point without bindings -/

theorem closeBindings_nil (hp : ∀ p, s.points.find h = some p → p.bindings = []) : closeBindings h s = s := by
  unfold closeBindings
  cases hf : s.points.find h with
  | none => rfl
  | some p =>
    simp only [hp p hf]
    rfl

theorem testFree_none (hp : s.points.find h = none) : testFree h s = s :=
  testFree_stays (fun p hf => by rw [hp] at hf; cases hf)

/-- R25: the record with no binding, once its command is gone, is FREE. -/
theorem retireRecord_done (hgone : (s.retired h p).points.find h = none) :
    retireRecord h p s = s.retired h p := by
  have hnone : ∀ q, (s.retired h p).points.find h = some q → q.bindings = [] :=
    fun q hq => by rw [hgone] at hq; cases hq
  rw [retireRecord_eq, closeBindings_nil hnone, testFree_none hgone]

/-- R22: the published view of the point becomes its own. -/
theorem Point.retire_eq (p : Point) : p.retire = { p with
    state := .retiring
    value := match p.forced with
      | some f => some f.value
      | none => p.value
    quality := match p.forced with
      | some _ => .good
      | none => p.quality
    stale := match p.forced with
      | some _ => none
      | none => p.stale
    forced := none
    deadline := none
    run := 0 } := by
  unfold Point.retire Point.published
  cases p.forced <;> rfl

/-- R12, R25: point `h` is FREE and out of its station's chain. -/
def State.withoutPoint (s : State) (h : Nat) (p : Point) : State :=
  { s with
    stations := s.stations.modify p.station (fun st => { st with chain := st.chain.filter (fun x => x != h) })
    points := s.points.drop h }

theorem retireRecord_idle (hpending : p.pendingCmd = none) (hb : p.bindings = []) :
    retireRecord h p s = s.withoutPoint h p := by
  rw [retireRecord_eq, retired_none hpending, closeBindings_nil, testFree_frees (Table.find_put_same _ _ _)]
  · unfold freePoint State.modifyStation
    simp only [Table.drop_put]
    rfl
  · rfl
  · exact hpending
  · exact hb
  · intro q hq
    rw [Table.find_put_same] at hq
    obtain rfl := Option.some.inj hq
    exact hb

theorem doneSlot_retire (hb : p.bindings = []) (u : State) (hu : u.points = s.points.put h p.retire)
    (hpoint : slot.point = h) : u.doneSlot k slot p.retire .retired 0 = { u with
      slots := u.slots.put k (slot.finish .retired 0)
      points := s.points.drop h
      stations := u.stations.modify p.station (fun q => { q with chain := q.chain.filter (fun x => x != h) })
      doneLists := u.doneLists.modify slot.client (fun d => d ++ [k])
      clients := u.clients.modify slot.client (fun w => { w with sticky := w.sticky.raise .commandDone }) } := by
  subst hpoint
  have hgone : p.retire.state = .retiring ∧ p.retire.bindings = [] := ⟨rfl, hb⟩
  unfold State.doneSlot
  rw [if_pos hgone, if_pos hgone, hu, Table.drop_put]
  rfl

theorem retireRecord_sent (hpending : p.pendingCmd = some k) (hk : s.slots.find k = some slot)
    (hstate : slot.state = .sent) (hb : p.bindings = []) : retireRecord h p s = { s with
      points := s.points.put h p.retire
      slots := s.slots.put k slot.markRetired } := by
  rw [retireRecord_eq, retired_sent hpending hk hstate, closeBindings_nil, testFree_stays]
  · intro q hq
    rw [Table.find_put_same] at hq
    obtain rfl := Option.some.inj hq
    exact .inr (.inl (by rw [show p.retire.pendingCmd = p.pendingCmd from rfl, hpending]; exact nofun))
  · intro q hq
    rw [Table.find_put_same] at hq
    obtain rfl := Option.some.inj hq
    exact hb

theorem pointStateCode_none (hp : s.points.find h = none) : pointStateCode s h = 0 := by
  simp only [pointStateCode, hp]

end

/-- Settles O20, by the state of the pending command. -/
theorem retirePointHandsOverItsCommand : Obligations.RetirePointHandsOverItsCommand := by
  intro s c r rest p hr hkind hh hp hkey hstate hb h freed
  have hretire := retirePoint_retired (s := s.withoutHead c rest) (c := c) hh hp hkey hstate
  refine ⟨fun hpending => ?_, ?_⟩
  · refine exec_request_ok hr hkind rfl (hretire.trans ?_)
    rw [retireRecord_idle hpending hb, pointStateCode_none (Table.find_drop_same _ _), place_zero]
    rfl
  · intro k slot hpending hk hpoint ended
    refine ⟨fun hq htag => ?_, fun g ha htag => ?_, fun hsent => ?_⟩
    all_goals refine exec_request_ok hr hkind rfl (hretire.trans ?_)
    · have heq := retired_queued (s := s.withoutHead c rest) hpending hk hpoint hq
      rw [doneSlot_retire hb _ rfl hpoint, releaseTag_none htag] at heq
      have hgone : ((s.withoutHead c rest).retired r.handle p).points.find r.handle = none := by
        rw [heq]
        exact Table.find_drop_same _ _
      rw [retireRecord_done hgone, pointStateCode_none hgone, place_zero, heq]
      exact congrArg (fun q => okAnswer ({ ended with
        cmdQueues := s.cmdQueues.map (fun q => q.filter (fun x => x != k))
        clients := q } : State) 0 0 0) (modify_withoutHead s.clients c slot.client .commandDone rest)
    · have heq := retired_accepted (s := s.withoutHead c rest) hpending hk hpoint ha
      rw [doneSlot_retire hb _ rfl hpoint, releaseTag_abandoned htag] at heq
      have hgone : ((s.withoutHead c rest).retired r.handle p).points.find r.handle = none := by
        rw [heq]
        exact Table.find_drop_same _ _
      rw [retireRecord_done hgone, pointStateCode_none hgone, place_zero, heq]
      exact congrArg (fun q => okAnswer ({ ended with
        tagSets := s.tagSets.put slot.station ((s.tagSet slot.station).put g .abandoned)
        clients := q } : State) 0 0 0) (modify_withoutHead s.clients c slot.client .commandDone rest)
    · rw [retireRecord_sent (s := s.withoutHead c rest) hpending hk hsent hb,
        pointStateCode_of_find (Table.find_put_same _ _ _),
        Point.retire_eq]
      rfl

end Sys2Proof.Machine
end


section
/-! RETIRE_POINT and the bindings of the point: the chain is closed binding by binding (O21). -/

namespace Sys2Proof.Machine

/-! ## One binding (R24) -/

section

variable {u v : State} {h b : Nat} {q : Point} {x : Binding}

/-- R49: binding `b` is in state `k`. -/
def State.isIn (s : State) (k : BindingState) (b : Nat) : Bool :=
  (s.bindings.find b).map (fun x => x.state) == some k

theorem isIn_of_find (hb : u.bindings.find b = some x) (k : BindingState) : u.isIn k b = (x.state == k) := by
  unfold State.isIn
  rw [hb, Option.map_some]
  exact Option.some_beq_some

theorem isIn_congr (hb : v.bindings.find b = u.bindings.find b) (k : BindingState) :
    v.isIn k b = u.isIn k b := by
  unfold State.isIn
  rw [hb]

/-- R24: what the retirement of its point makes of a binding. -/
def Binding.closed (x : Binding) : Option Binding :=
  match x.state with
  | .active => some { x with state := .closing }
  | .suspended => none
  | .closing => some x
  | .detaching => some x

theorem closeBinding_active (hb : u.bindings.find b = some x) (hx : x.state = .active) : closeBinding u b =
    queueBinding b { u with bindings := u.bindings.put b { x with state := .closing } } := by
  simp only [closeBinding, hb, hx]
  unfold State.modifyBinding
  rw [Table.modify_some _ _ hb]

theorem closeBinding_suspended (hb : u.bindings.find b = some x) (hx : x.state = .suspended) :
    closeBinding u b = freeBinding b u := by
  simp only [closeBinding, hb, hx]

theorem closeBinding_detaching (hb : u.bindings.find b = some x) (hx : x.state = .detaching) :
    closeBinding u b = u := by
  simp only [closeBinding, hb, hx]

/-- R51: a binding that is not queued becomes FREE, and its point is tested. -/
theorem freeBinding_unqueued (hb : u.bindings.find b = some x) (hx : x.point = h)
    (hp : u.points.find h = some q) (hq : b ∉ u.mirrorQueue) : freeBinding b u = testFree h { u with
      bindings := u.bindings.drop b
      points := u.points.put h { q with bindings := without q.bindings b } } := by
  subst hx
  unfold freeBinding
  simp only [hb]
  unfold unqueueBinding State.modifyPoint
  dsimp only
  rw [Table.modify_some _ _ hp, without_eq_of_notMem hq]

end

/-! ## The chain (R24, R25) -/

section

variable {u v w : State} {h b : Nat} {q : Point} {kept bs : List Nat}

/-- A RETIRING point in the course of its closing: the bindings `kept` have been seen, `bs` are to come. -/
structure ClosingChain (u : State) (h : Nat) (q : Point) (kept bs : List Nat) : Prop where
  point : u.points.find h = some q
  retiring : q.state = .retiring
  chain : q.bindings = kept ++ bs
  nodup : (kept ++ bs).Nodup
  found : ∀ b ∈ bs, ∃ x, u.bindings.find b = some x ∧ x.point = h ∧ x.state ≠ .closing
  unqueued : ∀ b ∈ bs, u.isIn .suspended b = true → b ∉ u.mirrorQueue

/-- The bindings of a chain that a retirement leaves: those that are not SUSPENDED. -/
def State.leftOf (u : State) (bs : List Nat) : List Nat := bs.filter (fun b => !u.isIn .suspended b)

/-- The bindings of a chain that a retirement queues. -/
def State.finalOf (u : State) (bs : List Nat) : List Nat :=
  bs.filter (fun b => u.isIn .active b && !u.mirrorQueue.contains b)

/-- The state `v` after the bindings `bs` of point `h` have been closed in `u`. -/
structure ClosedChain (u v : State) (h : Nat) (q : Point) (kept bs : List Nat) : Prop where
  bindings : ∀ b, v.bindings.find b =
    if b ∈ bs then (u.bindings.find b).bind Binding.closed else u.bindings.find b
  queue : v.mirrorQueue = u.mirrorQueue ++ u.finalOf bs
  gone : kept ++ u.leftOf bs = [] → q.pendingCmd = none → (testFree h v).points.find h = none
  stays : kept ++ u.leftOf bs ≠ [] ∨ q.pendingCmd ≠ none →
    v.points.find h = some { q with bindings := kept ++ u.leftOf bs }

/-- Nothing is left to close. -/
theorem ClosedChain.nil (hp : u.points.find h = some q) (hret : q.state = .retiring)
    (hchain : q.bindings = kept) : ClosedChain u u h q kept [] where
  bindings := fun b => by rw [if_neg List.not_mem_nil]
  queue := (List.append_nil _).symm
  gone := fun hleft hpending => by
    rw [show u.leftOf [] = [] from rfl, List.append_nil] at hleft
    rw [testFree_frees hp hret hpending (hchain.trans hleft)]
    exact Table.find_drop_same _ _
  stays := fun _ => by
    rw [show u.leftOf [] = [] from rfl, List.append_nil, ← hchain]
    exact hp

/-- The point went with its last binding. -/
theorem ClosedChain.gone_nil (hp : u.points.find h = none) (hpending : q.pendingCmd = none) :
    ClosedChain u u h q [] [] where
  bindings := fun b => by rw [if_neg List.not_mem_nil]
  queue := (List.append_nil _).symm
  gone := fun _ _ => by rw [testFree_none hp, hp]
  stays := fun hne => by
    rcases hne with hne | hne
    · exact absurd rfl hne
    · exact absurd hpending hne

theorem leftOf_congr (hfind : ∀ b' ∈ bs, v.bindings.find b' = u.bindings.find b') : v.leftOf bs = u.leftOf bs :=
  List.filter_congr (fun b' hb' => by rw [isIn_congr (hfind b' hb')])

theorem finalOf_congr (hfind : ∀ b' ∈ bs, v.bindings.find b' = u.bindings.find b')
    (hqueue : ∀ b' ∈ bs, b' ∈ v.mirrorQueue ↔ b' ∈ u.mirrorQueue) : v.finalOf bs = u.finalOf bs := by
  refine List.filter_congr (fun b' hb' => ?_)
  have hcontains : v.mirrorQueue.contains b' = u.mirrorQueue.contains b' := by
    rw [Bool.eq_iff_iff, List.contains_iff_mem, List.contains_iff_mem]
    exact hqueue b' hb'
  rw [isIn_congr (hfind b' hb'), hcontains]

theorem leftOf_cons (u : State) (b : Nat) (bs : List Nat) : u.leftOf (b :: bs) = u.leftOf [b] ++ u.leftOf bs :=
  List.filter_append [b] bs

theorem finalOf_cons (u : State) (b : Nat) (bs : List Nat) :
    u.finalOf (b :: bs) = u.finalOf [b] ++ u.finalOf bs := List.filter_append [b] bs

/-- A binding has been closed from `u` to `v`, and the others from there. -/
theorem ClosedChain.cons {q' : Point} (hb : b ∉ bs)
    (hq : ∀ list, { q' with bindings := list } = { q with bindings := list })
    (hself : v.bindings.find b = (u.bindings.find b).bind Binding.closed)
    (hother : ∀ b', b' ≠ b → v.bindings.find b' = u.bindings.find b')
    (hqueue : v.mirrorQueue = u.mirrorQueue ++ u.finalOf [b])
    (hc : ClosedChain v w h q' (kept ++ u.leftOf [b]) bs) :
    ClosedChain u w h q kept (b :: bs) := by
  have hfind : ∀ b' ∈ bs, v.bindings.find b' = u.bindings.find b' :=
    fun b' hb' => hother b' (fun he => hb (he ▸ hb'))
  have hleft : kept ++ u.leftOf [b] ++ v.leftOf bs = kept ++ u.leftOf (b :: bs) := by
    rw [leftOf_congr hfind, leftOf_cons u b bs, List.append_assoc]
  have hmem : ∀ b' ∈ bs, b' ∈ v.mirrorQueue ↔ b' ∈ u.mirrorQueue := fun b' hb' => by
    rw [hqueue, List.mem_append]
    refine or_iff_left (fun hin => hb ?_)
    rw [← List.mem_singleton.mp (List.mem_of_mem_filter hin)]
    exact hb'
  have hpending : q'.pendingCmd = q.pendingCmd := by
    have heq := congrArg Point.pendingCmd (hq [])
    exact heq
  refine ⟨fun b' => ?_, ?_, fun hl => ?_, fun hl => ?_⟩
  · rw [hc.bindings b']
    by_cases he : b' = b
    · rw [he, if_neg hb, if_pos List.mem_cons_self, hself]
    · rw [hother b' he]
      simp only [List.mem_cons, he, false_or]
  · rw [hc.queue, hqueue, finalOf_congr hfind hmem, List.append_assoc, ← finalOf_cons u b bs]
  · exact fun hp => hc.gone (hleft.trans hl) (hpending.trans hp)
  · rw [← hleft, ← hpending] at hl
    rw [← hleft, ← hq]
    exact hc.stays hl

theorem ClosingChain.notMem (hs : ClosingChain u h q kept (b :: bs)) : b ∉ kept ∧ b ∉ bs := by
  have hnodup := hs.nodup
  rw [List.nodup_append, List.nodup_cons] at hnodup
  obtain ⟨-, ⟨hb, -⟩, hdisjoint⟩ := hnodup
  exact ⟨fun hk => hdisjoint b hk b List.mem_cons_self rfl, hb⟩

/-- The chain after its next binding has been seen and stays. -/
theorem ClosingChain.next (hs : ClosingChain u h q kept (b :: bs)) (hp : v.points.find h = some q)
    (hother : ∀ b', b' ≠ b → v.bindings.find b' = u.bindings.find b')
    (hqueue : ∀ b', b' ≠ b → b' ∈ v.mirrorQueue → b' ∈ u.mirrorQueue) :
    ClosingChain v h q (kept ++ [b]) bs := by
  obtain ⟨-, hb⟩ := hs.notMem
  have hne : ∀ b' ∈ bs, b' ≠ b := fun b' hb' he => hb (he ▸ hb')
  refine ⟨hp, hs.retiring, ?_, ?_, fun b' hb' => ?_, fun b' hb' hsus hin => ?_⟩
  · rw [List.append_assoc]
    exact hs.chain
  · rw [List.append_assoc]
    exact hs.nodup
  · rw [hother b' (hne b' hb')]
    exact hs.found b' (List.mem_cons_of_mem _ hb')
  · rw [isIn_congr (hother b' (hne b' hb'))] at hsus
    exact hs.unqueued b' (List.mem_cons_of_mem _ hb') hsus (hqueue b' (hne b' hb') hin)

/-- The chain after its next binding has become FREE. -/
theorem ClosingChain.freed (hs : ClosingChain u h q kept (b :: bs))
    (hp : v.points.find h = some { q with bindings := kept ++ bs })
    (hother : ∀ b', b' ≠ b → v.bindings.find b' = u.bindings.find b')
    (hqueue : v.mirrorQueue = u.mirrorQueue) :
    ClosingChain v h { q with bindings := kept ++ bs } kept bs := by
  obtain ⟨-, hb⟩ := hs.notMem
  have hne : ∀ b' ∈ bs, b' ≠ b := fun b' hb' he => hb (he ▸ hb')
  refine ⟨hp, hs.retiring, rfl, ?_, fun b' hb' => ?_, fun b' hb' hsus => ?_⟩
  · exact hs.nodup.sublist (List.Sublist.append_left (List.sublist_cons_self b bs) kept)
  · rw [hother b' (hne b' hb')]
    exact hs.found b' (List.mem_cons_of_mem _ hb')
  · rw [isIn_congr (hother b' (hne b' hb'))] at hsus
    rw [hqueue]
    exact hs.unqueued b' (List.mem_cons_of_mem _ hb') hsus

theorem ClosingChain.without_next (hs : ClosingChain u h q kept (b :: bs)) :
    without q.bindings b = kept ++ bs := by
  obtain ⟨hk, hb⟩ := hs.notMem
  rw [hs.chain]
  unfold without
  rw [List.filter_append, List.filter_cons_of_neg (by simp)]
  exact congrArg₂ (· ++ ·) (without_eq_of_notMem hk) (without_eq_of_notMem hb)

/-- R24: the bindings of a retiring point, one after the other. -/
theorem closedChain_foldl {bs : List Nat} : ∀ {u : State} {q : Point} {kept : List Nat},
    ClosingChain u h q kept bs → ClosedChain u (bs.foldl closeBinding u) h q kept bs := by
  induction bs with
  | nil =>
    intro u q kept hs
    exact .nil hs.point hs.retiring (by rw [hs.chain, List.append_nil])
  | cons b bs ih =>
    intro u q kept hs
    obtain ⟨hk, hb⟩ := hs.notMem
    obtain ⟨x, hx, hpoint, hclosing⟩ := hs.found b List.mem_cons_self
    have hself (k : BindingState) : u.isIn k b = (x.state == k) := isIn_of_find hx k
    rw [List.foldl_cons]
    cases hstate : x.state with
    | closing => exact absurd hstate hclosing
    | detaching =>
      rw [closeBinding_detaching hx hstate]
      have hleft : u.leftOf [b] = [b] := by simp [State.leftOf, hself, hstate]
      have hfinal : u.finalOf [b] = [] := by simp [State.finalOf, hself, hstate]
      refine ClosedChain.cons (v := u) hb (fun _ => rfl) ?_ (fun _ _ => rfl)
        (by rw [hfinal, List.append_nil]) (by
          rw [hleft]
          exact ih (hs.next hs.point (fun _ _ => rfl) (fun _ _ => id)))
      simp only [hx, Option.bind_some, Binding.closed, hstate]
    | active =>
      rw [closeBinding_active hx hstate]
      have hleft : u.leftOf [b] = [b] := by simp [State.leftOf, hself, hstate]
      generalize hv : queueBinding b { u with bindings := u.bindings.put b { x with state := .closing } } = v
      have hbindings : v.bindings = u.bindings.put b { x with state := .closing } := by
        rw [← hv]
        simp
      have hpoints : v.points = u.points := by
        rw [← hv]
        simp
      have hqueue : v.mirrorQueue = u.mirrorQueue ++ u.finalOf [b] := by
        rw [← hv]
        by_cases hin : b ∈ u.mirrorQueue <;> simp [queueBinding, State.finalOf, hself, hstate, hin]
      have hother : ∀ b', b' ≠ b → v.bindings.find b' = u.bindings.find b' := fun b' hne => by
        rw [hbindings, Table.find_put_ne _ _ hne]
      have hnext := hs.next (v := v) (hpoints ▸ hs.point) hother (fun b' hne hin => by
        rw [hqueue, List.mem_append] at hin
        exact hin.resolve_right (fun hf => hne (List.mem_singleton.mp (List.mem_of_mem_filter hf))))
      refine ClosedChain.cons (v := v) hb (fun _ => rfl) ?_ hother hqueue (by
        rw [hleft]
        exact ih hnext)
      rw [hbindings, Table.find_put_same, hx]
      simp only [Option.bind_some, Binding.closed, hstate]
    | suspended =>
      have hsus : u.isIn .suspended b = true := by rw [hself, hstate]; rfl
      rw [closeBinding_suspended hx hstate,
        freeBinding_unqueued hx hpoint hs.point (hs.unqueued b List.mem_cons_self hsus), hs.without_next]
      have hleft : u.leftOf [b] = [] := by simp [State.leftOf, hsus]
      have hfinal : u.finalOf [b] = [] := by simp [State.finalOf, hself, hstate]
      generalize hf : ({ u with
        bindings := u.bindings.drop b
        points := u.points.put h { q with bindings := kept ++ bs } } : State) = f
      have hbindings : (testFree h f).bindings = u.bindings.drop b := by
        rw [← hf]
        simp
      have hqueue : (testFree h f).mirrorQueue = u.mirrorQueue := by
        rw [← hf]
        simp
      have hpoint : f.points.find h = some { q with bindings := kept ++ bs } := by
        rw [← hf]
        exact Table.find_put_same _ _ _
      have hother : ∀ b', b' ≠ b → (testFree h f).bindings.find b' = u.bindings.find b' := fun b' hne => by
        rw [hbindings, Table.find_drop_ne _ hne]
      refine ClosedChain.cons (v := testFree h f)
        (q' := { q with bindings := kept ++ bs }) hb (fun _ => rfl) ?_ hother
        (by rw [hfinal, List.append_nil, hqueue]) ?_
      · rw [hbindings, Table.find_drop_same, hx]
        simp only [Option.bind_some, Binding.closed, hstate]
      · rw [hleft, List.append_nil]
        by_cases hempty : q.pendingCmd = none ∧ kept ++ bs = []
        · -- It was the last binding and no command is pending: the point is FREE.
          obtain ⟨hpending, hnil⟩ := hempty
          obtain ⟨rfl, rfl⟩ := List.append_eq_nil_iff.mp hnil
          refine .gone_nil ?_ hpending
          rw [testFree_frees hpoint hs.retiring hpending rfl]
          exact Table.find_drop_same _ _
        · have hstay : testFree h f = f := by
            refine testFree_stays (fun p hp => ?_)
            obtain rfl := Option.some.inj (hpoint.symm.trans hp)
            exact .inr ((Classical.not_and_iff_not_or_not.mp hempty).imp id id)
          rw [hstay] at hother hqueue ⊢
          exact ih (hs.freed hpoint hother hqueue)

end

end Sys2Proof.Machine
end


section
/-! A taken request is answered once (O5), whatever its owner does with it. -/

namespace Sys2Proof.Machine

/-! ## The state after a taking -/

section

variable {s : State} {c d : ClientId} {r : Request} {rest : List Request}

/-- R140, R142: the state of the owner's answer with the response in its FIFO and the taking noted. -/
def Answer.taken (a : Answer) (c : ClientId) (r : Request) : State :=
  settle ((a.state.modifyClient c (fun k =>
    { k with responses := k.responses ++ [responseOf r a] })).noteTaking c)

theorem exec_request_taken {i : Instr} {code : Nat} {f : ClientId → Request → State → Answer}
    (hr : ReadyRequest s c r rest) (hk : r.kind = code)
    (hi : exec i s = inService s (takeRequest c (· == code) f)) :
    exec i s = .next ((f c r (s.withoutHead c rest)).taken c r) := by
  rw [hi, inService_of_resetN hr.resetN, takeRequest_ready (isKind := (· == code)) hr (beq_iff_eq.mpr hk)]
  rfl

theorem Client.settle_keeps (k : Client) (links : Quad Link) : (k.settle links).requests = k.requests ∧
    (k.settle links).responses = k.responses ∧ (k.settle links).passed = k.passed ∧
    (k.settle links).sticky = k.sticky := by
  unfold Client.settle
  split <;> exact ⟨rfl, rfl, rfl, rfl⟩

theorem Client.afterTaking_keeps (c d : ClientId) (k : Client) :
    (k.afterTaking c d).requests = k.requests ∧ (k.afterTaking c d).responses = k.responses ∧
      (k.afterTaking c d).sticky = k.sticky := by
  rw [Client.afterTaking_passed]
  exact ⟨rfl, rfl, rfl⟩

/-- The window of the client whose request is taken. -/
theorem taken_client_self (a : Answer) (c : ClientId) (r : Request) :
    ((a.taken c r).client c).requests = (a.state.client c).requests ∧
    ((a.taken c r).client c).responses = (a.state.client c).responses ++ [responseOf r a] ∧
    ((a.taken c r).client c).passed = 0 ∧
    ((a.taken c r).client c).sticky = (a.state.client c).sticky := by
  unfold Answer.taken
  obtain ⟨hreq, hresp, hpassed, hsticky⟩ := Client.settle_keeps (((a.state.modifyClient c (fun k =>
    { k with responses := k.responses ++ [responseOf r a] })).noteTaking c).client c)
    ((a.state.modifyClient c (fun k => { k with responses := k.responses ++ [responseOf r a] })).noteTaking c).links
  rw [settle_client, hreq, hresp, hpassed, hsticky, State.client_noteTaking, State.client_modifyClient_same,
    Client.afterTaking_self]
  exact ⟨rfl, rfl, rfl, rfl⟩

/-- The window of another client. -/
theorem taken_client_other (a : Answer) (r : Request) (hd : d ≠ c) :
    ((a.taken c r).client d).requests = (a.state.client d).requests ∧
    ((a.taken c r).client d).responses = (a.state.client d).responses ∧
    ((a.taken c r).client d).passed = ((a.state.client d).afterTaking c d).passed ∧
    ((a.taken c r).client d).sticky = (a.state.client d).sticky := by
  unfold Answer.taken
  obtain ⟨hreq, hresp, hpassed, hsticky⟩ := Client.settle_keeps (((a.state.modifyClient c (fun k =>
    { k with responses := k.responses ++ [responseOf r a] })).noteTaking c).client d)
    ((a.state.modifyClient c (fun k => { k with responses := k.responses ++ [responseOf r a] })).noteTaking c).links
  obtain ⟨hreq', hresp', hsticky'⟩ := Client.afterTaking_keeps c d (a.state.client d)
  rw [settle_client, hreq, hresp, hpassed, hsticky, State.client_noteTaking, State.client_modifyClient,
    if_neg hd]
  exact ⟨hreq', hresp', rfl, hsticky'⟩

theorem taken_sticky (a : Answer) (c d : ClientId) (r : Request) :
    ((a.taken c r).client d).sticky = (a.state.client d).sticky := by
  by_cases hd : d = c
  · subst hd
    obtain ⟨-, -, -, h⟩ := taken_client_self a d r
    exact h
  · obtain ⟨-, -, -, h⟩ := taken_client_other a r hd
    exact h

end

/-! ## Orderly answers (R14, R142) -/

/-- An answer of OK, or a refusal that leaves the state. -/
def Answer.Orderly (s : State) (a : Answer) : Prop := a.status = .ok ∨ a = refuse s a.status

section

variable {s : State} {c : ClientId} {r : Request}

theorem Answer.Orderly.ok (u : State) (w1 w2 w3 : Word) : (okAnswer u w1 w2 w3).Orderly s := .inl rfl

theorem Answer.Orderly.refuse (st : Status) : (refuse s st).Orderly s := .inr rfl

theorem Answer.Orderly.ite {p : Prop} [Decidable p] {a b : Answer} (ha : a.Orderly s) (hb : b.Orderly s) :
    (if p then a else b).Orderly s := by
  split
  · exact ha
  · exact hb

theorem Answer.Orderly.withPoint {wrong : Point → Bool} {act : Nat → Point → Answer}
    (h : ∀ k p, (act k p).Orderly s) : (withPoint r s wrong act).Orderly s := by
  unfold Machine.withPoint
  refine .ite (.refuse _) ?_
  split
  · exact .refuse _
  · exact .ite (.refuse _) (.ite (.refuse _) (h _ _))

theorem Answer.Orderly.withOwnBinding {allowed : BindingState → Bool} {act : Nat → Binding → Answer}
    (h : ∀ k b, (act k b).Orderly s) : (withOwnBinding c r s allowed act).Orderly s := by
  unfold Machine.withOwnBinding
  refine .ite (.refuse _) ?_
  split
  · exact .refuse _
  · exact .ite (.refuse _) (.ite (h _ _) (.refuse _))

theorem addStation_orderly : (addStation c r s).Orderly s := by
  unfold addStation
  refine .ite (.refuse _) (.ite (.refuse _) ?_)
  split
  · exact .refuse _
  · exact .ok ..

theorem removeStation_orderly : (removeStation c r s).Orderly s := by
  unfold removeStation
  refine .ite (.refuse _) ?_
  split
  · exact .refuse _
  · exact .ite (.refuse _) (.ite (.refuse _) (.ok ..))

theorem queryStation_orderly : (queryStation c r s).Orderly s := by
  unfold queryStation
  refine .ite (.refuse _) ?_
  split
  · exact .refuse _
  · exact .ok ..

theorem createPoint_orderly : (createPoint c r s).Orderly s := by
  unfold createPoint
  refine .ite (.refuse _) ?_
  split
  · exact .refuse _
  · refine .ite (.refuse _) (.ite (.refuse _) ?_)
    split
    · exact .refuse _
    · exact .ok ..

theorem lookupPoint_orderly : (lookupPoint c r s).Orderly s := by
  unfold lookupPoint
  refine .ite (.refuse _) ?_
  split
  · exact .refuse _
  · exact .ok ..

theorem findPoint_orderly : (findPoint c r s).Orderly s := by
  unfold findPoint
  refine .ite (.refuse _) ?_
  split
  · exact .refuse _
  · split
    · exact .refuse _
    · exact .ok ..

theorem nextPoint_orderly : (nextPoint c r s).Orderly s := by
  unfold nextPoint
  refine .ite (.refuse _) ?_
  split
  · exact .refuse _
  · split
    · exact .refuse _
    · exact .ok ..

theorem bindPoint_orderly : (bindPoint c r s).Orderly s := by
  unfold bindPoint
  split
  · exact .refuse _
  · refine .ite (.refuse _) ?_
    split
    · exact .refuse _
    · refine .ite (.refuse _) (.ite (.refuse _) ?_)
      split
      · exact .refuse _
      · exact .ok ..

theorem queryBinding_orderly : (queryBinding c r s).Orderly s := by
  unfold queryBinding
  refine .ite (.refuse _) ?_
  split
  · exact .refuse _
  · exact .ok ..

theorem sendCommand_orderly : (sendCommand c r s).Orderly s := by
  unfold sendCommand
  refine .withPoint (fun h p => .ite (.refuse _) ?_)
  split
  · exact .ok ..
  · exact .refuse _

theorem abortCommand_orderly : (abortCommand c r s).Orderly s := by
  unfold abortCommand
  refine .ite (.refuse _) ?_
  split
  · exact .refuse _
  · refine .ite (.refuse _) ?_
    unfold abortSlot
    split
    · exact .ok ..
    · exact .ok ..
    · exact .ok ..
    · exact .refuse _

theorem collect_orderly : (collect c r s).Orderly s := by
  unfold collect
  split
  · exact .refuse _
  · split
    · exact .refuse _
    · exact .ok ..

/-- Every owner of a request answers OK, or refuses and leaves the state. -/
theorem owner_orderly {f : ClientId → Request → State → Answer} (hf : f ∈ requestOwners) :
    (f c r s).Orderly s := by
  simp only [requestOwners, List.mem_cons, List.not_mem_nil, or_false] at hf
  rcases hf with rfl | rfl | rfl | rfl | rfl | rfl | rfl | rfl | rfl | rfl | rfl | rfl | rfl | rfl | rfl |
    rfl | rfl | rfl | rfl
  · exact addStation_orderly
  · exact removeStation_orderly
  · exact queryStation_orderly
  · exact createPoint_orderly
  · exact lookupPoint_orderly
  · exact findPoint_orderly
  · exact nextPoint_orderly
  · exact .ite (.refuse _) (.withPoint (fun _ _ => .ok ..))
  · exact .withPoint (fun _ _ => .ok ..)
  · exact .withPoint (fun _ _ => .ite (.ok ..) (.ok ..))
  · exact .withPoint (fun _ _ => .ok ..)
  · exact bindPoint_orderly
  · exact .withOwnBinding (fun _ _ => .ite (.ok ..) (.ok ..))
  · exact .withOwnBinding (fun _ _ => .ok ..)
  · exact queryBinding_orderly
  · exact sendCommand_orderly
  · exact abortCommand_orderly
  · exact collect_orderly
  · exact .refuse _

end

/-! ## The rows (Table 8-2) -/

section

variable {s : State} {c : ClientId} {r : Request} {rest : List Request}

/-- Each row hands the requests of its kind to one owner. -/
theorem owner_of_row {code : Nat} {i : Instr} (hi : (code, i) ∈ requestRows c) :
    ∃ f ∈ requestOwners, ∀ s, exec i s = inService s (takeRequest c (· == code) f) := by
  simp only [requestRows, List.mem_cons, Prod.mk.injEq, List.not_mem_nil, or_false] at hi
  rcases hi with ⟨rfl, rfl⟩ | ⟨rfl, rfl⟩ | ⟨rfl, rfl⟩ | ⟨rfl, rfl⟩ | ⟨rfl, rfl⟩ | ⟨rfl, rfl⟩ | ⟨rfl, rfl⟩ |
    ⟨rfl, rfl⟩ | ⟨rfl, rfl⟩ | ⟨rfl, rfl⟩ | ⟨rfl, rfl⟩ | ⟨rfl, rfl⟩ | ⟨rfl, rfl⟩ | ⟨rfl, rfl⟩ | ⟨rfl, rfl⟩ |
    ⟨rfl, rfl⟩ | ⟨rfl, rfl⟩ | ⟨rfl, rfl⟩
  · exact ⟨addStation, by simp [requestOwners], fun _ => rfl⟩
  · exact ⟨removeStation, by simp [requestOwners], fun _ => rfl⟩
  · exact ⟨queryStation, by simp [requestOwners], fun _ => rfl⟩
  · exact ⟨createPoint, by simp [requestOwners], fun _ => rfl⟩
  · exact ⟨lookupPoint, by simp [requestOwners], fun _ => rfl⟩
  · exact ⟨findPoint, by simp [requestOwners], fun _ => rfl⟩
  · exact ⟨nextPoint, by simp [requestOwners], fun _ => rfl⟩
  · exact ⟨modifyPoint, by simp [requestOwners], fun _ => rfl⟩
  · exact ⟨retirePoint, by simp [requestOwners], fun _ => rfl⟩
  · exact ⟨forcePoint, by simp [requestOwners], fun _ => rfl⟩
  · exact ⟨releasePoint, by simp [requestOwners], fun _ => rfl⟩
  · exact ⟨bindPoint, by simp [requestOwners], fun _ => rfl⟩
  · exact ⟨unbindPoint, by simp [requestOwners], fun _ => rfl⟩
  · exact ⟨resumeBinding, by simp [requestOwners], fun _ => rfl⟩
  · exact ⟨queryBinding, by simp [requestOwners], fun _ => rfl⟩
  · exact ⟨sendCommand, by simp [requestOwners], fun _ => rfl⟩
  · exact ⟨abortCommand, by simp [requestOwners], fun _ => rfl⟩
  · exact ⟨collect, by simp [requestOwners], fun _ => rfl⟩

/-- The defined kinds are the kinds of the rows. -/
theorem definedKinds_iff (c : ClientId) (code : Nat) :
    definedKinds.contains code = true ↔ ∃ i, (code, i) ∈ requestRows c := by
  have hkinds : definedKinds = (requestRows c).map Prod.fst := rfl
  rw [List.contains_iff_mem, hkinds, List.mem_map]
  constructor
  · rintro ⟨⟨k, i⟩, hm, rfl⟩
    exact ⟨i, hm⟩
  · exact fun ⟨i, hm⟩ => ⟨(code, i), hm, rfl⟩

theorem Status.code_le (st : Status) : st.code ≤ 12 := by
  cases st <;> decide

theorem Status.code_eq_zero {st : Status} (h : st.code ≠ 0) : st ≠ .ok := by
  rintro rfl
  exact h rfl

theorem Client.ready_iff (k : Client) : k.ready = true ↔ k.requests ≠ [] ∧ k.responses.length < 8 := by
  rw [← Bool.not_eq_false, Client.ready_eq_false, not_or, Nat.not_le]

/-- R140: nothing is taken from a client that has to wait. -/
def MustWait (s : State) (c : ClientId) : Prop :=
  ∃ d, d ≠ c ∧ (s.client d).requests ≠ [] ∧ (s.client d).responses.length < 8 ∧
    (s.client d).passed.getLsbD c.val = true

theorem mayTake_eq_false (h : MustWait s c) : s.mayTake c = false := by
  rw [Bool.eq_false_iff, ne_eq, State.mayTake_iff]
  obtain ⟨d, hd, hreq, hroom, hbit⟩ := h
  intro hturn
  rw [hturn d hd hreq hroom] at hbit
  cases hbit

/-- The marks that a taking leaves at another window. -/
theorem afterTaking_passed_other {d : ClientId} (hd : d ≠ c) (k : Client) : (k.afterTaking c d).passed =
    if k.requests ≠ [] ∧ k.responses.length < 8 then k.passed ||| BitVec.twoPow 4 c.val else k.passed := by
  unfold Client.afterTaking
  rw [if_neg hd]
  simp only [Client.ready_iff]
  split <;> rfl

/-- R140 to R142: a ready request of a row is answered by its owner, once. -/
theorem row_answered (hr : ReadyRequest s c r rest) {i : Instr} (hi : (r.kind, i) ∈ requestRows c) :
    ∃ t code w1 w2 w3, exec i s = .next t ∧ code ≤ 12 ∧
      (t.client c).requests = rest ∧
      (t.client c).responses = (s.client c).responses ++ [responseRecord r code w1 w2 w3] ∧
      (t.client c).passed = 0 ∧
      (∀ d, d ≠ c → (t.client d).requests = (s.client d).requests ∧
        (t.client d).responses = (s.client d).responses ∧
        (t.client d).passed =
          if (s.client d).requests ≠ [] ∧ (s.client d).responses.length < 8 then
            (s.client d).passed ||| BitVec.twoPow 4 c.val
          else (s.client d).passed) ∧
      (code ≠ 0 → w1 = 0 ∧ w2 = 0 ∧ w3 = 0 ∧ t = s.answered c r rest code 0 0 0) := by
  obtain ⟨f, hf, hexec⟩ := owner_of_row hi
  have hmoves : WindowsMove (s.withoutHead c rest) (f c r (s.withoutHead c rest)).state :=
    (WindowsMove.acts _).owner hf c r (.of_eq rfl)
  have horderly := owner_orderly (s := s.withoutHead c rest) (c := c) (r := r) hf
  have hstep := exec_request_taken hr rfl (hexec s)
  generalize ha : f c r (s.withoutHead c rest) = a at hmoves horderly hstep
  have hself := hmoves c
  rw [show (s.withoutHead c rest).client c = { s.client c with requests := rest } from
    State.client_modifyClient_same _ _ _] at hself
  obtain ⟨hreq, hresp, hpassed, -⟩ := taken_client_self a c r
  refine ⟨a.taken c r, a.status.code, a.w1, a.w2, a.w3, hstep, a.status.code_le, hreq.trans hself.requests,
    ?_, hpassed, fun d hd => ?_, fun hcode => ?_⟩
  · rw [hresp, hself.responses]
    rfl
  · have hother := hmoves d
    rw [show (s.withoutHead c rest).client d = s.client d from
      (State.client_modifyClient _ _ _ _).trans (if_neg hd)] at hother
    obtain ⟨hreq', hresp', hpassed', -⟩ := taken_client_other a r hd
    refine ⟨hreq'.trans hother.requests, hresp'.trans hother.responses, hpassed'.trans ?_⟩
    rw [afterTaking_passed_other hd, hother.requests, hother.responses, hother.passed]
  · have hrefused := horderly.resolve_left (Status.code_eq_zero hcode)
    have hanswered := takeRequest_refused (isKind := (· == r.kind)) hr (beq_self_eq_true _)
      (ha.trans hrefused)
    rw [← hexec s, hstep] at hanswered
    have hwords : a.w1 = 0 ∧ a.w2 = 0 ∧ a.w3 = 0 := by
      rw [hrefused]
      exact ⟨rfl, rfl, rfl⟩
    exact ⟨hwords.1, hwords.2.1, hwords.2.2, Host.Outcome.next.inj hanswered⟩

end

/-- Settles O5: a ready request is answered by its owner; any other is left to wait. -/
theorem everyTakenRequestIsAnsweredOnce : Obligations.EveryTakenRequestIsAnsweredOnce := by
  refine ⟨fun s c r rest hr => ⟨fun i hi => row_answered hr hi, fun hno => ?_⟩,
    fun s c code i hs hi hwait => ?_, fun s c hs hwait => ?_⟩
  · have hkind : definedKinds.contains r.kind = false := by
      rw [Bool.eq_false_iff, ne_eq, definedKinds_iff c]
      exact fun ⟨i, hi⟩ => hno i hi
    exact takeRequest_refused (isKind := fun k => !definedKinds.contains k) hr (by rw [hkind]; rfl)
      (f := badRequest) (st := .badRequest) rfl
  · obtain ⟨f, -, hexec⟩ := owner_of_row hi
    rw [hexec s, inService_of_resetN hs, takeRequest_waits]
    rcases hwait with h | h | ⟨r, rest, h, hkind⟩ | h
    · exact .inl h
    · exact .inr (.inl h)
    · exact .inr (.inr (.inl ⟨r, rest, h, beq_eq_false_iff_ne.mpr hkind⟩))
    · exact .inr (.inr (.inr (mayTake_eq_false h)))
  · rw [show exec (.badRequest c) s = inService s (takeRequest c (fun k => !definedKinds.contains k) badRequest)
      from rfl, inService_of_resetN hs, takeRequest_waits]
    rcases hwait with h | h | ⟨r, rest, i, h, hi⟩ | h
    · exact .inl h
    · exact .inr (.inl h)
    · exact .inr (.inr (.inl ⟨r, rest, h, by rw [(definedKinds_iff c _).mpr ⟨i, hi⟩]; rfl⟩))
    · exact .inr (.inr (.inr (mayTake_eq_false h)))

end Sys2Proof.Machine
end


section
/-! RETIRE_POINT of a point with bindings: its command first, then its chain, then the test for freeing
(O21). -/

namespace Sys2Proof.Machine

section

variable {s : State} {h k : Nat} {p : Point} {slot : Slot} {c : ClientId} {r : Request}

/-! ## The pending command of the retiring point -/

/-- R23: the pending command of the point is SENT. -/
def PendingSent (s : State) (p : Point) : Prop :=
  ∃ k slot, p.pendingCmd = some k ∧ s.slots.find k = some slot ∧ slot.state = .sent

theorem pendingSent_iff (hpending : p.pendingCmd = some k) (hk : s.slots.find k = some slot) :
    PendingSent s p ↔ slot.state = .sent := by
  constructor
  · rintro ⟨k', slot', hpending', hk', hsent⟩
    cases hpending.symm.trans hpending'
    cases hk.symm.trans hk'
    exact hsent
  · exact fun hsent => ⟨k, slot, hpending, hk, hsent⟩

theorem retired_bindings (s : State) (h : Nat) (p : Point) : (s.retired h p).bindings = s.bindings ∧
    (s.retired h p).mirrorQueue = s.mirrorQueue := by
  unfold State.retired
  cases p.pendingCmd <;> simp

/-- R112: a QUEUED or an ACCEPTED command of a retiring point ends. -/
theorem retired_ended (hpending : p.pendingCmd = some k) (hk : s.slots.find k = some slot)
    (hpoint : slot.point = h) (hstate : slot.state = .queued ∨ slot.state = .accepted) :
    (s.retired h p).slots = s.slots.put k (slot.finish .retired 0) ∧
    (s.retired h p).points = (if p.bindings = [] then s.points.drop h
      else s.points.put h { p.retire with pendingCmd := none }) ∧
    (s.retired h p).doneLists = s.doneLists.modify slot.client (fun d => d ++ [k]) ∧
    (s.retired h p).clients = s.clients.modify slot.client (fun w =>
      { w with sticky := w.sticky.raise .commandDone }) := by
  have hpoints (u : State) (hu : u.points = s.points.put h p.retire) :
      (u.doneSlot k slot p.retire .retired 0).points = (if p.bindings = [] then s.points.drop h
        else s.points.put h { p.retire with pendingCmd := none }) := by
    subst hpoint
    unfold State.doneSlot
    by_cases hb : p.bindings = []
    · have hgone : p.retire.state = .retiring ∧ p.retire.bindings = [] := ⟨rfl, hb⟩
      rw [if_pos hgone, if_pos hgone, if_pos hb, hu, Table.drop_put]
    · have hstays : ¬(p.retire.state = .retiring ∧ p.retire.bindings = []) := fun hgone => hb hgone.2
      rw [if_neg hstays, if_neg hstays, if_neg hb, hu, Table.put_put]
  rcases hstate with hstate | hstate
  · rw [retired_queued hpending hk hpoint hstate]
    exact ⟨rfl, hpoints _ rfl, rfl, rfl⟩
  · rw [retired_accepted hpending hk hpoint hstate]
    exact ⟨rfl, hpoints _ rfl, rfl, rfl⟩

theorem retired_queue (hpending : p.pendingCmd = some k) (hk : s.slots.find k = some slot)
    (hpoint : slot.point = h) (hstate : slot.state = .queued) (l : LinkId) :
    (s.retired h p).cmdQueue l = (s.cmdQueue l).filter (fun x => x != k) := by
  rw [retired_queued hpending hk hpoint hstate]
  exact Quad.get_map _ _ _

theorem retired_tagSets {g : Nat} (hpending : p.pendingCmd = some k) (hk : s.slots.find k = some slot)
    (hpoint : slot.point = h) (hstate : slot.state = .accepted) (hg : slot.tag = some g) :
    (s.retired h p).tagSets = s.tagSets.put slot.station ((s.tagSet slot.station).put g .abandoned) := by
  rw [retired_accepted hpending hk hpoint hstate, releaseTag_abandoned hg]
  rfl

/-- The record of the retiring point after its command was handed over, or its freeing with it. -/
theorem retired_point (hcmd : ∀ k, p.pendingCmd = some k →
    ∃ slot, s.slots.find k = some slot ∧ slot.point = h ∧ slot.state ≠ .done) :
    ∃ q : Point, q.state = .retiring ∧ q.bindings = p.bindings ∧ q.deadline = none ∧ q.run = 0 ∧
      (PendingSent s p → q.pendingCmd = p.pendingCmd) ∧ (¬PendingSent s p → q.pendingCmd = none) ∧
      ((s.retired h p).points.find h = some q ∨
        (s.retired h p).points.find h = none ∧ p.bindings = [] ∧ ¬PendingSent s p) := by
  cases hpending : p.pendingCmd with
  | none =>
    refine ⟨p.retire, rfl, rfl, rfl, rfl, fun _ => hpending, fun _ => hpending, .inl ?_⟩
    rw [retired_none hpending]
    exact Table.find_put_same _ _ _
  | some k =>
    obtain ⟨slot, hk, hpoint, hdone⟩ := hcmd k hpending
    have hsent := pendingSent_iff hpending hk
    by_cases hstate : slot.state = .sent
    · refine ⟨p.retire, rfl, rfl, rfl, rfl, fun _ => hpending, fun hn => absurd (hsent.mpr hstate) hn, .inl ?_⟩
      rw [retired_sent hpending hk hstate]
      exact Table.find_put_same _ _ _
    · have hended : slot.state = .queued ∨ slot.state = .accepted := by
        cases hs : slot.state with
        | queued => exact .inl rfl
        | accepted => exact .inr rfl
        | sent => exact absurd hs hstate
        | done => exact absurd hs hdone
      have hnot : ¬PendingSent s p := fun hn => hstate (hsent.mp hn)
      obtain ⟨-, hpoints, -, -⟩ := retired_ended hpending hk hpoint hended
      refine ⟨{ p.retire with pendingCmd := none }, rfl, rfl, rfl, rfl, fun hn => absurd hn hnot,
        fun _ => rfl, ?_⟩
      rw [hpoints]
      by_cases hb : p.bindings = []
      · rw [if_pos hb]
        exact .inr ⟨Table.find_drop_same _ _, hb, hnot⟩
      · rw [if_neg hb]
        exact .inl (Table.find_put_same _ _ _)

/-! ## The bindings of the retiring point -/

/-- R24: the chain of the point is closed, after its command. -/
theorem closeBindings_closed (hnodup : p.bindings.Nodup)
    (hfound : ∀ b ∈ p.bindings, ∃ x, s.bindings.find b = some x ∧ x.point = h ∧ x.state ≠ .closing)
    (hqueue : ∀ b ∈ s.mirrorQueue, ∀ x, s.bindings.find b = some x → x.state ≠ .suspended)
    (hcmd : ∀ k, p.pendingCmd = some k →
      ∃ slot, s.slots.find k = some slot ∧ slot.point = h ∧ slot.state ≠ .done) :
    ∃ q : Point, q.state = .retiring ∧ q.deadline = none ∧ q.run = 0 ∧
      (PendingSent s p → q.pendingCmd = p.pendingCmd) ∧ (¬PendingSent s p → q.pendingCmd = none) ∧
      ClosedChain (s.retired h p) (closeBindings h (s.retired h p)) h q [] p.bindings := by
  obtain ⟨q, hret, hchain, hdeadline, hrun, hsent, hnot, hpoint⟩ := retired_point hcmd
  obtain ⟨hbindings, hmirror⟩ := retired_bindings s h p
  refine ⟨q, hret, hdeadline, hrun, hsent, hnot, ?_⟩
  rcases hpoint with hpoint | ⟨hpoint, hempty, hns⟩
  · have hfold : closeBindings h (s.retired h p) = p.bindings.foldl closeBinding (s.retired h p) := by
      simp only [closeBindings, hpoint, hchain]
    rw [hfold]
    refine closedChain_foldl ⟨hpoint, hret, hchain, hnodup, fun b hb => ?_, fun b hb hsus hin => ?_⟩
    · rw [hbindings]
      exact hfound b hb
    · obtain ⟨x, hx, -, -⟩ := hfound b hb
      rw [isIn_of_find (by rw [hbindings]; exact hx), beq_iff_eq] at hsus
      rw [hmirror] at hin
      exact hqueue b hin x hx hsus
  · have hnone : ∀ q, (s.retired h p).points.find h = some q → q.bindings = [] :=
      fun q hq => by rw [hpoint] at hq; cases hq
    rw [closeBindings_nil hnone, hempty]
    exact .gone_nil hpoint (hnot hns)

theorem closed_of_state {x : Binding} (hx : s.bindings.find h = some x) :
    (x.state = .active → (s.bindings.find h).bind Binding.closed = some { x with state := .closing }) ∧
    (x.state = .suspended → (s.bindings.find h).bind Binding.closed = none) ∧
    (x.state = .detaching → (s.bindings.find h).bind Binding.closed = some x) := by
  rw [hx, Option.bind_some]
  unfold Binding.closed
  refine ⟨fun hs => ?_, fun hs => ?_, fun hs => ?_⟩ <;> simp only [hs]

/-! ## What the retirement leaves to its command and to its chain -/

/-- The chain and the test touch neither slots nor queues nor clients. -/
theorem retireRecord_leaves (h : Nat) (p : Point) (s : State) :
    (retireRecord h p s).slots = (s.retired h p).slots ∧
    (retireRecord h p s).cmdQueues = (s.retired h p).cmdQueues ∧
    (retireRecord h p s).tagSets = (s.retired h p).tagSets ∧
    (retireRecord h p s).doneLists = (s.retired h p).doneLists ∧
    (retireRecord h p s).clients = (s.retired h p).clients ∧
    (retireRecord h p s).bindings = (closeBindings h (s.retired h p)).bindings ∧
    (retireRecord h p s).mirrorQueue = (closeBindings h (s.retired h p)).mirrorQueue := by
  rw [retireRecord_eq]
  simp

theorem responseOf_ok (r : Request) (u : State) (w1 w2 w3 : Word) :
    responseOf r (okAnswer u w1 w2 w3) = responseRecord r 0 w1 w2 w3 := rfl

/-- Only the pending command is changed. -/
theorem retired_other_slots (hcmd : ∀ k, p.pendingCmd = some k →
    ∃ slot, s.slots.find k = some slot ∧ slot.point = h ∧ slot.state ≠ .done) (hk : p.pendingCmd ≠ some k) :
    (s.retired h p).slots.find k = s.slots.find k := by
  cases hpending : p.pendingCmd with
  | none => rw [retired_none hpending]
  | some k' =>
    have hne : k ≠ k' := fun he => hk (he ▸ hpending)
    obtain ⟨slot, hk', hpoint, hdone⟩ := hcmd k' hpending
    cases hstate : slot.state with
    | sent =>
      rw [retired_sent hpending hk' hstate]
      exact Table.find_put_ne _ _ hne
    | done => exact absurd hstate hdone
    | queued =>
      obtain ⟨hslots, -⟩ := retired_ended hpending hk' hpoint (.inl hstate)
      rw [hslots]
      exact Table.find_put_ne _ _ hne
    | accepted =>
      obtain ⟨hslots, -⟩ := retired_ended hpending hk' hpoint (.inr hstate)
      rw [hslots]
      exact Table.find_put_ne _ _ hne

theorem retired_responses (hcmd : ∀ k, p.pendingCmd = some k →
    ∃ slot, s.slots.find k = some slot ∧ slot.point = h ∧ slot.state ≠ .done) (c : ClientId) :
    ((s.retired h p).client c).responses = (s.client c).responses := by
  have hraised {d : ClientId} (hclients : (s.retired h p).clients = s.clients.modify d (fun w =>
      { w with sticky := w.sticky.raise .commandDone })) :
      ((s.retired h p).client c).responses = (s.client c).responses := by
    unfold State.client
    rw [hclients, Quad.get_modify]
    split
    next hc => rw [hc]
    next => rfl
  cases hpending : p.pendingCmd with
  | none =>
    rw [retired_none hpending]
    rfl
  | some k =>
    obtain ⟨slot, hk, hpoint, hdone⟩ := hcmd k hpending
    cases hstate : slot.state with
    | sent =>
      rw [retired_sent hpending hk hstate]
      rfl
    | done => exact absurd hstate hdone
    | queued =>
      obtain ⟨-, -, -, hclients⟩ := retired_ended hpending hk hpoint (.inl hstate)
      exact hraised hclients
    | accepted =>
      obtain ⟨-, -, -, hclients⟩ := retired_ended hpending hk hpoint (.inr hstate)
      exact hraised hclients

/-- R23, R112: what becomes of the pending command, and of its owner's done list. -/
theorem retired_command (hpending : p.pendingCmd = some k) (hk : s.slots.find k = some slot)
    (hpoint : slot.point = h) :
    (slot.state = .sent → (s.retired h p).slots.find k = some slot.markRetired) ∧
    (slot.state = .queued ∨ slot.state = .accepted →
      (s.retired h p).slots.find k = some (slot.finish .retired 0) ∧
      (∀ d, (s.retired h p).doneList d = if d = slot.client then s.doneList d ++ [k] else s.doneList d) ∧
      ((s.retired h p).client slot.client).sticky.commandDone = true) := by
  refine ⟨fun hstate => ?_, fun hstate => ?_⟩
  · rw [retired_sent hpending hk hstate]
    exact Table.find_put_same _ _ _
  · obtain ⟨hslots, -, hdone, hclients⟩ := retired_ended hpending hk hpoint hstate
    refine ⟨?_, fun d => ?_, ?_⟩
    · rw [hslots]
      exact Table.find_put_same _ _ _
    · unfold State.doneList
      rw [hdone, Quad.get_modify]
      split
      next hd => rw [hd]
      next => rfl
    · unfold State.client
      rw [hclients, Quad.get_modify_same]
      rfl

/-- R140: the taking of a request is the business of the windows. -/
theorem taken_leaves (a : Answer) (c : ClientId) (r : Request) :
    (a.taken c r).slots = a.state.slots ∧ (a.taken c r).cmdQueues = a.state.cmdQueues ∧
    (a.taken c r).tagSets = a.state.tagSets ∧ (a.taken c r).doneLists = a.state.doneLists ∧
    (a.taken c r).bindings = a.state.bindings ∧ (a.taken c r).mirrorQueue = a.state.mirrorQueue ∧
    (a.taken c r).points = a.state.points := ⟨rfl, rfl, rfl, rfl, rfl, rfl, rfl⟩

end

/-- Settles O21: the command is handed over, the chain is closed, and the point tested. -/
theorem retirePointClosesItsBindings : Obligations.RetirePointClosesItsBindings := by
  intro s c r rest p hr hkind hh hp hkey hstate hnodup hfound hqueue hcmd isIn left sent
  have hretire := retirePoint_retired (s := s.withoutHead c rest) (c := c) (r := r) hh hp hkey hstate
  obtain ⟨q, hret, hdeadline, hrun, hsent, hnot, hclosed⟩ :=
    closeBindings_closed (s := s.withoutHead c rest) (h := r.handle) (p := p) hnodup hfound hqueue hcmd
  obtain ⟨hbindings, hmirror⟩ := retired_bindings (s.withoutHead c rest) r.handle p
  have hstep := exec_request_taken (f := retirePoint) (i := .retirePoint c) hr hkind rfl
  rw [hretire] at hstep
  have hchain : ∀ b, ((s.withoutHead c rest).retired r.handle p).bindings.find b = s.bindings.find b :=
    fun b => congrArg (Table.find · b) hbindings
  have hleft : ((s.withoutHead c rest).retired r.handle p).leftOf p.bindings = left :=
    leftOf_congr (u := s) (fun b _ => hchain b)
  have hfinal : ((s.withoutHead c rest).retired r.handle p).finalOf p.bindings =
      p.bindings.filter (fun b => isIn .active b && !s.mirrorQueue.contains b) :=
    finalOf_congr (u := s) (fun b _ => hchain b) (fun b _ => iff_of_eq (congrArg (b ∈ ·) hmirror))
  obtain ⟨hslots, hcmdQueues, htagSets, hdoneLists, hclients, hbind, hmq⟩ :=
    retireRecord_leaves r.handle p (s.withoutHead c rest)
  generalize hx : retireRecord r.handle p (s.withoutHead c rest) = x at *
  have hkept : (x.client c).responses = (s.client c).responses := by
    have hret := retired_responses (s := s.withoutHead c rest) hcmd c
    unfold State.client at hret ⊢
    rw [hclients, hret]
    have hhead := congrArg Client.responses (Quad.get_modify_same s.clients c (fun k => { k with requests := rest }))
    exact hhead
  obtain ⟨-, hresp, -⟩ := taken_client_self (okAnswer x (place 0 8 (pointStateCode x r.handle)) 0 0) c r
  have tsticky := fun d => taken_sticky (okAnswer x (place 0 8 (pointStateCode x r.handle)) 0 0) c d r
  obtain ⟨tslots, tcmdQueues, ttagSets, tdoneLists, tbind, tmq, tpoints⟩ :=
    taken_leaves (okAnswer x (place 0 8 (pointStateCode x r.handle)) 0 0) c r
  rw [responseOf_ok] at hresp
  generalize (okAnswer x (place 0 8 (pointStateCode x r.handle)) 0 0).taken c r = t at *
  have hslots := tslots.trans hslots
  have hbind := tbind.trans hbind
  have hresponses : ∀ code, pointStateCode x r.handle = code → (t.client c).responses =
      (s.client c).responses ++ [responseRecord r 0 (place 0 8 code) 0 0] := fun code hcode => by
    rw [hresp, hcode, ← hkept]
    rfl
  refine ⟨_, hstep, ?_, ?_, ?_, ?_, ?_, ?_, ?_⟩
  · intro b hb x hx
    have hfind := hclosed.bindings b
    rw [if_pos hb, hchain b] at hfind
    have hfind := (congrArg (Table.find · b) hbind).trans hfind
    obtain ⟨hactive, hsuspended, hdetaching⟩ := closed_of_state hx
    exact ⟨fun hs => hfind.trans (hactive hs), fun hs => hfind.trans (hsuspended hs),
      fun hs => hfind.trans (hdetaching hs)⟩
  · intro b hb
    have hfind := hclosed.bindings b
    rw [if_neg hb, hchain b] at hfind
    exact (congrArg (Table.find · b) hbind).trans hfind
  · exact ((tmq.trans hmq).trans hclosed.queue).trans (congrArg₂ (· ++ ·) hmirror hfinal)
  · intro k slot hpending hk
    obtain ⟨slot', hk', hpoint, -⟩ := hcmd k hpending
    obtain rfl := Option.some.inj (hk.symm.trans hk')
    obtain ⟨hmark, hend⟩ := retired_command (s := s.withoutHead c rest) hpending hk hpoint
    have hslot := congrArg (Table.find · k) hslots
    refine ⟨fun hs => hslot.trans (hmark hs), fun hs => ?_, fun hs l => ?_, fun g hs hg => ?_⟩
    · obtain ⟨hfinish, hdone, hsticky⟩ := hend hs
      refine ⟨hslot.trans hfinish, fun d => ?_, ?_⟩
      · exact (congrArg (Quad.get · d) (tdoneLists.trans hdoneLists)).trans (hdone d)
      · rw [tsticky]
        exact (congrArg (fun q => (Quad.get q slot.client).sticky.commandDone) hclients).trans hsticky
    · exact (congrArg (Quad.get · l) (tcmdQueues.trans hcmdQueues)).trans
        (retired_queue (s := s.withoutHead c rest) hpending hk hpoint hs l)
    · exact (ttagSets.trans htagSets).trans (retired_tagSets (s := s.withoutHead c rest) hpending hk hpoint hs hg)
  · intro k hk
    exact (congrArg (Table.find · k) hslots).trans (retired_other_slots hcmd hk)
  · intro hl hns
    have hgone := hclosed.gone (hleft.trans hl) (hnot hns)
    rw [← retireRecord_eq, hx] at hgone
    refine ⟨(congrArg (Table.find · r.handle) tpoints).trans hgone, ?_⟩
    have hresp := hresponses 0 (pointStateCode_none hgone)
    rw [place_zero] at hresp
    exact hresp
  · intro hl
    have hkeeps : [] ++ ((s.withoutHead c rest).retired r.handle p).leftOf p.bindings ≠ [] ∨ q.pendingCmd ≠ none := by
      rcases hl with hl | hl
      · exact .inl (fun he => hl (hleft.symm.trans he))
      · obtain ⟨k, slot, hpending, -, -⟩ := id hl
        exact .inr (by rw [hsent hl, hpending]; exact nofun)
    have hstays := hclosed.stays hkeeps
    have hfind : x.points.find r.handle =
        some { q with bindings := left } := by
      rw [← hx, retireRecord_eq, testFree_stays, hstays, ← hleft]
      · rfl
      · intro q' hq'
        obtain rfl := Option.some.inj (hstays.symm.trans hq')
        exact .inr hkeeps.symm
    refine ⟨⟨{ q with bindings := left }, (congrArg (Table.find · r.handle) tpoints).trans hfind, hret, rfl,
      hdeadline, hrun, hsent, hnot⟩, ?_⟩
    exact hresponses 5 ((pointStateCode_of_find hfind).trans (congrArg PointState.code hret))

end Sys2Proof.Machine
end


section
/-! The bus to host memory: the start of a transaction (O47), its handshake (O48) and its end (O49). -/

namespace Sys2Proof.Machine

/-! ## The choice of a message (R126) -/

section

variable {s : State}

/-- R153: the message of client `c` is in the arbiter's choice. -/
theorem Client.wantsMessage_iff (k : Client) :
    k.wantsMessage = true ↔ k.msgState = .pending ∧ k.msgInFlight = false := by
  unfold Client.wantsMessage
  rw [Bool.and_eq_true, beq_iff_eq, Bool.not_eq_true']

/-- R126: the round-robin order by position. -/
theorem roundRobin_eq (last : ClientId) : roundRobin last = (List.finRange 4).map (fun n => last + 1 + n) := by
  revert last
  decide

theorem nextMessage_of_first {n : Fin 4}
    (hn : (s.client (s.mwm.lastClient + 1 + n)).wantsMessage = true)
    (hfirst : ∀ m : Fin 4, m < n → (s.client (s.mwm.lastClient + 1 + m)).wantsMessage = false) :
    nextMessage s = some (s.mwm.lastClient + 1 + n) := by
  unfold nextMessage
  rw [roundRobin_eq, List.find?_map, Option.map_eq_some_iff]
  refine ⟨n, List.find?_eq_some_iff_getElem.mpr ⟨hn, n.val, ?_, ?_, fun j hj => ?_⟩, rfl⟩
  · rw [List.length_finRange]
    exact n.isLt
  · simp
  · simp only [List.getElem_finRange, Function.comp, Bool.not_eq_true']
    exact hfirst _ hj

theorem nextMessage_none (hnone : ∀ c, (s.client c).wantsMessage = false) : nextMessage s = none := by
  unfold nextMessage
  rw [List.find?_eq_none]
  exact fun c _ => by rw [hnone c]; exact Bool.false_ne_true

theorem exec_mirrorWriteStart (hs : s.resetN = true) : exec .mirrorWriteStart s = .next (mirrorWriteStart s) :=
  inService_of_resetN hs _

theorem exec_messageWriteStart (hs : s.resetN = true) :
    exec .messageWriteStart s = .next (messageWriteStart s) :=
  inService_of_resetN hs _

theorem mirrorWriteStart_message {c : ClientId} (hnext : nextMessage s = some c) : mirrorWriteStart s = s := by
  unfold mirrorWriteStart
  cases s.mwm.phase <;> simp only [hnext]

theorem mirrorWriteStart_empty (hq : s.mirrorQueue = []) : mirrorWriteStart s = s := by
  unfold mirrorWriteStart
  cases s.mwm.phase <;> cases nextMessage s <;> simp only [hq]

theorem mirrorWriteStart_head {b : Nat} {more : List Nat} {r : Binding} {p : Point}
    (hidle : s.mwm.phase = .idle) (hnext : nextMessage s = none) (hq : s.mirrorQueue = b :: more)
    (hr : s.bindings.find b = some r) (hp : s.points.find r.point = some p) :
    mirrorWriteStart s = startMirror b r p s := by
  simp only [mirrorWriteStart, hidle, hnext, hq, hr, hp]

theorem messageWriteStart_none (hnext : nextMessage s = none) : messageWriteStart s = s := by
  unfold messageWriteStart
  cases s.mwm.phase <;> simp only [hnext]

theorem messageWriteStart_next {c : ClientId} (hidle : s.mwm.phase = .idle) (hnext : nextMessage s = some c) :
    messageWriteStart s = { s with
      clients := s.clients.modify c (fun k => { k with msgInFlight := true })
      mwm := { s.mwm with
        lastClient := c
        phase := .request {
          owner := .message c
          address := (s.client c).msgAddr
          key := (s.client c).msgKey
          kind := .write
          data := [(s.client c).msgData]
          timeout := 12000
          ignored := false } } } := by
  simp only [messageWriteStart, hidle, hnext]
  rfl

/-- R129, Table 7-2. -/
theorem mirrorWriteKind_eq (x : LineSize) : mirrorWriteKind x = if x = .l16 then .writeLine else .write := by
  cases x <;> rfl

/-- R57: the head of the queue leaves it. -/
theorem without_head {b : Nat} {more : List Nat} (hb : b ∉ more) : without (b :: more) b = more := by
  unfold without
  rw [List.filter_cons_of_neg (by simp)]
  exact without_eq_of_notMem hb

theorem startMirror_eq {b : Nat} {more : List Nat} {r : Binding} {p : Point} (hq : s.mirrorQueue = b :: more)
    (hb : b ∉ more) (hr : s.bindings.find b = some r) : startMirror b r p s = { s with
      mirrorQueue := more
      bindings := s.bindings.put b { r with inFlight := true, sequence := r.sequence + 1 }
      mwm := { s.mwm with
        phase := .request {
          owner := .mirror b (r.state == .closing)
          address := r.address
          key := r.key
          kind := if s.mwm.lineSize = .l16 then .writeLine else .write
          data := mirrorRecord r.point p (r.sequence + 1)
          timeout := 12000
          ignored := false } } } := by
  have hqueue : (unqueueBinding b s).mirrorQueue = more := by
    rw [← without_head hb, ← hq]
    rfl
  have hput : (unqueueBinding b s).bindings.modify b (fun r' => { r' with
      inFlight := true
      sequence := r.sequence + 1 }) =
        s.bindings.put b { r with inFlight := true, sequence := r.sequence + 1 } :=
    Table.modify_some _ _ hr
  rw [← mirrorWriteKind_eq, ← hqueue, ← hput]
  rfl

end

/-! ## The mirror record (Table 11-4) -/

section

theorem mirrorRecord_unforced {p : Point} (hp : p.forced = none) (h : Nat) (n : BitVec 16) :
    mirrorRecord h p n = [place 0 16 h ||| place 16 3 p.state.code ||| place 19 1 p.quality.code |||
      place 20 2 (staleCode p.stale) ||| place 22 1 (bit p.value.isSome) ||| place 23 1 (bit p.lastReport.isSome),
      p.value.getD 0, place 0 16 p.reportCount.toNat ||| place 16 16 n.toNat, p.lastReport.getD 0] := by
  unfold mirrorRecord
  rw [published_unforced hp]
  rfl

theorem mirrorRecord_forced {p : Point} {f : ForcedPart} (hp : p.forced = some f) (h : Nat) (n : BitVec 16) :
    mirrorRecord h p n = [place 0 16 h ||| place 16 3 4 ||| place 19 1 0 ||| place 20 2 0 ||| place 22 1 1 |||
      place 23 1 (bit p.lastReport.isSome),
      f.value, place 0 16 p.reportCount.toNat ||| place 16 16 n.toNat, p.lastReport.getD 0] := by
  unfold mirrorRecord
  rw [published_forced hp]
  rfl

end

/-- Settles O47: the choice, the record, and the bytes driven. -/
theorem transactionsStartInTheArbitersOrder : Obligations.TransactionsStartInTheArbitersOrder := by
  refine ⟨?start, ?record, ?driven⟩
  case start =>
    intro s hs hidle wants
    have hwants : ∀ c, ¬wants c → (s.client c).wantsMessage = false := fun c hc =>
      Bool.eq_false_iff.mpr (fun hw => hc ((Client.wantsMessage_iff _).mp hw))
    rw [exec_mirrorWriteStart hs, exec_messageWriteStart hs]
    refine ⟨?first, fun hnone => ?_, fun b more r p hnone hq hb hr hp => ?_, fun _ hq => ?_⟩
    case first =>
      intro n hn hfirst c
      have hnext := nextMessage_of_first ((Client.wantsMessage_iff _).mpr hn)
        (fun m hm => hwants _ (hfirst m hm))
      rw [mirrorWriteStart_message hnext, messageWriteStart_next hidle hnext]
      exact ⟨rfl, rfl⟩
    · rw [messageWriteStart_none (nextMessage_none (fun c => hwants c (hnone c)))]
    · rw [mirrorWriteStart_head hidle (nextMessage_none (fun c => hwants c (hnone c))) hq hr hp,
        startMirror_eq hq hb hr]
    · rw [mirrorWriteStart_empty hq]
  case record =>
    intro h p n stale time counts
    refine ⟨fun hp => ?_, fun f hp => ?_⟩
    · rw [mirrorRecord_unforced hp]
      rfl
    · rw [mirrorRecord_forced hp, place_zero, place_zero, BitVec.or_zero, BitVec.or_zero]
      rfl
  case driven =>
    intro s t hphase
    have hbytes : s.bytesDriven = t.bytes := by
      unfold State.bytesDriven
      rcases hphase with hphase | hphase <;> rw [hphase]
    refine ⟨?_, ?_, fun i w hw j => ?_⟩
    · unfold State.busDriven
      rcases hphase with hphase | hphase <;> rw [hphase]
    · rw [hbytes]
      unfold Transaction.bytes
      rw [bytesFrom_length, flatMap_wordBytes_length]
    · rw [hbytes]
      unfold Transaction.bytes
      rw [bytesFrom_getElem?, flatMap_wordBytes_getElem?, hw]
      rfl

/-! ## The handshake -/

section

variable {s : State}

/-- R132, R133: the MWM after the end of a transaction. -/
theorem endTransaction_released (t : Transaction) (e : Option WriteError) (s : State) :
    (endTransaction t e s).mwm = { s.mwm with phase := .idle } ∧ (endTransaction t e s).breqAsserted = false ∧
      (endTransaction t e s).busDriven = none := by
  have hmwm : (endTransaction t e s).mwm = { s.mwm with phase := .idle } := by
    unfold endTransaction
    split
    · rfl
    · simp [setPhase]
  refine ⟨hmwm, ?_, ?_⟩
  · unfold State.breqAsserted
    rw [hmwm]
    rfl
  · unfold State.busDriven
    rw [hmwm]

theorem exec_busEndStatus (hs : s.resetN = true) (a : Bool) (x : EndStatus) :
    exec (.busEndStatus a x) s = .next (busEnd a x s) := inService_of_resetN hs _

theorem exec_busTimeout (hs : s.resetN = true) : exec .busTimeout s = .next (busTimeout s) :=
  inService_of_resetN hs _

theorem busEnd_accepted {t : Transaction} (hphase : s.mwm.phase = .accepted t) (a : Bool) (x : EndStatus) :
    busEnd a x s = endTransaction t (endError x) s := by
  unfold busEnd
  rw [hphase]

theorem busEnd_drive {t : Transaction} (hphase : s.mwm.phase = .drive t) (a : Bool) (x : EndStatus) :
    busEnd a x s = if a then endTransaction t (endError x) s else s := by
  unfold busEnd
  rw [hphase]

theorem busEnd_before (hphase : s.mwm.phase = .idle ∨ ∃ t, s.mwm.phase = .request t) (a : Bool)
    (x : EndStatus) :
    busEnd a x s = s := by
  unfold busEnd
  rcases hphase with hphase | ⟨t, hphase⟩ <;> rw [hphase]

theorem busTimeout_transaction {t : Transaction} (ht : s.mwm.phase.transaction = some t) :
    busTimeout s = endTransaction t (some .timeout) s := by
  unfold busTimeout
  rw [ht]

end

/-- Settles O48, by the phase. -/
theorem grantAcceptAndRecognition : Obligations.GrantAcceptAndRecognition := by
  intro s
  refine ⟨fun hb => ?_, fun t hb hphase => ?_, fun hb hphase => ?_, rfl,
    fun hs => ⟨fun t hphase => ⟨?_, fun e => ?_⟩,
    fun hphase => ?_, fun t hphase a e => ?_, fun t hphase e => ?_, fun t ht => ?_, fun hphase a e => ?_,
    fun hphase => ?_⟩⟩
  · show Host.Outcome.next (busGrant s) = _
    rw [busGrant, if_pos hb]
  · show Host.Outcome.next (busGrant s) = _
    rw [busGrant, if_neg (by rw [hb]; exact Bool.false_ne_true)]
    simp only [hphase]
    rfl
  · show Host.Outcome.next (busGrant s) = _
    rw [busGrant, if_neg (by rw [hb]; exact Bool.false_ne_true)]
    cases hp : s.mwm.phase with
    | request t => exact absurd hp (hphase t)
    | idle => rfl
    | drive t => rfl
    | accepted t => rfl
  · refine (inService_of_resetN hs busAccept).trans ?_
    unfold busAccept
    rw [hphase]
    rfl
  · rw [exec_busEndStatus hs, busEnd_drive hphase]
    rfl
  · refine (inService_of_resetN hs busAccept).trans ?_
    unfold busAccept
    cases hp : s.mwm.phase with
    | drive t => exact absurd hp (hphase t)
    | idle => rfl
    | request t => rfl
    | accepted t => rfl
  · rw [exec_busEndStatus hs, busEnd_accepted hphase]
    exact ⟨_, rfl, endTransaction_released ..⟩
  · rw [exec_busEndStatus hs, busEnd_drive hphase]
    exact ⟨_, rfl, endTransaction_released ..⟩
  · rw [exec_busTimeout hs, busTimeout_transaction ht]
    exact ⟨_, rfl, endTransaction_released ..⟩
  · rw [exec_busEndStatus hs, busEnd_before hphase]
  · rw [exec_busTimeout hs]
    unfold busTimeout
    rw [hphase]
    rfl

/-! ## The end of a transaction (R133) -/

section

variable {s : State} {t : Transaction} {i : Instr} {e : Option WriteError}

/-- R131, R132: `i` ends the transaction `t` of `s` with the status `e`. -/
def EndsTransaction (s : State) (t : Transaction) (i : Instr) (e : Option WriteError) : Prop :=
  (∃ a x, s.mwm.phase = .accepted t ∧ i = .busEndStatus a x ∧ e = endError x) ∨
    (∃ x, s.mwm.phase = .drive t ∧ i = .busEndStatus true x ∧ e = endError x) ∨
    (s.mwm.phase.transaction = some t ∧ i = .busTimeout ∧ e = some .timeout)

theorem EndsTransaction.exec (hs : s.resetN = true) (hi : EndsTransaction s t i e) :
    Machine.exec i s = .next (endTransaction t e s) := by
  rcases hi with ⟨a, x, hphase, rfl, rfl⟩ | ⟨x, hphase, rfl, rfl⟩ | ⟨ht, rfl, rfl⟩
  · rw [exec_busEndStatus hs, busEnd_accepted hphase]
  · rw [exec_busEndStatus hs, busEnd_drive hphase]
    rfl
  · rw [exec_busTimeout hs, busTimeout_transaction ht]

theorem endTransaction_ignored (ht : t.ignored = true) : endTransaction t e s = setPhase .idle s := if_pos ht

theorem endTransaction_handed (ht : t.ignored = false) :
    endTransaction t e s = settle (handOn t.owner e (setPhase .idle s)) :=
  if_neg (by rw [ht]; exact Bool.false_ne_true)

/-- R154: the status of a message write goes to its client. -/
theorem handOn_message (c : ClientId) (e : Option WriteError) (s : State) :
    handOn (.message c) e s = s.modifyClient c (fun k => k.messageEnd e) := by
  cases e <;> rfl

theorem Client.messageEnd_ignored {k : Client} (hk : k.msgIgnored = true) (e : Option WriteError) :
    k.messageEnd e = { k with msgInFlight := false, msgIgnored := false, msgState := .armed } := if_pos hk

theorem Client.messageEnd_ok {k : Client} (hk : k.msgIgnored = false) :
    k.messageEnd none = { k with msgInFlight := false, msgState := .sent } :=
  if_neg (by rw [hk]; exact Bool.false_ne_true)

theorem Client.messageEnd_error {k : Client} (hk : k.msgIgnored = false) (x : WriteError) :
    k.messageEnd (some x) = { k with
      msgInFlight := false
      msgState := .failed
      sticky := { k.sticky with messageFault := true } } :=
  if_neg (by rw [hk]; exact Bool.false_ne_true)

end

/-! ## The binding of an ended write (R59, R60) -/

section

variable {s : State} {b : Nat} {r : Binding} {p : Point} {final : Bool} {e : Option WriteError}

theorem modifyBinding_landed (hr : s.bindings.find b = some r) :
    s.modifyBinding b (fun r => { r with inFlight := false }) =
      { s with bindings := s.bindings.put b { r with inFlight := false } } := by
  unfold State.modifyBinding
  rw [Table.modify_some _ _ hr]

/-- The end of a mirror write whose binding stays as it is. -/
theorem handOn_stays (hr : s.bindings.find b = some r)
    (hstays : r.state = .active ∨ (r.state = .closing ∧ final = false)) :
    handOn (.mirror b final) none s = { s with bindings := s.bindings.put b { r with inFlight := false } } := by
  show mirrorEndOk b final s = _
  unfold mirrorEndOk
  rw [modifyBinding_landed hr]
  simp only [Table.find_put_same]
  rcases hstays with hstate | ⟨hstate, rfl⟩
  · simp only [hstate]
  · simp only [hstate]
    rfl

/-- R60: an ACTIVE binding is SUSPENDED by an error. -/
theorem handOn_suspends (hr : s.bindings.find b = some r) (hstate : r.state = .active) (x : WriteError) :
    handOn (.mirror b final) (some x) s = { s with
      mirrorQueue := s.mirrorQueue.filter (fun y => y != b)
      bindings := s.bindings.put b { r with inFlight := false, state := .suspended, fault := some x }
      clients := s.clients.modify r.client (fun k => { k with sticky := { k.sticky with mirrorFault := true } }) } := by
  show mirrorEndError b x s = _
  unfold mirrorEndError
  rw [modifyBinding_landed hr]
  simp only [Table.find_put_same, hstate]
  unfold unqueueBinding State.modifyBinding
  dsimp only
  rw [Table.modify_some _ _ (Table.find_put_same _ _ _), Table.put_put]
  rfl

/-- R59, R60: the write of a binding that ends with it. -/
theorem handOn_frees (hr : s.bindings.find b = some r)
    (hends : (r.state = .closing ∧ (final = true ∨ e ≠ none)) ∨ r.state = .detaching) :
    handOn (.mirror b final) e s =
      freeBinding b { s with bindings := s.bindings.put b { r with inFlight := false } } := by
  cases e with
  | none =>
    show mirrorEndOk b final s = _
    unfold mirrorEndOk
    rw [modifyBinding_landed hr]
    simp only [Table.find_put_same]
    rcases hends with ⟨hstate, hfinal⟩ | hstate
    · obtain rfl : final = true := hfinal.resolve_right (fun hne => hne rfl)
      simp only [hstate]
      rfl
    · simp only [hstate]
  | some x =>
    show mirrorEndError b x s = _
    unfold mirrorEndError
    rw [modifyBinding_landed hr]
    simp only [Table.find_put_same]
    rcases hends with ⟨hstate, -⟩ | hstate <;> simp only [hstate]

/-- R25: the record of a binding is freed, and its point is tested. -/
theorem freeBinding_landed (hp : s.points.find r.point = some p) :
    freeBinding b { s with bindings := s.bindings.put b { r with inFlight := false } } = testFree r.point { s with
      mirrorQueue := s.mirrorQueue.filter (fun x => x != b)
      bindings := s.bindings.drop b
      points := s.points.put r.point { p with bindings := p.bindings.filter (fun x => x != b) } } := by
  unfold freeBinding
  simp only [Table.find_put_same]
  unfold unqueueBinding State.modifyPoint
  dsimp only
  rw [Table.modify_some _ _ hp, Table.drop_put]
  rfl

end

/-- Settles O49: the end hands the status to the binding or to the client. -/
theorem mirrorAndMessageWritesEnd : Obligations.MirrorAndMessageWritesEnd := by
  refine ⟨?mirror, ?message⟩
  case mirror =>
    intro s t b final i e hs howner hi idle
    have hexec := EndsTransaction.exec hs hi
    refine ⟨fun hig => ?_, ?handed⟩
    · rw [hexec, endTransaction_ignored hig]
      rfl
    case handed =>
      intro r p hig hr hp freed
      rw [hexec, endTransaction_handed hig, howner]
      have hri : (setPhase .idle s).bindings.find b = some r := hr
      have hpi : (setPhase .idle s).points.find r.point = some p := hp
      refine ⟨fun hstate he => ?_, fun x hstate he => ?_, fun hstate hfinal he => ?_, fun hends hstays => ?_,
        fun hends hret hpending hlast => ?_⟩
      · rw [he, handOn_stays hri (.inl hstate)]
        rfl
      · rw [he, handOn_suspends hri hstate]
        rfl
      · rw [he, handOn_stays hri (.inr ⟨hstate, hfinal⟩)]
        rfl
      · rw [handOn_frees hri hends, freeBinding_landed hpi, testFree_stays]
        · rfl
        · intro q hq
          rw [Table.find_put_same] at hq
          obtain rfl := Option.some.inj hq
          exact hstays
      · rw [handOn_frees hri hends, freeBinding_landed hpi, testFree_frees
          (p := { p with bindings := p.bindings.filter (fun x => x != b) })
            (Table.find_put_same _ _ _) hret hpending hlast]
        unfold freePoint State.modifyStation
        dsimp only
        rw [Table.drop_put]
        rfl
  case message =>
    intro s t c i e hs howner hi idle
    have hexec := EndsTransaction.exec hs hi
    have hhanded (hig : t.ignored = false) (f : Client → Client)
      (hf : (s.client c).messageEnd e = f (s.client c)) :
        exec i s = .next (settle (idle.modifyClient c f)) := by
      rw [hexec, endTransaction_handed hig, howner, handOn_message,
        State.modifyClient_congr (s := setPhase .idle s) (g := f) hf]
      rfl
    refine ⟨fun hig => ?_, fun hig hm => ?_, fun hig hm he => ?_, fun hig hm he => ?_⟩
    · rw [hexec, endTransaction_ignored hig]
      rfl
    · exact hhanded hig _ (Client.messageEnd_ignored hm e)
    · exact hhanded hig _ (he ▸ Client.messageEnd_ok hm)
    · obtain ⟨x, rfl⟩ := Option.ne_none_iff_exists'.mp he
      exact hhanded hig _ (Client.messageEnd_error hm x)

end Sys2Proof.Machine
end


section
/-! The start of a round (O36), of a visit (O38) and of a COMMAND exchange (O39). -/

namespace Sys2Proof.Machine

/-! ## The choice at a decision point (R90, R93) -/

section

variable {s : State} {l : LinkId} {k : Link}

/-- R90: a station is due. -/
theorem Station.due_iff (st : Station) (counter : BitVec 3) : st.due counter = true ↔
    st.state = .joining ∨ st.state = .present ∨ (st.state = .silent ∧ counter = 0) := by
  unfold Station.due
  cases st.state <;> simp

theorem stationDue_iff (counter : BitVec 3) (h : Nat) : stationDue s counter h = true ↔
    ∃ st, s.stations.find h = some st ∧
      (st.state = .joining ∨ st.state = .present ∨ (st.state = .silent ∧ counter = 0)) := by
  unfold stationDue
  cases s.stations.find h with
  | none => simp
  | some st => simp [Station.due_iff]

/-- R94: the burst counter is below its limit. -/
theorem Link.burstOpen_iff (k : Link) : k.burstOpen = true ↔ k.burst < k.config.burstLimit.toNat :=
  decide_eq_true_iff

/-- R93 step 1. -/
theorem commandReady_iff : commandReady s l k = true ↔
    k.burst < k.config.burstLimit.toNat ∧ ∃ h ∈ s.cmdQueue l, s.eligible h = true := by
  unfold commandReady State.oldestEligible
  rw [Bool.and_eq_true, Link.burstOpen_iff, List.find?_isSome]

theorem commandReady_eq_false (hnone : k.config.burstLimit.toNat ≤ k.burst ∨
    ∀ h ∈ s.cmdQueue l, s.eligible h = false) : commandReady s l k = false := by
  rw [Bool.eq_false_iff, Ne, commandReady_iff]
  rintro ⟨hburst, h, hq, heligible⟩
  rcases hnone with hnone | hnone
  · omega
  · rw [hnone h hq] at heligible
    cases heligible

/-- R90: the poll list from the head of a part of it on is that part. -/
theorem fromPosition_part {before part : List Nat} (hnodup : (before ++ part).Nodup) :
    fromPosition (before ++ part) part.head? = part := by
  cases part with
  | nil => rfl
  | cons x more =>
    refine fromPosition_split before x more (fun hx => ?_)
    exact (List.nodup_append.mp hnodup).2.2 x hx x List.mem_cons_self rfl

/-- R90: the first due station. -/
theorem dueStation_first {before skipped after : List Nat} {sid : Nat}
    (hlist : s.pollList l = before ++ (skipped ++ sid :: after)) (hnodup : (s.pollList l).Nodup)
    (hpos : k.roundPos = (skipped ++ sid :: after).head?) (hdue : stationDue s k.roundCounter sid = true)
    (hskipped : ∀ x ∈ skipped, stationDue s k.roundCounter x = false) : dueStation s l k = some sid := by
  unfold dueStation
  rw [hlist] at hnodup ⊢
  have hpassed : skipped.find? (stationDue s k.roundCounter) = none :=
    List.find?_eq_none.mpr (fun x hx => by rw [hskipped x hx]; exact Bool.false_ne_true)
  rw [hpos, fromPosition_part hnodup, List.find?_append, List.find?_cons_of_pos hdue, hpassed, Option.none_or]

/-- R90: the position after a visit. -/
theorem successor_visited {before skipped after : List Nat} {sid : Nat}
    (hlist : s.pollList l = before ++ (skipped ++ sid :: after)) (hnodup : (s.pollList l).Nodup) :
    successor (s.pollList l) sid = after.head? := by
  rw [hlist, ← List.append_assoc] at hnodup ⊢
  exact successor_split _ _ _ (fun hx => (List.nodup_append.mp hnodup).2.2 sid hx sid List.mem_cons_self rfl)

end

/-! ## A visit (R90) -/

section

variable {s : State} {l : LinkId}

theorem visitStart_due {sid : Nat} {st : Station} (hopen : (s.link l).activity = .deciding)
    (hready : commandReady s l (s.link l) = false) (hgap : (s.link l).pollGap = .stopped)
    (hdue : dueStation s l (s.link l) = some sid) (hst : s.stations.find sid = some st) :
    visitStart l s = s.modifyLink l (fun k =>
      { (k.send (visitExchange k sid st)) with roundPos := successor (s.pollList l) sid, burst := 0 }) := by
  unfold visitStart
  simp only [if_pos hopen, if_pos (And.intro hready hgap), hdue, hst]

end

/-- Settles O38. -/
theorem visitStartsAtTheFirstDueStation : Obligations.VisitStartsAtTheFirstDueStation := by
  intro s l before skipped after sid st hs hopen hgap hnone hlist hnodup hpos hst due hdue hskipped kind sum
  have hskip : ∀ x ∈ skipped, stationDue s (s.link l).roundCounter x = false := fun x hx => by
    rw [Bool.eq_false_iff, Ne, stationDue_iff]
    rintro ⟨st', hst', hdue'⟩
    exact hskipped x hx st' hst' hdue'
  have hfirst := dueStation_first hlist hnodup hpos ((stationDue_iff _ _).mpr ⟨st, hst, hdue⟩) hskip
  refine (inService_of_resetN hs (visitStart l)).trans ?_
  rw [visitStart_due hopen (commandReady_eq_false hnone) hgap hfirst hst, successor_visited hlist hnodup]
  refine congrArg Host.Outcome.next (State.modifyLink_congr ?_)
  unfold visitExchange
  by_cases hpresent : st.state = .present
  · have hkind : kind = 0x10#8 := if_pos hpresent
    simp only [if_pos hpresent, sum, hkind]
    rfl
  · have hkind : kind = 0x11#8 := if_neg hpresent
    simp only [if_neg hpresent, sum, hkind]
    rfl

/-! ## A COMMAND exchange (R114) -/

section

variable {s : State} {l : LinkId} {h g : Nat} {r : Slot} {st : Station} {p : Point}

/-- R93: a QUEUED slot whose station has room. -/
theorem eligible_of (hr : s.slots.find h = some r) (hqueued : r.state = .queued)
    (hst : s.stations.find r.station = some st) (hroom : (s.tagSet r.station).rows.length < st.capacity) :
    s.eligible h = true := by
  simp only [State.eligible, State.hasRoom, hr, hst, hqueued, beq_self_eq_true, Bool.true_and]
  exact decide_eq_true hroom

theorem eligible_eq_false (hfull : ∀ q qt, s.slots.find h = some q → s.stations.find q.station = some qt →
    q.state = .queued → qt.capacity ≤ (s.tagSet q.station).rows.length) : s.eligible h = false := by
  unfold State.eligible
  cases hq : s.slots.find h with
  | none => rfl
  | some q =>
    dsimp only
    rw [Bool.and_eq_false_iff, ← Bool.not_eq_true, beq_iff_eq]
    by_cases hqueued : q.state = .queued
    · right
      unfold State.hasRoom
      cases hqt : s.stations.find q.station with
      | none => rfl
      | some qt => exact decide_eq_false (Nat.not_lt.mpr (hfull q qt hq hqt hqueued))
    · exact .inl hqueued

theorem setTagSet_put (sid : Nat) (t : Table TagUse) (g : Nat) (use : TagUse) :
    s.setTagSet sid (t.put g use) = { s with tagSets := s.tagSets.put sid (t.put g use) } := by
  unfold State.setTagSet
  rw [if_neg (by rw [Table.isEmpty_put]; exact Bool.false_ne_true)]

/-- R114: the slot chosen, its tag and its frame. -/
theorem startCommand_sent (hr : s.slots.find h = some r) (hst : s.stations.find r.station = some st)
    (hp : s.points.find r.point = some p) (hg : (s.tagSet r.station).lowestFree 16 = some g) :
    startCommand l h s = { s with
      cmdQueues := s.cmdQueues.map (fun q => without q h)
      tagSets := s.tagSets.put r.station ((s.tagSet r.station).put g (.held h))
      slots := s.slots.put h { r with
        state := .sent
        tag := some g
        timeout := some (s.link l).config.completionTimeout }
      links := s.links.modify l (fun k =>
        { (k.send (makeExchange k (.command h g) r.station st kindCommand (commandPayload g p.number r.value))) with
          burst := k.burst + 1 }) } := by
  unfold startCommand
  simp only [hr, hst, hp, show (s.tagSet r.station).lowestFree Config.tagCount = some g from hg]
  rw [setTagSet_put]
  unfold State.modifySlot
  rw [Table.modify_some _ _ (by exact hr)]
  rfl

end

/-- Settles O39: the slot is the first eligible one of the queue. -/
theorem commandExchangeTakesTheOldestEligibleSlot : Obligations.CommandExchangeTakesTheOldestEligibleSlot := by
  intro s l before after h g r st p hs hopen hburst hq hbefore hr hqueued hst hroom hp hg body
  have holdest : s.oldestEligible l = some h := by
    have hpassed : before.find? s.eligible = none :=
      List.find?_eq_none.mpr (fun x hx => by rw [eligible_eq_false (hbefore x hx)]; exact Bool.false_ne_true)
    unfold State.oldestEligible
    rw [hq, List.find?_append, List.find?_cons_of_pos (eligible_of hr hqueued hst hroom), hpassed,
      Option.none_or]
  refine (inService_of_resetN hs (commandExchangeStart l)).trans ?_
  unfold commandExchangeStart
  simp only [if_pos hopen, if_pos ((Link.burstOpen_iff _).mpr hburst), holdest]
  rw [startCommand_sent hr hst hp hg.lowestFree]
  rfl

/-! ## LINK_ENABLE (R101) -/

section

variable {s : State} {l : LinkId}

/-- The rejoining of a list of stations. -/
theorem foldl_modifyStation (f : Station → Station) (list : List Nat) (s : State) :
    list.foldl (fun s sid => s.modifyStation sid f) s =
      { s with stations := list.foldl (fun t sid => t.modify sid f) s.stations } := by
  induction list generalizing s with
  | nil => rfl
  | cons sid more ih =>
    rw [List.foldl_cons, ih]
    rfl

/-- R101: a station that rejoins is not LEAVING. -/
theorem Station.rejoin_state {st : Station} (hst : st.state ≠ .leaving) : st.rejoin.state ≠ .leaving := by
  unfold Station.rejoin
  split
  · exact nofun
  · exact hst

theorem foldl_rejoin_find {h : Nat} (list : List Nat) : ∀ {t : Table Station} {st : Station},
    t.find h = some st → st.state ≠ .leaving →
    ∃ st', (list.foldl (fun t sid => t.modify sid Station.rejoin) t).find h = some st' ∧
      st'.state ≠ .leaving := by
  induction list with
  | nil => exact fun hst hstate => ⟨_, hst, hstate⟩
  | cons sid more ih =>
    intro t st hst hstate
    rw [List.foldl_cons]
    by_cases hsid : h = sid
    · subst hsid
      refine ih (st := st.rejoin) ?_ (Station.rejoin_state hstate)
      rw [Table.modify_some _ _ hst]
      exact Table.find_put_same _ _ _
    · refine ih (st := st) ?_ hstate
      rw [Table.find_modify_ne _ _ hsid]
      exact hst

theorem enableLink_running (ha : (s.link l).activity ≠ .disabled) : enableLink l s = s := if_neg ha

theorem enableLink_unset (ha : (s.link l).activity = .disabled) (hd : (s.link l).config.divisor = 0) :
    enableLink l s = settle (setLinkFlag l .configError s) := by
  unfold enableLink
  dsimp only
  rw [if_pos ha, if_pos hd]

theorem enableLink_starts (ha : (s.link l).activity = .disabled) (hd : (s.link l).config.divisor ≠ 0) :
    enableLink l s = ({ s with
      stations := (s.pollList l).foldl (fun t sid => t.modify sid Station.rejoin) s.stations } : State).modifyLink l
        (fun k => beginRound { s with
          stations := (s.pollList l).foldl (fun t sid => t.modify sid Station.rejoin) s.stations } l
            { k with roundCounter := 0, burst := 0 }) := by
  unfold enableLink
  dsimp only
  rw [if_pos ha, if_neg hd, foldl_modifyStation]

theorem beginRound_empty (hl : s.pollList l = []) (k : Link) :
    beginRound s l k = { k with pollGap := .stopped, roundPos := none, activity := .idle } := by
  unfold beginRound
  rw [hl]

theorem beginRound_head {h : Nat} {more : List Nat} (hl : s.pollList l = h :: more) (k : Link) :
    beginRound s l k = arbitrate s l roundsAtOnce { k with pollGap := .stopped, roundPos := some h } := by
  unfold beginRound
  rw [hl]

/-- R90: with round counter 0 every station that stays is due. -/
theorem stationDue_zero {h : Nat} {st : Station} (hst : s.stations.find h = some st)
    (hstate : st.state ≠ .leaving) :
    stationDue s 0 h = true := by
  rw [stationDue_iff]
  refine ⟨st, hst, ?_⟩
  cases h : st.state with
  | joining => exact .inl rfl
  | present => exact .inr (.inl rfl)
  | silent => exact .inr (.inr ⟨rfl, rfl⟩)
  | leaving => exact absurd h hstate

/-- R101: the first round begins at its first station. -/
theorem beginRound_first {h : Nat} {more : List Nat} {st : Station} (hl : s.pollList l = h :: more)
    (hst : s.stations.find h = some st) (hstate : st.state ≠ .leaving) {k : Link} (hk : k.roundCounter = 0) :
    beginRound s l k = { k with activity := .deciding, pollGap := .stopped, roundPos := some h } := by
  rw [beginRound_head hl, arbitrate_due rfl]
  refine Option.isSome_iff_exists.mpr ⟨h, dueStation_head (hl ▸ List.mem_cons_self) rfl ?_⟩
  exact (congrArg (fun n => stationDue s n h) hk).trans (stationDue_zero hst hstate)

end

/-- Settles O36. -/
theorem linkEnableStartsTheFirstRound : Obligations.LinkEnableStartsTheFirstRound := by
  intro s l hs rejoined
  have hexec : exec (.linkEnable l) s = .next (enableLink l s) := inService_of_resetN hs _
  refine ⟨?running, ?unset, ?empty, ?starts⟩
  case running =>
    intro ha
    rw [hexec, enableLink_running ha]
  case unset =>
    intro ha hd
    rw [hexec, enableLink_unset ha hd]
    rfl
  case empty =>
    intro ha hd hl
    rw [hexec, enableLink_starts ha hd]
    refine congrArg Host.Outcome.next ?_
    simp only [hl, List.foldl_nil]
    refine State.modifyLink_congr (beginRound_empty ?_ _)
    exact hl
  case starts =>
    intro h more st ha hd hl hst hstate
    rw [hexec, enableLink_starts ha hd]
    obtain ⟨st', hst', hstate'⟩ := foldl_rejoin_find (s.pollList l) hst hstate
    refine congrArg Host.Outcome.next (State.modifyLink_congr ?_)
    exact beginRound_first (s := { s with stations := rejoined }) hl hst' hstate' rfl

end Sys2Proof.Machine
end


section
/-! The bits of a frame on the wire, FRAME_SENT and the start bits (O40), and the characters received (O41). -/

namespace Sys2Proof.Machine

/-! ## The bits of a frame (R69, R77) -/

/-- A list of characters, bit by bit. -/
theorem flatMap_characterBits_getElem? (frame : List Byte) (mark : Bool) (i j : Nat) (hj : j < 11) :
    (frame.flatMap (fun b => characterBits b mark))[11 * i + j]? =
      frame[i]?.bind (fun b => (characterBits b mark)[j]?) := by
  induction frame generalizing i with
  | nil => rfl
  | cons b more ih =>
    rw [List.flatMap_cons]
    cases i with
    | zero =>
      rw [List.getElem?_append_left (by rw [characterBits_length]; omega), Nat.mul_zero, Nat.zero_add]
      rfl
    | succ i =>
      rw [List.getElem?_append_right (by rw [characterBits_length]; omega), characterBits_length,
        show 11 * (i + 1) + j - 11 = 11 * i + j by omega, ih]
      rfl

theorem flatMap_characterBits_length (frame : List Byte) (mark : Bool) :
    (frame.flatMap (fun b => characterBits b mark)).length = 11 * frame.length := by
  induction frame with
  | nil => rfl
  | cons b more ih =>
    rw [List.flatMap_cons, List.length_append, ih, characterBits_length, List.length_cons]
    omega

theorem frameBits_length (frame : List Byte) : (frameBits frame).length = 11 * frame.length := by
  cases frame with
  | nil => rfl
  | cons a more =>
    show (characterBits a true ++ more.flatMap (fun b => characterBits b false)).length = _
    rw [List.length_append, flatMap_characterBits_length, characterBits_length, List.length_cons]
    omega

/-- R69: bit `j` of character `i`; the mark is 1 on the address character only. -/
theorem frameBits_getElem? {frame : List Byte} {i : Nat} {b : Byte} (hb : frame[i]? = some b) {j : Nat}
    (hj : j < 11) :
    (frameBits frame)[11 * i + j]? = (characterBits b (i == 0))[j]? := by
  cases frame with
  | nil => cases hb
  | cons a more =>
    show (characterBits a true ++ more.flatMap (fun b => characterBits b false))[11 * i + j]? = _
    cases i with
    | zero =>
      obtain rfl : a = b := Option.some.inj hb
      rw [List.getElem?_append_left (by rw [characterBits_length]; omega), Nat.mul_zero, Nat.zero_add]
      rfl
    | succ i =>
      rw [List.getElem?_append_right (by rw [characterBits_length]; omega), characterBits_length,
        show 11 * (i + 1) + j - 11 = 11 * i + j by omega, flatMap_characterBits_getElem? _ _ _ _ hj,
        show more[i]? = some b from hb]
      rfl

/-! ## FRAME_SENT and the start bits -/

section

variable {s : State} {l : LinkId}

theorem exec_frameSent (hs : s.resetN = true) (l : LinkId) : exec (.frameSent l) s = .next (frameSent l s) :=
  inService_of_resetN hs _

theorem exec_startBit (hs : s.resetN = true) (l : LinkId) (a b : Bool) :
    exec (.startBitDetected l a b) s = .next (startBit l a b s) := inService_of_resetN hs _

theorem exec_responseDeadline (hs : s.resetN = true) (l : LinkId) :
    exec (.responseDeadlineExpiry l) s = .next (responseExpiry l s) := inService_of_resetN hs _

theorem frameSent_sending {x : Exchange} (hx : (s.link l).activity = .sending x) : frameSent l s =
    s.modifyLink l (fun k => { k with activity := .awaiting x (x.responseTimeout.toNat * 2400) }) := by
  unfold frameSent
  rw [hx]
  rfl

theorem frameSent_other (hx : ∀ x, (s.link l).activity ≠ .sending x) : frameSent l s = s := by
  unfold frameSent
  cases ha : (s.link l).activity with
  | sending x => exact absurd ha (hx x)
  | _ => rfl

/-- R71: RXD is ignored within a character. -/
theorem startBit_inCharacter (hk : (s.link l).inCharacter = true) (a b : Bool) : startBit l a b s = s :=
    if_pos hk

/-- R71: RXD is ignored while TXEN is asserted, and by a DISABLED link. -/
theorem startBit_deaf (ha : (s.link l).activity = .disabled ∨ ∃ x, (s.link l).activity = .sending x)
    (a b : Bool) :
    startBit l a b s = s := by
  unfold startBit
  dsimp only
  split
  · rfl
  · rcases ha with ha | ⟨x, ha⟩ <;> rw [ha]

theorem startBit_awaiting {x : Exchange} {d : Nat} (hk : (s.link l).inCharacter = false)
    (ha : (s.link l).activity = .awaiting x d) (a b : Bool) : startBit l a b s =
      if a then s.modifyLink l (fun k => { k with activity := .receiving x Receiver.fresh, inCharacter := true })
      else if b then responseExpiry l s else s := by
  unfold startBit
  simp only [hk, ha, Bool.false_eq_true, if_false]

theorem startBit_receiving {x : Exchange} {rx : Receiver} (hk : (s.link l).inCharacter = false)
    (ha : (s.link l).activity = .receiving x rx) (a b : Bool) : startBit l a b s =
      if a then s.modifyLink l (fun k => { k with activity := .receiving x { rx with gap := none }, inCharacter := true })
      else s := by
  unfold startBit
  simp only [hk, ha, Bool.false_eq_true, if_false]

/-- R71: outside an exchange a character is seen and discarded. -/
theorem startBit_quiet (hk : (s.link l).inCharacter = false) (ha : (s.link l).activity = .idle ∨
    (s.link l).activity = .gap ∨ (s.link l).activity = .deciding ∨ ∃ d, (s.link l).activity = .quiet d)
    (a b : Bool) :
    startBit l a b s = if a then s.modifyLink l (fun k => { k with inCharacter := true }) else s := by
  unfold startBit
  rcases ha with ha | ha | ha | ⟨d, ha⟩ <;> simp only [hk, ha, Bool.false_eq_true, if_false]

end

/-- Settles O40: the bits of a frame, and the activity that a start bit finds. -/
theorem frameSentAndStartBits : Obligations.FrameSentAndStartBits := by
  refine ⟨fun k => ⟨fun x hx => ?sending, fun hx => ?silent⟩, fun s l hs => ?_⟩
  case sending =>
    have htxd : k.txd = frameBits x.frame := by
      unfold Link.txd
      rw [hx]
    refine ⟨?_, ?_, fun i b hb => ?_⟩
    · unfold Link.txen
      rw [hx]
    · rw [htxd, frameBits_length]
    · rw [htxd]
      refine ⟨frameBits_getElem? hb (Nat.zero_lt_succ 10), fun j hj => ?_, ?_, ?_⟩
      · rw [Nat.add_assoc, frameBits_getElem? hb (by omega)]
        exact characterBits_data _ _ ⟨j, hj⟩
      · rw [frameBits_getElem? hb (by omega)]
        rfl
      · rw [frameBits_getElem? hb (by omega)]
        rfl
  case silent =>
    unfold Link.txen Link.txd
    cases ha : k.activity with
    | sending x => exact absurd ha (hx x)
    | _ => exact ⟨rfl, rfl⟩
  rw [exec_frameSent hs, exec_responseDeadline hs]
  simp only [exec_startBit hs]
  refine ⟨fun x hx => ⟨?_, fun a b => ?_⟩, fun hx => ?_, fun hdeaf a b => ?_,
    fun hk => ⟨fun x d hx => ⟨fun b => ?_, ?_, ?_⟩, fun ha b => ⟨?_, ?_⟩, fun x rx hx b => ⟨?_, ?_⟩⟩⟩
  · rw [frameSent_sending hx]
  · rw [startBit_deaf (.inr ⟨x, hx⟩)]
  · rw [frameSent_other hx]
  · rcases hdeaf with hdeaf | hdeaf
    · rw [startBit_inCharacter hdeaf]
    · rw [startBit_deaf (.inl hdeaf)]
  · rw [startBit_awaiting hk hx]
    rfl
  · rw [startBit_awaiting hk hx]
    rfl
  · rw [startBit_awaiting hk hx]
    rfl
  · rw [startBit_quiet hk ha]
    rfl
  · rw [startBit_quiet hk ha]
    rfl
  · rw [startBit_receiving hk hx]
    rfl
  · rw [startBit_receiving hk hx]
    rfl

/-! ## The characters received (R80, R82) -/

section

variable {s : State} {l : LinkId} {x : Exchange} {rx : Receiver} {data : Byte} {mark stop : Bool}

theorem exec_character (hs : s.resetN = true) (l : LinkId) (data : Byte) (mark stop : Bool) :
    exec (.characterReceived l data mark stop) s = .next (characterReceived l data mark stop s) :=
  inService_of_resetN hs _

theorem characterReceived_reply (ha : (s.link l).activity = .receiving x rx ∨
    ∃ d, (s.link l).activity = .awaiting x d ∧ rx = Receiver.fresh) (data : Byte) (mark stop : Bool) :
    characterReceived l data mark stop s = receiveCharacter l x rx data mark stop s := by
  unfold characterReceived
  rcases ha with ha | ⟨d, ha, rfl⟩ <;> rw [ha]

theorem receiveCharacter_open (hopen : (rx.take x data mark stop).closure x.kind = none) :
    receiveCharacter l x rx data mark stop s = s.modifyLink l (fun k => { k with
      activity := .receiving x (rx.take x data mark stop)
      inCharacter := false }) := by
  unfold receiveCharacter
  dsimp only
  rw [hopen]

theorem closure_pending {k : ExchangeKind} (hf : rx.fault.isSome = true) (hcount : rx.count ≠ 64) :
    rx.closure k = none := by
  obtain ⟨f, hf⟩ := Option.isSome_iff_exists.mp hf
  unfold Receiver.closure
  rw [hf]
  exact if_neg hcount

theorem closure_short {k : ExchangeKind} (hf : rx.fault = none) (hcount : rx.expected ≠ some rx.count) :
    rx.closure k = none := by
  unfold Receiver.closure
  rw [hf]
  exact if_neg hcount

/-- R80: the stop bit and the mark bit come before the field check. -/
theorem characterCheck_eq (address : Byte) (bs : List Byte) (n : Nat) (data : Byte) (mark stop : Bool) :
    characterCheck address bs n data mark stop =
      if stop = false ∨ mark ≠ (n == 1) then some .frame else fieldCheck address bs n data := by
  unfold characterCheck
  by_cases hstop : stop = false
  · rw [if_pos hstop, if_pos (.inl hstop)]
  · rw [if_neg hstop]
    by_cases hmark : mark ≠ (n == 1)
    · rw [if_pos hmark, if_pos (.inr hmark)]
    · rw [if_neg hmark, if_neg (not_or.mpr ⟨hstop, hmark⟩)]

/-- R82: with a fault, pending or found, the character is only counted. -/
theorem take_fault (hf : rx.fault.isSome = true ∨
    (characterCheck x.address rx.bytes (rx.count + 1) data mark stop).isSome = true) :
    rx.take x data mark stop = { rx with
      count := rx.count + 1
      fault := if rx.fault.isSome = true then rx.fault
        else characterCheck x.address rx.bytes (rx.count + 1) data mark stop
      gap := some (4 * (176 * x.divisor.toNat)) } := by
  unfold Receiver.take
  cases hp : rx.fault with
  | some f => rfl
  | none =>
    obtain ⟨f, hc⟩ := Option.isSome_iff_exists.mp (hf.resolve_left (by rw [hp]; exact Bool.false_ne_true))
    simp only [hc]
    rfl

/-- R80: a character without fault is kept. -/
theorem take_kept (hf : rx.fault = none)
    (hc : characterCheck x.address rx.bytes (rx.count + 1) data mark stop = none) :
    rx.take x data mark stop = {
      count := rx.count + 1
      expected := if rx.count + 1 = 2 then some (data.toNat + 4) else rx.expected
      bytes := rx.bytes ++ [data]
      crc := if inCrc rx.expected (rx.count + 1) then crcByte rx.crc data else rx.crc
      fault := none
      gap := some (4 * (176 * x.divisor.toNat)) } := by
  unfold Receiver.take
  simp only [hf, hc]
  rfl

end

/-- Settles O41. -/
theorem charactersAreCheckedAndCounted : Obligations.CharactersAreCheckedAndCounted := by
  refine ⟨?reply, ?other⟩
  case reply =>
    intro s l x rx data mark stop hs ha n found next
    have hnext : rx.take x data mark stop = next := by
      have hfound : characterCheck x.address rx.bytes (rx.count + 1) data mark stop = found :=
        characterCheck_eq ..
      by_cases hf : rx.fault.isSome = true ∨ found.isSome = true
      · rw [take_fault (by rw [hfound]; exact hf), hfound]
        exact (if_pos hf).symm
      · rw [not_or, Bool.not_eq_true, Bool.not_eq_true, Option.isSome_eq_false_iff, Option.isNone_iff_eq_none,
          Option.isSome_eq_false_iff, Option.isNone_iff_eq_none] at hf
        obtain ⟨hfault, hnone⟩ := hf
        have hcrc : (if inCrc rx.expected (rx.count + 1) then crcByte rx.crc data else rx.crc) =
            match rx.expected with
            | none => crcByte rx.crc data
            | some m => if n + 2 ≤ m then crcByte rx.crc data else rx.crc := by
          cases rx.expected with
          | none => rfl
          | some m => exact if_congr decide_eq_true_iff rfl rfl
        rw [take_kept hfault (hfound.trans hnone), hcrc]
        refine (if_neg ?_).symm
        rw [hfault, hnone]
        exact not_or.mpr ⟨Bool.false_ne_true, Bool.false_ne_true⟩
    have hopen (hclosure : next.closure x.kind = none) : exec (.characterReceived l data mark stop) s =
        .next (s.modifyLink l (fun k => { k with activity := .receiving x next, inCharacter := false })) := by
      rw [exec_character hs, characterReceived_reply ha,
        receiveCharacter_open (by rw [hnext]; exact hclosure), hnext]
    have hcount : next.count = n := by
      simp only [next]
      split <;> rfl
    exact ⟨fun hf h64 => hopen (closure_pending hf (by rw [hcount]; exact h64)),
      fun hf hlen => hopen (closure_short hf (by rw [hcount]; exact hlen))⟩
  case other =>
    intro s l data mark stop hs
    rw [exec_character hs]
    unfold characterReceived
    refine ⟨fun ha => ?_, fun ha => ?_⟩
    · rcases ha with ha | ha | ha | ⟨d, ha⟩ <;> rw [ha]
    · rcases ha with ha | ⟨x, ha⟩ <;> rw [ha]

end Sys2Proof.Machine
end


section
/-! The checks of a received frame by position and at its end, and what an answer delivers (O42). -/

namespace Sys2Proof.Machine

/-! ## Bytes by position (Table 4-5) -/

section

variable {bs : List Byte}

theorem byteAt_of {n : Nat} {b : Byte} (hb : bs[n]? = some b) : byteAt bs (n + 1) = b := by
  unfold byteAt
  rw [List.getD_eq_getElem?_getD, Nat.add_sub_cancel, hb]
  rfl

theorem byteAt_drop (bs : List Byte) (m n : Nat) : byteAt (bs.drop m) (n + 1) = byteAt bs (m + n + 1) := by
  unfold byteAt
  rw [List.getD_eq_getElem?_getD, List.getD_eq_getElem?_getD, List.getElem?_drop]
  rfl

theorem byteAt_drop_of {m n j : Nat} {b : Byte} (hb : bs[j]? = some b) (hj : j + 1 = m + n) (hn : 1 ≤ n) :
    byteAt (bs.drop m) n = b := by
  obtain ⟨n, rfl⟩ := Nat.exists_eq_add_of_le' hn
  rw [byteAt_drop, show m + n = j by omega]
  exact byteAt_of hb

theorem getElem?_body {body tail : List Byte} {n : Nat} {b : Byte} (hb : body[n]? = some b) :
    (body ++ tail)[n]? = some b := by
  obtain ⟨hn, -⟩ := List.getElem?_eq_some_iff.mp hb
  rw [List.getElem?_append_left hn, hb]

end

/-! ## The checks by position (R80, R81, Tables 4-4 and 4-5) -/

section

variable {address data kind : Byte} {bs : List Byte} {n : Nat}

theorem none_iff_of_if {p : Prop} [Decidable p] {x : Option RxFault} {f : RxFault}
    (hx : x = if p then none else some f) : x = none ↔ p := by
  rw [hx]
  by_cases hp : p
  · rw [if_pos hp]
    exact iff_of_true rfl hp
  · rw [if_neg hp]
    exact iff_of_false nofun hp

theorem fieldCheck_address : fieldCheck address bs 1 data = if data = address then none else some .address :=
    rfl

theorem fieldCheck_length :
    fieldCheck address bs 2 data = if 1 ≤ data.toNat ∧ data.toNat ≤ 60 then none else some .length := rfl

theorem fieldCheck_kind : fieldCheck address bs 3 data =
    if lengthFitsKind data (byteAt bs 2).toNat then none else some .length := rfl

/-- Table 4-4: which length each kind has. -/
theorem lengthFitsKind_iff (kind : Byte) (len : Nat) :
    (kind = 0x10 ∨ kind = 0x11 → (lengthFitsKind kind len = true ↔ len = 1)) ∧
    (kind = 0x12 → (lengthFitsKind kind len = true ↔ len = 7)) ∧
    (kind = 0x20 → (lengthFitsKind kind len = true ↔ 4 ≤ len ∧ len ≤ 60)) ∧
    (kind = 0x21 → (lengthFitsKind kind len = true ↔ len = 5)) ∧
    (kind = 0x22 → (lengthFitsKind kind len = true ↔ len = 3)) ∧
    (kind ∉ [0x10#8, 0x11#8, 0x12#8, 0x20#8, 0x21#8, 0x22#8] → lengthFitsKind kind len = true) := by
  refine ⟨fun hk => ?_, fun hk => ?_, fun hk => ?_, fun hk => ?_, fun hk => ?_, fun hk => ?_⟩
  · have hone : lengthFitsKind kind len = (len == 1) := if_pos hk
    rw [hone, beq_iff_eq]
  · subst hk
    exact beq_iff_eq
  · subst hk
    exact decide_eq_true_iff
  · subst hk
    exact beq_iff_eq
  · subst hk
    exact beq_iff_eq
  · simp only [List.mem_cons, List.not_mem_nil, or_false, not_or] at hk
    obtain ⟨h10, h11, h12, h20, h21, h22⟩ := hk
    exact (if_neg (not_or.mpr ⟨h10, h11⟩)).trans ((if_neg h12).trans ((if_neg h20).trans ((if_neg h21).trans
      (if_neg h22))))

/-- The checks after the kind: the counts of a REPORT and the capacity of an IDENT. -/
theorem fieldCheck_payload (hn : 4 ≤ n) (address data : Byte) (bs : List Byte) : fieldCheck address bs n data =
    if byteAt bs 3 = 0x20 ∧ n = 5 then
      if data.toNat ≤ 8 ∧ 4 + 6 * data.toNat ≤ (byteAt bs 2).toNat then none else some .length
    else if byteAt bs 3 = 0x20 ∧ n = 6 + 6 * (byteAt bs 5).toNat then
      if data.toNat ≤ 4 ∧ (byteAt bs 2).toNat = 4 + 6 * (byteAt bs 5).toNat + 2 * data.toNat then none
      else some .length
    else if byteAt bs 3 = 0x21 ∧ n = 6 then if data.toNat ≤ 4 then none else some .length
    else none := by
  have h1 : n ≠ 1 := by omega
  have h2 : n ≠ 2 := by omega
  have h3 : n ≠ 3 := by omega
  unfold fieldCheck
  dsimp only
  rw [if_neg h1, if_neg h2, if_neg h3]
  rfl

/-- Every check but that of the address finds LENGTH_ERROR. -/
theorem fieldCheck_fault (hn : n ≠ 1) {f : RxFault} (hf : fieldCheck address bs n data = some f) :
    f = .length := by
  unfold fieldCheck at hf
  dsimp only at hf
  rw [if_neg hn] at hf
  repeat' split at hf
  all_goals cases hf
  all_goals rfl

end

/-! ## What an answer delivers (R75, R86) -/

section

theorem entriesOf_length (n : Nat) (bs : List Byte) : (entriesOf n bs).length = n := by
  induction n generalizing bs with
  | zero => rfl
  | succ n ih => exact congrArg (· + 1) (ih _)

theorem completionsOf_length (n : Nat) (bs : List Byte) : (completionsOf n bs).length = n := by
  induction n generalizing bs with
  | zero => rfl
  | succ n ih => exact congrArg (· + 1) (ih _)

/-- R75: entry `i` from its six bytes. -/
theorem entriesOf_getElem? {n i : Nat} (hi : i < n) (bs : List Byte) : (entriesOf n bs)[i]? = some
    { number := byteAt bs (6 * i + 1)
      fault := byteAt bs (6 * i + 2) != 0
      value := valueOf (byteAt bs (6 * i + 3)) (byteAt bs (6 * i + 4)) (byteAt bs (6 * i + 5))
        (byteAt bs (6 * i + 6)) } := by
  induction n generalizing i bs with
  | zero => exact absurd hi (Nat.not_lt_zero i)
  | succ n ih =>
    cases i with
    | zero => rfl
    | succ i =>
      have hshift (k : Nat) : byteAt (bs.drop 6) (6 * i + k + 1) = byteAt bs (6 * (i + 1) + k + 1) := by
        rw [byteAt_drop, show 6 + (6 * i + k) = 6 * (i + 1) + k by omega]
      refine (ih (Nat.lt_of_succ_lt_succ hi) (bs.drop 6)).trans ?_
      rw [hshift 0, hshift 1, hshift 2, hshift 3, hshift 4, hshift 5]

/-- R75: completion `j` from its two bytes. -/
theorem completionsOf_getElem? {n j : Nat} (hj : j < n) (bs : List Byte) : (completionsOf n bs)[j]? = some
    { tag := byteAt bs (2 * j + 1), result := byteAt bs (2 * j + 2) } := by
  induction n generalizing j bs with
  | zero => exact absurd hj (Nat.not_lt_zero j)
  | succ n ih =>
    cases j with
    | zero => rfl
    | succ j =>
      have hshift (k : Nat) : byteAt (bs.drop 2) (2 * j + k + 1) = byteAt bs (2 * (j + 1) + k + 1) := by
        rw [byteAt_drop, show 2 + (2 * j + k) = 2 * (j + 1) + k by omega]
      refine (ih (Nat.lt_of_succ_lt_succ hj) (bs.drop 2)).trans ?_
      rw [hshift 0, hshift 1]

end

/-! ## The closing checks (R83) -/

/-- R73: the check value of the CRC. -/
theorem crc_checkValue : crc [0x31, 0x32, 0x33, 0x34, 0x35, 0x36, 0x37, 0x38, 0x39] = 0x29B1 := by
  decide +kernel

section

variable {k : ExchangeKind} {rx : Receiver} {body : List Byte} {high low : Byte}

/-- R82: a frame at its expected length, its checks said of the frame's bytes. -/
theorem closure_full (hf : rx.fault = none) (hbytes : rx.bytes = body ++ [high, low])
    (hcount : rx.count = body.length + 2) (hlen : rx.expected = some rx.count) :
    rx.closure k = some (if high ++ low ≠ rx.crc then .damaged .crc
      else if byteAt rx.bytes 3 ≠ k.expects then .damaged .kind
      else if tagAgrees k rx.bytes = false then .damaged .kind
      else .answered (replyOf k rx.bytes)) := by
  have hhigh : byteAt rx.bytes (body.length + 1) = high := byteAt_of (by rw [hbytes]; simp)
  have hlow : byteAt rx.bytes (body.length + 2) = low := byteAt_of (by rw [hbytes]; simp)
  unfold Receiver.closure
  rw [hf]
  dsimp only
  rw [if_pos hlen]
  unfold closingChecks
  rw [show rx.count - 1 = body.length + 1 by omega, hcount, hhigh, hlow]

end

/-- Settles O42. -/
theorem frameChecksByPositionAndAtTheEnd : Obligations.FrameChecksByPositionAndAtTheEnd := by
  refine ⟨fun address data bs => ⟨fieldCheck_address, fieldCheck_length, fun a len hbs => ?kind,
    fun a len kind more n hbs hn => ?payload⟩, crc_checkValue, fun k rx f hf => ?_,
      fun k rx hf hlen => closure_short hf hlen,
    ?full⟩
  case kind =>
    have hiff : fieldCheck address bs 3 data = none ↔ lengthFitsKind data len.toNat = true := by
      subst hbs
      exact none_iff_of_if fieldCheck_kind
    obtain ⟨h1, h7, hreport, hident, hack, hother⟩ := lengthFitsKind_iff data len.toNat
    exact ⟨fun hk => hiff.trans (h1 hk), fun hk => hiff.trans (h7 hk), fun hk => hiff.trans (hreport hk),
      fun hk => hiff.trans (hident hk), fun hk => hiff.trans (hack hk), fun hk => hiff.mpr (hother hk),
      fun f hf => fieldCheck_fault (by decide) hf⟩
  case payload =>
    have hlen : byteAt bs 2 = len := byteAt_of (by rw [hbs]; rfl)
    have hkind : byteAt bs 3 = kind := byteAt_of (by rw [hbs]; rfl)
    have he (e : Byte) (hmore : more[1]? = some e) : byteAt bs 5 = e := byteAt_of (by rw [hbs]; exact hmore)
    have hcheck := fieldCheck_payload hn address data bs
    rw [hlen, hkind] at hcheck
    refine ⟨fun hk h5 => ?_, fun e hk hmore h6 => ?_, fun hk h4 => ?_, fun e hk hmore h6 hne => ?_,
      fun hk h6 => ?_,
      fun hk h6 => ?_, fun hk hk' => ?_, fun f hf => fieldCheck_fault (by omega) hf⟩
    · rw [if_pos ⟨hk, h5⟩] at hcheck
      exact none_iff_of_if hcheck
    · rw [he e hmore, if_neg (by omega), if_pos ⟨hk, h6⟩] at hcheck
      exact none_iff_of_if hcheck
    · rw [hcheck, if_neg (by omega), if_neg (by omega), if_neg (by omega)]
    · rw [hcheck, he e hmore, if_neg (by omega), if_neg (by omega), if_neg (by simp [hk])]
    · rw [hcheck, if_neg (by simp [hk]), if_neg (by simp [hk]), if_neg (by omega)]
    · rw [if_neg (by simp [hk]), if_neg (by simp [hk]), if_pos ⟨hk, h6⟩] at hcheck
      exact none_iff_of_if hcheck
    · rw [hcheck, if_neg (fun h => hk h.1), if_neg (fun h => hk h.1), if_neg (fun h => hk' h.1)]
  · unfold Receiver.closure
    rw [hf]
    rfl
  case full =>
    intro k rx body high low kind hf hbytes hcount hlen hbody expected
    have hclosure := closure_full (k := k) hf hbytes hcount hlen
    have hat {n : Nat} {b : Byte} (hb : body[n]? = some b) : byteAt rx.bytes (n + 1) = b :=
      byteAt_of (by rw [hbytes]; exact getElem?_body hb)
    have hexpects : k.expects = expected := by cases k <;> rfl
    rw [hat hbody, hexpects] at hclosure
    refine ⟨fun hcrc => ?_, fun hcrc hkind => ?_, fun h g hk hcrc hkind tag code htag hcode => ⟨fun hne => ?_,
      fun hg => ?_⟩, fun a b cap hk hcrc hkind ha hb hcap => ?_,
      fun flags e c hk hcrc hkind hflags he hc hsize => ?report⟩
    · rw [hclosure, if_pos hcrc]
    · rw [hclosure, if_neg (not_not.mpr hcrc), if_pos hkind]
    · have htags : tagAgrees k rx.bytes = false := by
        rw [hk]
        exact (congrArg (fun b : Byte => b.toNat == g) (hat htag)).trans (beq_eq_false_iff_ne.mpr hne)
      rw [hclosure, if_neg (not_not.mpr hcrc), htags, if_pos rfl, ite_self]
    · have htags : tagAgrees k rx.bytes = true := by
        rw [hk]
        exact (congrArg (fun b : Byte => b.toNat == g) (hat htag)).trans (beq_iff_eq.mpr hg)
      rw [hclosure, if_neg (not_not.mpr hcrc), if_neg (by rw [hkind, ← hexpects, hk]; exact fun h => h rfl),
        htags,
        if_neg Bool.true_eq_false.mp, hk]
      exact congrArg (fun b => some (ExchangeOutcome.answered (.ack b))) (hat hcode)
    · rw [hclosure, if_neg (not_not.mpr hcrc), if_neg (by rw [hkind, ← hexpects, hk]; exact fun h => h rfl), hk,
        if_neg (by exact nofun)]
      show some (ExchangeOutcome.answered (.ident (byteAt rx.bytes 4 ++ byteAt rx.bytes 5) (byteAt rx.bytes 6).toNat)) = _
      rw [hat ha, hat hb, hat hcap]
    case report =>
      have hreport : rx.closure k = some (.answered (reportOf rx.bytes)) := by
        rw [hclosure, if_neg (not_not.mpr hcrc), if_neg (by rw [hkind, ← hexpects, hk]; exact fun h => h rfl),
          hk,
          if_neg (by exact nofun)]
        rfl
      have hcc : byteAt rx.bytes (6 + 6 * e.toNat) = c := by
        rw [show 6 + 6 * e.toNat = 5 + 6 * e.toNat + 1 by omega]
        exact hat hc
      have hof : reportOf rx.bytes = .report (flags.getLsbD 0) (entriesOf e.toNat (rx.bytes.drop 5))
          (completionsOf c.toNat (rx.bytes.drop (6 + 6 * e.toNat))) := by
        unfold reportOf
        dsimp only
        rw [hat hflags, hat he, hcc]
      have hin {m n j : Nat} {b : Byte} (hb : body[j]? = some b) (hj : j + 1 = m + n) (hn : 1 ≤ n) :
          byteAt (rx.bytes.drop m) n = b := byteAt_drop_of (by rw [hbytes]; exact getElem?_body hb) hj hn
      refine ⟨_, _, hreport.trans (congrArg (fun x => some (ExchangeOutcome.answered x)) hof),
        entriesOf_length _ _,
        completionsOf_length _ _, fun i number status v3 v2 v1 v0 hi h0 h1 h2 h3 h4 h5 => ?_,
        fun j tag result hj h0 h1 => ?_⟩
      · rw [entriesOf_getElem? hi, hin h0 (by omega) (by omega), hin h1 (by omega) (by omega),
          hin h2 (by omega) (by omega), hin h3 (by omega) (by omega), hin h4 (by omega) (by omega),
          hin h5 (by omega) (by omega)]
        rfl
      · rw [completionsOf_getElem? hj, hin h0 (by omega) (by omega), hin h1 (by omega) (by omega)]

end Sys2Proof.Machine
end


section
/-! A station's silence reaches the points of its chain (O45). -/

namespace Sys2Proof.Machine

/-! ## One point (R37, R40, R45) -/

section

variable {s t u : State} {cause : StaleCause} {h : Nat} {p : Point} {chain : List Nat}

/-- What a silence makes of a point record. -/
def Point.aged (cause : StaleCause) (p : Point) : Point := if p.liveEligible then p.age cause else p

theorem Point.aged_live (hstate : p.state = .live) : p.aged cause = p.age cause :=
  if_pos ((Point.liveEligible_iff p).mpr (.inl hstate))

theorem Point.aged_forced {f : ForcedPart} (hstate : p.state = .forced) (hf : p.forced = some f) :
    p.aged cause = if f.under.state = .live then { p with
      forced := some { f with under := { f.under with state := .stale, stale := some cause } }
      run := 0
      deadline := none } else p := by
  have hiff : p.liveEligible = true ↔ f.under.state = .live := by
    rw [Point.liveEligible_iff, hstate, Point.reported_of_forced hf]
    simp
  unfold Point.aged
  rw [if_congr hiff rfl rfl, Point.age_forced cause hf]

theorem Point.aged_other (hstate : p.state = .awaiting ∨ p.state = .stale ∨ p.state = .retiring) :
    p.aged cause = p := by
  refine if_neg (fun heligible => ?_)
  rw [Point.liveEligible_iff] at heligible
  rcases hstate with hstate | hstate | hstate <;> rw [hstate] at heligible <;> simp at heligible

theorem Point.age_bindings (p : Point) (cause : StaleCause) : (p.age cause).bindings = p.bindings := by
  cases hf : p.forced with
  | none => rw [Point.age_unforced cause hf]
  | some f => rw [Point.age_forced cause hf]

/-- The state `t` after the points `chain` of `s` have aged. -/
structure AgedTo (s t : State) (cause : StaleCause) (chain : List Nat) : Prop where
  points : ∀ k, t.points.find k =
    if k ∈ chain then (s.points.find k).map (Point.aged cause) else s.points.find k
  queue : t.mirrorQueue = askedFor s.mirrorQueue (s.agedBindings chain)
  same : t = { s with points := t.points, mirrorQueue := t.mirrorQueue }

theorem AgedTo.nil (s : State) (cause : StaleCause) : AgedTo s s cause [] where
  points := fun k => by rw [if_neg List.not_mem_nil]
  queue := rfl
  same := rfl

theorem agedBindings_none (hp : s.points.find h = none) : s.agedBindings [h] = [] := by
  simp only [State.agedBindings, List.flatMap_cons, List.flatMap_nil, hp, List.append_nil]

theorem agedBindings_of_find (hp : s.points.find h = some p) :
    s.agedBindings [h] = if p.state = .live then s.activeBindings p else [] := by
  simp only [State.agedBindings, List.flatMap_cons, List.flatMap_nil, hp, List.append_nil]

/-- A point whose record is `q` after its ageing. -/
theorem AgedTo.one (hp : s.points.find h = some p) {q : Point} (hq : p.aged cause = q)
    (hfind : ∀ k, t.points.find k = if k = h then some q else s.points.find k)
    (hqueue : t.mirrorQueue = askedFor s.mirrorQueue (s.agedBindings [h]))
    (hsame : t = { s with points := t.points, mirrorQueue := t.mirrorQueue }) : AgedTo s t cause [h] where
  points := fun k => by
    rw [hfind k, if_congr List.mem_singleton rfl rfl]
    by_cases hk : k = h
    · rw [if_pos hk, if_pos hk, hk, hp, Option.map_some, hq]
    · rw [if_neg hk, if_neg hk]
  queue := hqueue
  same := hsame

theorem agePoint_aged (cause : StaleCause) (s : State) (h : Nat) : AgedTo s (agePoint cause s h) cause [h] := by
  cases hp : s.points.find h with
  | none =>
    have heq : agePoint cause s h = s := by simp only [agePoint, hp]
    rw [heq]
    refine ⟨fun k => ?_, ?_, rfl⟩
    · rw [if_congr List.mem_singleton rfl rfl]
      by_cases hk : k = h
      · rw [if_pos hk, hk, hp, Option.map_none]
      · rw [if_neg hk]
    · rw [agedBindings_none hp]
      rfl
  | some p =>
    by_cases hlive : p.state = .live
    · have hfind : ({ s with points := s.points.put h (p.age cause) } : State).points.find h = some (p.age cause) :=
        Table.find_put_same _ _ _
      rw [agePoint_live cause hp hlive, pointEvent_quality hfind]
      refine .one hp (Point.aged_live hlive) (fun k => ?_) ?_ rfl
      · exact Table.find_put _ _ _ _
      · rw [agedBindings_of_find hp, if_pos hlive]
        show askedFor _ ((p.age cause).bindings.filter _) = _
        rw [Point.age_bindings]
        rfl
    · have hqueue : s.mirrorQueue = askedFor s.mirrorQueue (s.agedBindings [h]) := by
        rw [agedBindings_of_find hp, if_neg hlive]
        rfl
      by_cases heligible : p.liveEligible = true
      · have heq : agePoint cause s h = { s with points := s.points.put h (p.age cause) } := by
          simp only [agePoint, hp, heligible, hlive, if_true, if_false]
        rw [heq]
        exact .one hp (if_pos heligible) (fun k => Table.find_put _ _ _ _) hqueue rfl
      · have heq : agePoint cause s h = s := by
          simp only [agePoint, hp, heligible, if_false, Bool.false_eq_true]
        rw [heq]
        refine .one hp (if_neg heligible) (fun k => ?_) hqueue rfl
        by_cases hk : k = h
        · rw [if_pos hk, hk, hp]
        · rw [if_neg hk]

/-! ## The chain -/

/-- The bindings asked for are read off the points of the chain. -/
theorem agedBindings_congr (hpoints : ∀ k ∈ chain, u.points.find k = s.points.find k)
    (hbindings : u.bindings = s.bindings) : u.agedBindings chain = s.agedBindings chain := by
  have hactive : ∀ p, u.activeBindings p = s.activeBindings p := fun p => by
    unfold State.activeBindings State.isActive
    rw [hbindings]
  unfold State.agedBindings
  refine List.flatMap_congr (fun k hk => ?_)
  rw [hpoints k hk]
  simp only [hactive]

theorem AgedTo.cons (hh : h ∉ chain) (hone : AgedTo s u cause [h]) (hrest : AgedTo u t cause chain) :
    AgedTo s t cause (h :: chain) := by
  have hsame := hone.same
  have hbindings : u.bindings = s.bindings := by rw [hsame]
  have hkept : ∀ k ∈ chain, u.points.find k = s.points.find k := fun k hk => by
    have hne : k ∉ [h] := fun hm => hh (List.mem_singleton.mp hm ▸ hk)
    rw [hone.points k, if_neg hne]
  refine ⟨fun k => ?_, ?_, ?_⟩
  · rw [hrest.points k]
    by_cases hk : k ∈ chain
    · rw [if_pos hk, if_pos (List.mem_cons_of_mem _ hk), hkept k hk]
    · rw [if_neg hk, hone.points k]
      exact if_congr (by rw [List.mem_singleton, List.mem_cons, or_iff_left hk]) rfl rfl
  · rw [hrest.queue, hone.queue, agedBindings_congr hkept hbindings, State.agedBindings_cons s h chain,
      askedFor_append]
  · rw [hrest.same, hsame]

theorem agedTo_foldl (hchain : chain.Nodup) :
    ∀ s : State, AgedTo s (chain.foldl (agePoint cause) s) cause chain := by
  induction chain with
  | nil => exact fun s => .nil s cause
  | cons h more ih =>
    obtain ⟨hh, hmore⟩ := List.nodup_cons.mp hchain
    exact fun s => .cons hh (agePoint_aged cause s h) (ih hmore _)

/-- R40: the points of a station's chain age. -/
theorem agePoints_aged {sid : Nat} {st : Station} (hst : s.stations.find sid = some st)
    (hchain : st.chain.Nodup)
    (cause : StaleCause) : AgedTo s (agePoints sid cause s) cause st.chain := by
  have heq : agePoints sid cause s = st.chain.foldl (agePoint cause) s := by simp only [agePoints, hst]
  rw [heq]
  exact agedTo_foldl hchain s

theorem AgedTo.point (ha : AgedTo s t cause chain) (hh : h ∈ chain) (hp : s.points.find h = some p) :
    t.points.find h = some (p.aged cause) := by
  rw [ha.points h, if_pos hh, hp, Option.map_some]

end

/-- Settles O45. -/
theorem silenceReachesThePoints : Obligations.SilenceReachesThePoints := by
  intro s sid st cause hst hchain t
  have haged : AgedTo s t cause st.chain := agePoints_aged hst hchain cause
  refine ⟨fun h hh => ?_, fun h p hh hp => ⟨fun hlive hf => ?_, fun f hstate hf => ?_, fun hstate => ?_⟩,
    haged.queue, haged.same⟩
  · rw [haged.points h, if_neg hh]
  · rw [haged.point hh hp, Point.aged_live hlive, Point.age_unforced cause hf]
  · rw [haged.point hh hp, Point.aged_forced hstate hf]
  · rw [haged.point hh hp, Point.aged_other hstate]

end Sys2Proof.Machine
end


section
/-! What the end of an exchange does at its station: an answer (O43), and a miss (O44). -/

namespace Sys2Proof.Machine

section

variable {s u : State} {l : LinkId} {x : Exchange} {i : Instr} {o : ExchangeOutcome} {st : Station} {sid : Nat}

/-! ## The exchange as it ends -/

theorem ExchangeEnds.keeps (h : ExchangeEnds s l x i o u) : u.stations = s.stations ∧
    u.tagSets = s.tagSets := by
  cases h <;> exact ⟨rfl, rfl⟩

/-- R84, R95: the outcome of the exchange at its station, and QUIET. -/
theorem ExchangeEnds.exec_quieted (h : ExchangeEnds s l x i o u) (hs : s.resetN = true) :
    Machine.exec i s = .next ((stationOutcome l x o (receiveFlag l o u)).quieted l x) := by
  rw [h.exec hs, endExchange_quieted]

/-- R84. -/
theorem receiveFlag_keeps (l : LinkId) (o : ExchangeOutcome) (s : State) :
    (receiveFlag l o s).stations = s.stations ∧ (receiveFlag l o s).tagSets = s.tagSets := by
  cases o <;> exact ⟨rfl, rfl⟩

/-- R8: the outcome is ignored at a LEAVING station. -/
theorem stationOutcome_leaving (hst : s.stations.find x.station = some st) (hstate : st.state = .leaving) :
    stationOutcome l x o s = freeStation x.station s := by
  simp only [stationOutcome, hst, hstate, if_true]

theorem stationOutcome_applied (hst : s.stations.find x.station = some st) (hstate : st.state ≠ .leaving) :
    stationOutcome l x o s = applyOutcome x.station l x.missLimit.toNat o (slotOutcome x.kind o s) := by
  simp only [stationOutcome, hst, hstate, if_false]

/-! ## The update of a station's record -/

theorem modifyStation_put (f : Station → Station) (hst : s.stations.find sid = some st) :
    s.modifyStation sid f = { s with stations := s.stations.put sid (f st) } := by
  unfold State.modifyStation
  rw [Table.modify_some _ _ hst]

/-- An update of a station depends only on what it makes of that station. -/
theorem modifyStation_congr {f g : Station → Station} (hst : s.stations.find sid = some st)
    (hfg : f st = g st) :
    s.modifyStation sid f = s.modifyStation sid g := by
  rw [modifyStation_put f hst, modifyStation_put g hst, hfg]

theorem modifyStation_modifyStation (f g : Station → Station) (s : State) (sid : Nat) :
    (s.modifyStation sid f).modifyStation sid g = s.modifyStation sid (fun st => g (f st)) := by
  unfold State.modifyStation
  dsimp only
  rw [Table.modify_modify]

/-- The exchange ends while its station is LEAVING. -/
theorem ExchangeEnds.exec_leaving (h : ExchangeEnds s l x i o u) (hs : s.resetN = true)
    (hst : s.stations.find x.station = some st) (hstate : st.state = .leaving) :
    Machine.exec i s = .next (({ receiveFlag l o u with
      stations := s.stations.drop x.station
      tagSets := s.tagSets.drop x.station } : State).quieted l x) := by
  obtain ⟨hstations, htags⟩ := h.keeps
  obtain ⟨hstations', htags'⟩ := receiveFlag_keeps l o u
  rw [h.exec_quieted hs, stationOutcome_leaving (by rw [hstations', hstations]; exact hst) hstate,
    ← hstations, ← htags, ← hstations', ← htags']
  rfl

/-- The exchange ends at a station that stays. -/
theorem ExchangeEnds.exec_applied (h : ExchangeEnds s l x i o u) (hs : s.resetN = true)
    (hst : s.stations.find x.station = some st) (hstate : st.state ≠ .leaving) :
    Machine.exec i s = .next ((applyOutcome x.station l x.missLimit.toNat o
      (slotOutcome x.kind o (receiveFlag l o u))).quieted l x) := by
  obtain ⟨hstations, -⟩ := h.keeps
  obtain ⟨hstations', -⟩ := receiveFlag_keeps l o u
  rw [h.exec_quieted hs, stationOutcome_applied (by rw [hstations', hstations]; exact hst) hstate]

end

/-- Settles O43, by the reply. -/
theorem answeredExchangeActsAtTheStation : Obligations.AnsweredExchangeActsAtTheStation := by
  intro s u l x i reply st hs hends hst
  obtain ⟨hstations, -⟩ := hends.keeps
  have hu : u.stations.find x.station = some st := by rw [hstations]; exact hst
  refine ⟨fun hstate => hends.exec_leaving hs hst hstate, fun type cap hstate hk hreply => ?_,
    fun es cs hstate hk hreply => ?_, fun es cs hstate hk hreply => ?_, fun h g code hstate hk hreply => ?_⟩
  all_goals
    rw [hends.exec_applied hs hst hstate, hk]
    subst hreply
    refine congrArg (fun w : State => Host.Outcome.next (w.quieted l x)) ?_
  · show setLinkFlag l .stationPresent (u.modifyStation x.station _) = _
    rw [modifyStation_put _ hu, hstations]
    rfl
  · show takeCompletions x.station l cs (takeEntries x.station es (u.modifyStation x.station _)) = _
    rw [modifyStation_put _ hu, hstations]
  · show endStationCommands x.station .stationRestarted (u.modifyStation x.station _) = _
    rw [modifyStation_put _ hu, hstations]
    rfl
  · rfl

/-! ## A miss (R99, R100) -/

section

variable {s : State} {l : LinkId} {st : Station} {sid limit : Nat}

theorem countMiss_stays (hst : s.stations.find sid = some st)
    (hstays : missAfter st.miss limit ≠ limit ∨ (st.state ≠ .joining ∧ st.state ≠ .present)) :
    countMiss sid l limit s = s.modifyStation sid (fun q => { q with miss := missAfter st.miss limit }) := by
  unfold countMiss
  simp only [hst]
  rw [if_neg]
  · exact modifyStation_congr hst rfl
  · rintro ⟨hmiss, hstate⟩
    rcases hstays with hstays | ⟨hjoining, hpresent⟩
    · exact hstays hmiss
    · exact hstate.elim hjoining hpresent

theorem countMiss_departs (hst : s.stations.find sid = some st) (hmiss : missAfter st.miss limit = limit)
    (hstate : st.state = .joining ∨ st.state = .present) : countMiss sid l limit s =
      agePoints sid .silent (endStationCommands sid .stationLost (setLinkFlag l .stationSilent
        (s.modifyStation sid (fun q => { q with
          miss := missAfter st.miss limit
          state := .silent
          capacity := 0
          staleCause := some .silent })))) := by
  unfold countMiss
  simp only [hst]
  rw [if_pos ⟨hmiss, hstate⟩]
  unfold silenceDeparture
  dsimp only
  rw [modifyStation_modifyStation, modifyStation_congr hst]
  rfl

end

/-- R84: the flag of a damage. -/
theorem receiveFlag_eq {o : ExchangeOutcome} {flag : BitVec 11} (hflag : (o = .silent ∧ flag = 0x020#11) ∨
    (∃ f, o = .damaged f ∧ flag = BitVec.twoPow 11 f.flag.bit)) (l : LinkId) (s : State) :
    receiveFlag l o s = s.modifyLink l (fun k => { k with status := k.status ||| flag }) := by
  rcases hflag with ⟨rfl, rfl⟩ | ⟨f, rfl, rfl⟩ <;> rfl

theorem applyOutcome_miss {o : ExchangeOutcome} (ho : o = .silent ∨ ∃ f, o = .damaged f) (sid : Nat)
    (l : LinkId)
    (limit : Nat) (s : State) : applyOutcome sid l limit o s = countMiss sid l limit s := by
  rcases ho with rfl | ⟨f, rfl⟩ <;> rfl

/-- Settles O44. -/
theorem missesAreCountedToTheLimit : Obligations.MissesAreCountedToTheLimit := by
  intro s u l x i o flag st hs hends hst ho limit miss heard told
  have hflag : (o = .silent ∧ flag = 0x020#11) ∨
      (∃ f, o = .damaged f ∧ flag = BitVec.twoPow 11 f.flag.bit) := by
    refine ho.imp_right (fun ⟨f, hf, hw⟩ => ⟨f, hf, hw.trans ?_⟩)
    cases f <;> rfl
  have hmisses : o = .silent ∨ ∃ f, o = .damaged f := hflag.imp And.left (fun ⟨f, hf, _⟩ => ⟨f, hf⟩)
  have hheard : receiveFlag l o u = heard := receiveFlag_eq hflag l u
  have htold : slotOutcome x.kind o heard = told := by
    simp only [told]
    cases x.kind <;> rfl
  obtain ⟨hstations, -⟩ := hends.keeps
  obtain ⟨chain, hfind⟩ := slotOutcome_station (s := heard) (sid := x.station) (st := st) x.kind o
    (by show u.stations.find _ = _; rw [hstations]; exact hst)
  rw [htold] at hfind
  refine ⟨fun hstate => ?_, fun hstate hstays => ?_, fun hmiss hstate => ?_⟩
  · rw [hends.exec_leaving hs hst hstate, hheard]
  · rw [hends.exec_applied hs hst hstate, hheard, htold, applyOutcome_miss hmisses, countMiss_stays hfind]
    · rfl
    · refine hstays.imp_right (fun hsilent => ?_)
      rw [hsilent]
      exact ⟨nofun, nofun⟩
  · have hstays : st.state ≠ .leaving := by
      rcases hstate with hstate | hstate <;> rw [hstate] <;> exact nofun
    rw [hends.exec_applied hs hst hstays, hheard, htold, applyOutcome_miss hmisses,
      countMiss_departs hfind hmiss hstate]
    rfl

end Sys2Proof.Machine
end


section
/-! What follows at a decision point: the end of QUIET and the expiry of the poll gap (O46). -/

namespace Sys2Proof.Machine

section

variable {s : State} {l : LinkId} {k : Link} {h : Nat} {more : List Nat}

/-! ## The due stations (R90) -/

theorem dueStation_isSome_iff : (dueStation s l k).isSome = true ↔
    ∃ h ∈ fromPosition (s.pollList l) k.roundPos, stationDue s k.roundCounter h = true :=
  List.find?_isSome

theorem fromPosition_first (h : Nat) (more : List Nat) : fromPosition (h :: more) (some h) = h :: more :=
  fromPosition_split [] h more List.not_mem_nil

/-- R91: in a round that begins, the whole list is to be visited. -/
theorem dueStation_begun (hl : s.pollList l = h :: more) (hpos : k.roundPos = some h) :
    (dueStation s l k).isSome = true ↔ ∃ x ∈ s.pollList l, stationDue s k.roundCounter x = true := by
  rw [dueStation_isSome_iff, hpos, hl, fromPosition_first]

/-- Every station of the poll list is SILENT. -/
def AllSilent (s : State) (l : LinkId) : Prop :=
  ∀ h ∈ s.pollList l, ∃ st, s.stations.find h = some st ∧ st.state = .silent

theorem AllSilent.due_iff (hall : AllSilent s l) (hh : h ∈ s.pollList l) (counter : BitVec 3) :
    stationDue s counter h = true ↔ counter = 0 := by
  obtain ⟨st, hst, hsilent⟩ := hall h hh
  rw [stationDue_iff]
  refine ⟨fun ⟨st', hst', hdue⟩ => ?_, fun hzero => ⟨st, hst, .inr (.inr ⟨hsilent, hzero⟩)⟩⟩
  obtain rfl := Option.some.inj (hst.symm.trans hst')
  rw [hsilent] at hdue
  rcases hdue with hdue | hdue | ⟨-, hdue⟩
  · cases hdue
  · cases hdue
  · exact hdue

theorem AllSilent.dueStation_iff (hall : AllSilent s l) (hl : s.pollList l = h :: more)
    (hpos : k.roundPos = some h) :
    (dueStation s l k).isSome = true ↔ k.roundCounter = 0 := by
  have hh : h ∈ s.pollList l := hl ▸ List.mem_cons_self
  rw [dueStation_begun hl hpos]
  exact ⟨fun ⟨x, hx, hdue⟩ => (hall.due_iff hx _).mp hdue, fun hzero => ⟨h, hh, (hall.due_iff hh _).mpr hzero⟩⟩

/-! ## The arbiter's choice (R93) -/

/-- The link with an open decision in a round begun at the head of the list. -/
def Link.decidingAt (k : Link) (h : Nat) (counter : BitVec 3) : Link :=
  { k with activity := .deciding, pollGap := .stopped, roundPos := some h, roundCounter := counter }

theorem arbitrate_begun (hpos : k.roundPos = some h) (hgap : k.pollGap = .stopped)
    (hopen : commandReady s l k = true ∨ (dueStation s l k).isSome = true) (n : Nat) :
    arbitrate s l n k = k.decidingAt h k.roundCounter := by
  have heq : arbitrate s l n k = { k with activity := .deciding } := by
    rcases hopen with hopen | hopen
    · exact arbitrate_ready hopen n
    · exact arbitrate_due (by simp [Link.inGap, hgap]) hopen n
  rw [heq, Link.decidingAt, ← hpos, ← hgap]

/-- R91: the link in the round that begins, where the round before has ended, with a poll gap of 0. -/
def Link.nextRound (k : Link) (h : Nat) : Link :=
  { k with activity := .gap, pollGap := .stopped, roundPos := some h, roundCounter := k.roundCounter + 1 }

theorem arbitrate_passes (hready : commandReady s l k = false) (hgap : k.pollGap = .stopped)
    (hdue : dueStation s l k = none) (hlength : k.config.pollGap = 0) (hl : s.pollList l = h :: more)
      (n : Nat) :
    arbitrate s l (n + 1) k = arbitrate s l n (k.nextRound h) :=
  arbitrate_nextRound hready (by simp [Link.inGap, hgap]) hdue hlength hl n

/-- R91, R93: with only SILENT stations the rounds pass until the counter is 0; `n` rounds are enough. -/
theorem arbitrate_allSilent (hall : AllSilent s l) (hl : s.pollList l = h :: more) : ∀ (n : Nat) (k : Link),
    k.roundPos = some h → k.pollGap = .stopped → k.config.pollGap = 0 → commandReady s l k = false →
    (k.roundCounter = 0 ∨ 8 ≤ k.roundCounter.toNat + n) → arbitrate s l n k = k.decidingAt h 0 := by
  intro n
  induction n with
  | zero =>
    intro k hpos hgap _ _ hcounter
    have hzero : k.roundCounter = 0 := hcounter.resolve_right (by have := k.roundCounter.isLt; omega)
    rw [arbitrate_begun hpos hgap (.inr ((hall.dueStation_iff hl hpos).mpr hzero)), hzero]
  | succ n ih =>
    intro k hpos hgap hlength hready hcounter
    by_cases hzero : k.roundCounter = 0
    · rw [arbitrate_begun hpos hgap (.inr ((hall.dueStation_iff hl hpos).mpr hzero)), hzero]
    · have hdue : dueStation s l k = none :=
        Option.not_isSome_iff_eq_none.mp (fun hdue => hzero ((hall.dueStation_iff hl hpos).mp hdue))
      rw [arbitrate_passes hready hgap hdue hlength hl, ih (k.nextRound h) rfl rfl hlength hready]
      · rfl
      · have henough := hcounter.resolve_left hzero
        have hlt := k.roundCounter.isLt
        show k.roundCounter + 1 = 0 ∨ 8 ≤ (k.roundCounter + 1).toNat + n
        by_cases hlast : k.roundCounter.toNat = 7
        · exact .inl (by bv_omega)
        · exact .inr (by bv_omega)

/-! ## A round that starts (R91) -/

/-- R91: in GAP until the deadline. -/
def Link.waiting (k : Link) (now : BitVec 32) : Link :=
  { k with
    activity := .gap
    roundPos := none
    roundCounter := k.roundCounter + 1
    pollGap := .running ⟨now, k.config.pollGap.toNat⟩ }

theorem beginRound_opens (hl : s.pollList l = h :: more) (hopen : commandReady s l k = true ∨
    ∃ x ∈ s.pollList l, stationDue s k.roundCounter x = true) :
    beginRound s l k = k.decidingAt h k.roundCounter := by
  rw [beginRound_head hl]
  exact arbitrate_begun (k := { k with pollGap := .stopped, roundPos := some h }) rfl rfl
    (hopen.imp_right (dueStation_begun hl rfl).mpr) _

theorem beginRound_waits (hl : s.pollList l = h :: more) (hready : commandReady s l k = false)
    (hdue : ¬∃ x ∈ s.pollList l, stationDue s k.roundCounter x = true) (hlength : k.config.pollGap ≠ 0) :
    beginRound s l k = k.waiting s.now := by
  rw [beginRound_head hl]
  have hnone : dueStation s l { k with pollGap := .stopped, roundPos := some h } = none :=
    Option.not_isSome_iff_eq_none.mp (fun hsome => hdue ((dueStation_begun (k := { k with
      pollGap := .stopped
      roundPos := some h }) hl rfl).mp hsome))
  exact arbitrate_endRound (k := { k with pollGap := .stopped, roundPos := some h }) hready rfl hnone hlength _

theorem beginRound_allSilent (hall : AllSilent s l) (hl : s.pollList l = h :: more)
    (hready : commandReady s l k = false) (hlength : k.config.pollGap = 0) :
    beginRound s l k = k.decidingAt h 0 := by
  rw [beginRound_head hl]
  exact arbitrate_allSilent hall hl roundsAtOnce { k with pollGap := .stopped, roundPos := some h } rfl rfl hlength
    hready (.inr (Nat.le_add_left 8 _))

theorem beginRound_modifyLink (f : Link → Link) : beginRound (s.modifyLink l f) l k = beginRound s l k := by
  have harbitrate : ∀ (n : Nat) (k : Link), arbitrate (s.modifyLink l f) l n k = arbitrate s l n k := by
    intro n
    induction n with
    | zero => exact fun k => rfl
    | succ n ih =>
      intro k
      rw [arbitrate, arbitrate]
      simp only [ih]
      rfl
  cases hl : s.pollList l with
  | nil => rw [beginRound_empty hl, beginRound_empty (s := s.modifyLink l f) hl]
  | cons h more => rw [beginRound_head hl, beginRound_head (s := s.modifyLink l f) hl, harbitrate]

theorem decideLink_expired (hgap : k.pollGap = .expired) : decideLink s l k = beginRound s l k := by
  unfold decideLink
  rw [hgap]

/-- R91: with a poll gap of 0 and an empty list the link enters IDLE. -/
theorem arbitrate_idle (hready : commandReady s l k = false) (hgap : k.pollGap = .stopped)
    (hdue : dueStation s l k = none) (hlength : k.config.pollGap = 0) (hl : s.pollList l = []) :
    arbitrate s l roundsAtOnce k = { k with
      activity := .idle
      roundPos := none
      roundCounter := k.roundCounter + 1 } := by
  have hin : k.inGap = false := by simp [Link.inGap, hgap]
  unfold roundsAtOnce
  rw [arbitrate, if_neg (by rw [hready]; exact Bool.false_ne_true),
    if_neg (by rw [hin]; exact Bool.false_ne_true),
    if_neg (by rw [hdue]; exact Bool.false_ne_true), if_neg (not_not.mpr hlength), hl, ← hgap]
  rfl

/-! ## The end of QUIET, and the expiry of the poll gap -/

theorem exec_quietExpiry (hs : s.resetN = true) {d : Nat} (hd : (s.link l).activity = .quiet d) :
    exec (.quietDeadlineExpiry l) s = .next (s.modifyLink l (decideLink s l)) := by
  refine (inService_of_resetN hs (quietExpiry l)).trans ?_
  unfold quietExpiry
  rw [hd]
  rfl

theorem exec_quietExpiry_to (hs : s.resetN = true) {d : Nat} (hd : (s.link l).activity = .quiet d)
    {f : Link → Link} (hf : decideLink s l (s.link l) = f (s.link l)) :
    exec (.quietDeadlineExpiry l) s = .next (s.modifyLink l f) := by
  rw [exec_quietExpiry hs hd, State.modifyLink_congr hf]

theorem exec_pollGapExpiry (hs : s.resetN = true) {g : Deadline} (hg : (s.link l).pollGap = .running g) :
    exec (.pollGapDeadlineExpiry l) s = .next (if g.due s.now then
      if (s.link l).activity.busy then s.modifyLink l (fun k => { k with pollGap := .expired })
      else decisionPoint l (s.modifyLink l (fun k => { k with pollGap := .expired })) else s) := by
  refine (inService_of_resetN hs (pollGapExpiry l)).trans ?_
  unfold pollGapExpiry
  rw [hg]

/-- R91: the decision of a link whose poll gap has expired is a round start. -/
theorem decisionPoint_expired (s : State) (l : LinkId) :
    decisionPoint l (s.modifyLink l (fun k => { k with pollGap := .expired })) =
      s.modifyLink l (beginRound s l) := by
  unfold decisionPoint
  rw [State.modifyLink_modifyLink]
  refine State.modifyLink_congr ?_
  exact beginRound_modifyLink _

end

/-- Settles O46. -/
theorem decisionPointsFollowTheArbiter : Obligations.DecisionPointsFollowTheArbiter := by
  intro s l hs k ready isDue due dueInList dueNext allSilent deciding waiting roundStarts
  have hready : commandReady s l k = true ↔ ready := commandReady_iff
  have hunready (hn : ¬ready) : commandReady s l k = false :=
    Bool.eq_false_iff.mpr (fun hr => hn (hready.mp hr))
  have hisDue (counter : BitVec 3) (h : Nat) : stationDue s counter h = true ↔ isDue counter h :=
    stationDue_iff _ _
  have hdue : (dueStation s l k).isSome = true ↔ due :=
    dueStation_isSome_iff.trans (exists_congr (fun h => and_congr_right (fun _ => hisDue _ _)))
  have hnobody (hnone : ¬due) : dueStation s l k = none :=
    Option.not_isSome_iff_eq_none.mp (fun h => hnone (hdue.mp h))
  have hlist (counter : BitVec 3) : (∃ h ∈ s.pollList l, stationDue s counter h = true) ↔
      ∃ h ∈ s.pollList l, isDue counter h := exists_congr (fun h => and_congr_right (fun _ => hisDue _ _))
  have hstarts (i : Instr) (hi : exec i s = .next (s.modifyLink l (beginRound s l))) : roundStarts i := by
    have hto (f : Link → Link) (hf : beginRound s l k = f k) : exec i s = .next (s.modifyLink l f) := by
      rw [hi, State.modifyLink_congr hf]
    refine ⟨fun hl => ?_, fun h more hl => ⟨fun hopen => ?_, fun hn hnone hlength => ?_,
      fun hn hall hcounter hlength => ?_⟩⟩
    · exact hto _ (beginRound_empty hl k)
    · exact hto _ (beginRound_opens hl (hopen.imp hready.mpr (hlist _).mpr))
    · exact hto _ (beginRound_waits hl (hunready hn) (fun h => hnone ((hlist _).mp h)) hlength)
    · exact hto _ (beginRound_allSilent hall hl (hunready hn) hlength)
  refine ⟨fun d hd => ⟨fun g hg => ?_, fun hgap hopen => ?_, fun hgap hn hnone hlength => ?_,
    fun hgap hn hnone hlength => ⟨fun hl => ?_, fun h more hl => ⟨fun hnext => ?_, fun hall => ?_⟩⟩,
      fun hgap => ?_⟩,
    fun g hg hdueNow => ⟨fun hbusy => ?_, fun hidle => ?_⟩, fun g hg hlater => ?_⟩
  · refine exec_quietExpiry_to hs hd ?_
    rw [decideLink_not_expired (by rw [hg]; exact nofun)]
    by_cases hr : ready
    · rw [arbitrate_ready (hready.mpr hr), if_pos hr]
    · rw [arbitrate_gap (hunready hr) (by simp [Link.inGap, hg]), if_neg hr]
  · refine exec_quietExpiry_to hs hd ?_
    rw [decideLink_not_expired (by rw [hgap]; exact nofun)]
    rcases hopen with hr | hd
    · exact arbitrate_ready (hready.mpr hr) _
    · exact arbitrate_due (by simp [Link.inGap, hgap]) (hdue.mpr hd) _
  · refine exec_quietExpiry_to hs hd ?_
    rw [decideLink_not_expired (by rw [hgap]; exact nofun)]
    exact arbitrate_endRound (hunready hn) (by simp [Link.inGap, hgap])
      (hnobody hnone) hlength _
  · refine exec_quietExpiry_to hs hd ?_
    rw [decideLink_not_expired (by rw [hgap]; exact nofun)]
    exact arbitrate_idle (hunready hn) hgap (hnobody hnone) hlength hl
  · refine exec_quietExpiry_to hs hd ?_
    rw [decideLink_not_expired (by rw [hgap]; exact nofun)]
    refine (arbitrate_passes (hunready hn) hgap (hnobody hnone) hlength hl 7).trans ?_
    refine arbitrate_begun (k := k.nextRound h) rfl rfl (.inr ?_) 7
    exact (dueStation_begun (k := k.nextRound h) hl rfl).mpr ((hlist _).mpr hnext)
  · refine exec_quietExpiry_to hs hd ?_
    rw [decideLink_not_expired (by rw [hgap]; exact nofun)]
    refine (arbitrate_passes (hunready hn) hgap (hnobody hnone) hlength hl 7).trans ?_
    refine arbitrate_allSilent hall hl 7 (k.nextRound h) rfl rfl hlength (hunready hn) ?_
    show k.roundCounter + 1 = 0 ∨ 8 ≤ (k.roundCounter + 1).toNat + 7
    by_cases hzero : k.roundCounter + 1 = 0
    · exact .inl hzero
    · exact .inr (by bv_omega)
  · exact hstarts _ (exec_quietExpiry_to hs hd (decideLink_expired hgap))
  · rw [exec_pollGapExpiry hs hg, if_pos hdueNow, if_pos hbusy]
  · refine hstarts _ ?_
    rw [exec_pollGapExpiry hs hg, if_pos hdueNow, if_neg, decisionPoint_expired]
    rcases hidle with hidle | hidle <;> rw [hidle] <;> exact Bool.false_ne_true
  · rw [exec_pollGapExpiry hs hg, if_neg (by rw [hlater]; exact Bool.false_ne_true)]

end Sys2Proof.Machine
end


section
/-! The commands of a departing station end, and all its tags become free (O35). -/

namespace Sys2Proof.Machine

section

variable {s t u : State} {sid h : Nat} {st : Station} {r : Slot} {result : CommandResult} {xs : List Nat}

/-! ## A station without capacity (R2, R93) -/

theorem hasRoom_full (hst : s.stations.find sid = some st) (hcap : st.capacity = 0) :
    s.hasRoom sid = false := by
  simp only [State.hasRoom, hst, hcap]
  exact decide_eq_false (Nat.not_lt_zero _)

/-- R93: where the station has no room, a freed tag makes no slot eligible. -/
theorem noticeFreedTag_full (hroom : s.hasRoom sid = false) (before : Bool) :
    noticeFreedTag sid before s = s := by
  unfold noticeFreedTag
  cases s.stations.find sid with
  | none => rfl
  | some st =>
    refine if_neg (fun ⟨_, hany⟩ => ?_)
    rw [List.any_eq_true] at hany
    obtain ⟨k, -, hk⟩ := hany
    rw [Bool.and_eq_true, beq_iff_eq] at hk
    obtain ⟨heligible, hstation⟩ := hk
    unfold State.eligible at heligible
    cases hr : s.slots.find k with
    | none =>
      rw [hr] at heligible
      cases heligible
    | some r =>
      rw [hr, Option.map_some] at hstation
      rw [hr] at heligible
      dsimp only at heligible
      rw [Option.some.inj hstation, hroom, Bool.and_false] at heligible
      cases heligible

theorem freeAllTags_full (hst : s.stations.find sid = some st) (hcap : st.capacity = 0) :
    freeAllTags sid s = { s with tagSets := s.tagSets.drop sid } :=
  noticeFreedTag_full (s := { s with tagSets := s.tagSets.drop sid }) (hasRoom_full hst hcap) _

/-- R111: a tag freed at a station without capacity. -/
theorem releaseTag_full (hst : s.stations.find r.station = some st) (hcap : st.capacity = 0) :
    (releaseTag r .freed s).links = s.links ∧
      ∀ k, k ≠ r.station → (releaseTag r .freed s).tagSets.find k = s.tagSets.find k := by
  cases hg : r.tag with
  | none =>
    rw [releaseTag_none hg]
    exact ⟨rfl, fun _ _ => rfl⟩
  | some g =>
    have heq : releaseTag r .freed s = { s with tagSets := s.freedTag r.station g } := by
      simp only [releaseTag, hg]
      unfold freeTag
      rw [setTagSet_drop]
      exact noticeFreedTag_full (s := { s with tagSets := s.freedTag r.station g }) (hasRoom_full hst hcap) _
    rw [heq]
    refine ⟨rfl, fun k hk => ?_⟩
    show (s.freedTag r.station g).find k = _
    unfold State.freedTag
    split
    · exact Table.find_drop_ne _ hk
    · exact Table.find_put_ne _ _ hk

/-! ## The slots that end (R112, R121) -/

/-- R108: slot `h` is of client `c`. -/
def State.ownedBy (s : State) (c : ClientId) (h : Nat) : Bool :=
  match s.slots.find h with
  | some r => r.client == c
  | none => false

/-- R108: slot `h` is for point `k`. -/
def State.commands (s : State) (k h : Nat) : Bool :=
  match s.slots.find h with
  | some r => r.point == k
  | none => false

theorem ownedBy_of_find (hr : s.slots.find h = some r) (c : ClientId) : s.ownedBy c h = (r.client == c) := by
  unfold State.ownedBy
  rw [hr]

theorem commands_of_find (hr : s.slots.find h = some r) (k : Nat) : s.commands k h = (r.point == k) := by
  unfold State.commands
  rw [hr]

theorem ownedBy_iff {c : ClientId} :
    xs.any (s.ownedBy c) = true ↔ ∃ h r, h ∈ xs ∧ s.slots.find h = some r ∧ r.client = c := by
  rw [List.any_eq_true]
  refine exists_congr (fun h => ?_)
  unfold State.ownedBy
  cases s.slots.find h <;> simp

theorem commands_iff {k : Nat} :
    xs.any (s.commands k) = true ↔ ∃ h r, h ∈ xs ∧ s.slots.find h = some r ∧ r.point = k := by
  rw [List.any_eq_true]
  refine exists_congr (fun h => ?_)
  unfold State.commands
  cases s.slots.find h <;> simp

/-- R112: COMMAND_DONE. -/
def Client.commandDone (k : Client) : Client := { k with sticky := { k.sticky with commandDone := true } }

/-- R112: no pending command. -/
def Point.uncommanded (p : Point) : Point := { p with pendingCmd := none }

/-- An operation that leaves links, bindings, the time and the pins alone, as an equation of the state. -/
theorem eq_with_slots (s t : State) (h : t.pending = s.pending ∧ t.resetN = s.resetN ∧ t.now = s.now ∧
    t.readData = s.readData ∧ t.bgnt = s.bgnt ∧ t.pollLists = s.pollLists ∧ t.bindings = s.bindings ∧
    t.mirrorQueue = s.mirrorQueue ∧ t.mwm = s.mwm ∧ t.links = s.links) : t = { s with
      slots := t.slots
      tagSets := t.tagSets
      cmdQueues := t.cmdQueues
      doneLists := t.doneLists
      clients := t.clients
      points := t.points
      stations := t.stations } := by
  obtain ⟨hpending, hreset, hnow, hread, hbgnt, hpoll, hbindings, hqueue, hmwm, hlinks⟩ := h
  cases s
  cases t
  simp_all

/-- The state `t` after the slots `xs` of station `sid` have ended in `s`; points and stations apart. -/
structure EndedTo (s t : State) (result : CommandResult) (sid : Nat) (xs : List Nat) : Prop where
  slots : ∀ k, t.slots.find k =
    if k ∈ xs then (s.slots.find k).map (fun r => r.finish result 0) else s.slots.find k
  tagSets : ∀ k, k ≠ sid → t.tagSets.find k = s.tagSets.find k
  queues : ∀ l, t.cmdQueue l = (s.cmdQueue l).filter (fun h => decide (h ∉ xs))
  doneLists : ∀ c, t.doneList c = s.doneList c ++ xs.filter (s.ownedBy c)
  clients : ∀ c, t.client c = if xs.any (s.ownedBy c) then (s.client c).commandDone else s.client c
  same : t = { s with
    slots := t.slots
    tagSets := t.tagSets
    cmdQueues := t.cmdQueues
    doneLists := t.doneLists
    clients := t.clients
    points := t.points
    stations := t.stations }

theorem EndedTo.nil (s : State) (result : CommandResult) (sid : Nat) : EndedTo s s result sid [] where
  slots := fun k => by rw [if_neg List.not_mem_nil]
  tagSets := fun _ _ => rfl
  queues := fun l => (List.filter_eq_self.mpr (fun _ _ => decide_eq_true List.not_mem_nil)).symm
  doneLists := fun c => (List.append_nil _).symm
  clients := fun c => rfl
  same := rfl

/-- R112: one slot ends. -/
theorem endSlot_ended (hr : s.slots.find h = some r) (hsid : r.station = sid)
    (hst : s.stations.find sid = some st) (hcap : st.capacity = 0) :
    EndedTo s (endSlot result s h) result sid [h] := by
  subst hsid
  obtain ⟨hlinks, htags⟩ := releaseTag_full (s := dequeue h s) hst hcap
  have hr' : (dequeue h s).slots.find h = some r := hr
  have heq := finishSlot_eq hr' result 0 .freed
  refine ⟨fun k => ?_, fun k hk => ?_, fun l => ?_, fun c => ?_, fun c => ?_, ?_⟩
  · show (finishSlot h result 0 .freed (dequeue h s)).slots.find k = _
    rw [finishSlot_slots hr', if_congr List.mem_singleton rfl rfl, Table.find_put]
    by_cases hk : k = h
    · rw [if_pos hk, if_pos hk, hk, hr, Option.map_some]
    · rw [if_neg hk, if_neg hk]
      rfl
  · show (finishSlot h result 0 .freed (dequeue h s)).tagSets.find k = _
    rw [heq]
    simp only [testFree_frame]
    exact htags k hk
  · show (finishSlot h result 0 .freed (dequeue h s)).cmdQueues.get l = _
    rw [heq]
    simp only [testFree_frame]
    refine (Quad.get_map _ _ _).trans (List.filter_congr (fun k _ => ?_))
    rw [Bool.eq_iff_iff, bne_iff_ne, decide_eq_true_iff, List.mem_singleton]
  · show (finishSlot h result 0 .freed (dequeue h s)).doneLists.get c = _
    rw [finishSlot_doneLists hr', Quad.get_modify, List.filter_cons, ownedBy_of_find hr, List.filter_nil]
    by_cases hc : c = r.client
    · subst hc
      rw [if_pos rfl, beq_self_eq_true, if_pos rfl]
      rfl
    · rw [if_neg hc, if_neg (by rw [beq_iff_eq]; exact Ne.symm hc), List.append_nil]
      rfl
  · show (finishSlot h result 0 .freed (dequeue h s)).clients.get c = _
    rw [finishSlot_clients hr', Quad.get_modify, List.any_cons, List.any_nil, Bool.or_false, ownedBy_of_find hr]
    by_cases hc : c = r.client
    · subst hc
      rw [if_pos rfl, beq_self_eq_true, if_pos rfl]
      rfl
    · rw [if_neg hc, if_neg (by rw [beq_iff_eq]; exact Ne.symm hc)]
      rfl
  · refine eq_with_slots s _ ?_
    unfold endSlot
    rw [heq]
    simp only [testFree_frame]
    exact ⟨rfl, rfl, rfl, rfl, rfl, rfl, rfl, rfl, rfl, hlinks⟩

theorem EndedTo.cons (hh : h ∉ xs) (hone : EndedTo s u result sid [h]) (hrest : EndedTo u t result sid xs) :
    EndedTo s t result sid (h :: xs) := by
  have hkept : ∀ k ∈ xs, u.slots.find k = s.slots.find k := fun k hk => by
    have hne : k ∉ [h] := fun hm => hh (List.mem_singleton.mp hm ▸ hk)
    rw [hone.slots k, if_neg hne]
  have howned : ∀ c, ∀ k ∈ xs, u.ownedBy c k = s.ownedBy c k := fun c k hk => by
    unfold State.ownedBy
    rw [hkept k hk]
  refine ⟨fun k => ?_, fun k hk => ?_, fun l => ?_, fun c => ?_, fun c => ?_, ?_⟩
  · rw [hrest.slots k]
    by_cases hk : k ∈ xs
    · rw [if_pos hk, if_pos (List.mem_cons_of_mem _ hk), hkept k hk]
    · rw [if_neg hk, hone.slots k]
      exact if_congr (by rw [List.mem_singleton, List.mem_cons, or_iff_left hk]) rfl rfl
  · rw [hrest.tagSets k hk, hone.tagSets k hk]
  · rw [hrest.queues l, hone.queues l, List.filter_filter]
    refine List.filter_congr (fun k _ => ?_)
    rw [← Bool.decide_and]
    refine decide_eq_decide.mpr ?_
    simp only [List.mem_cons, List.not_mem_nil, or_false, not_or]
    exact and_comm
  · rw [hrest.doneLists c, hone.doneLists c, List.filter_congr (howned c), List.append_assoc]
    exact congrArg (_ ++ ·) (List.filter_append [h] xs).symm
  · have hany : xs.any (u.ownedBy c) = xs.any (s.ownedBy c) := by
      rw [Bool.eq_iff_iff, List.any_eq_true, List.any_eq_true]
      exact exists_congr (fun k => and_congr_right (fun hk => by rw [howned c k hk]))
    rw [hrest.clients c, hany, hone.clients c, List.any_cons, List.any_cons, List.any_nil, Bool.or_false]
    cases s.ownedBy c h <;> cases xs.any (s.ownedBy c) <;> rfl
  · rw [hrest.same, hone.same]

/-- R121: the slots of a station without capacity, one after the other. -/
theorem endSlots_ended (hcap : st.capacity = 0) : ∀ (xs : List Nat) {s : State}, xs.Nodup →
    (∃ chain, s.stations.find sid = some { st with chain := chain }) →
    (∀ x ∈ xs, ∃ r, s.slots.find x = some r ∧ r.station = sid) →
    EndedTo s (xs.foldl (endSlot result) s) result sid xs := by
  intro xs
  induction xs with
  | nil => exact fun _ _ _ => .nil _ result sid
  | cons x xs ih =>
    intro s hnodup hst hxs
    obtain ⟨hx, hnodup⟩ := List.nodup_cons.mp hnodup
    obtain ⟨chain, hst⟩ := hst
    obtain ⟨r, hr, hsid⟩ := hxs x List.mem_cons_self
    refine .cons hx (endSlot_ended hr hsid hst hcap) (ih hnodup ?_ (fun y hy => ?_))
    · obtain ⟨chain', hst'⟩ := finishSlot_station (s := dequeue x s) x result 0 .freed hst
      exact ⟨chain', hst'⟩
    · obtain ⟨q, hq, hqs⟩ := hxs y (List.mem_cons_of_mem _ hy)
      exact ⟨q, (endSlot_find_ne (ne_of_mem_of_not_mem hy hx) result).trans hq, hqs⟩

/-- R121: the slots of the departing station. -/
theorem waitingSlots_ended (hst : s.stations.find sid = some st) (hcap : st.capacity = 0) :
    EndedTo s ((s.waitingSlots sid).foldl (endSlot result) s) result sid (s.waitingSlots sid) := by
  refine endSlots_ended hcap _ (waitingSlots_nodup s sid) ⟨st.chain, hst⟩ (fun x hx => ?_)
  obtain ⟨-, r, hr, hsid, -⟩ := mem_waitingSlots.mp hx
  exact ⟨r, hr, hsid⟩

/-! ## Points that are not RETIRING -/

/-- The state `t` after the slots `xs` of `s` have ended: their points have no pending command. -/
structure Uncommanded (s t : State) (xs : List Nat) : Prop where
  points : ∀ k, t.points.find k =
    if xs.any (s.commands k) then (s.points.find k).map Point.uncommanded else s.points.find k
  stations : t.stations = s.stations

theorem endSlot_uncommanded (hr : s.slots.find h = some r)
    (hlive : ∀ p, s.points.find r.point = some p → p.state ≠ .retiring) :
    Uncommanded s (endSlot result s h) [h] := by
  have hr' : (dequeue h s).slots.find h = some r := hr
  have heq : endSlot result s h = _ := finishSlot_eq hr' result 0 .freed
  rw [testFree_stays] at heq
  · refine ⟨fun k => ?_, by rw [heq]; rfl⟩
    rw [heq, List.any_cons, List.any_nil, Bool.or_false, commands_of_find hr]
    refine (Table.find_modify _ _ _ _).trans ?_
    by_cases hk : k = r.point
    · subst hk
      rw [if_pos rfl, beq_self_eq_true, if_pos rfl]
      rfl
    · rw [if_neg hk, if_neg (by rw [beq_iff_eq]; exact Ne.symm hk)]
      rfl
  · intro q hq
    rw [Table.find_modify_same, Option.map_eq_some_iff] at hq
    obtain ⟨p, hp, rfl⟩ := hq
    exact .inl (hlive p hp)

theorem Uncommanded.cons (hkept : ∀ k ∈ xs, u.slots.find k = s.slots.find k) (hone : Uncommanded s u [h])
    (hrest : Uncommanded u t xs) : Uncommanded s t (h :: xs) := by
  refine ⟨fun k => ?_, hrest.stations.trans hone.stations⟩
  have hany : xs.any (u.commands k) = xs.any (s.commands k) := by
    rw [Bool.eq_iff_iff, List.any_eq_true, List.any_eq_true]
    refine exists_congr (fun x => and_congr_right (fun hx => ?_))
    unfold State.commands
    rw [hkept x hx]
  rw [hrest.points k, hany, hone.points k, List.any_cons, List.any_cons, List.any_nil, Bool.or_false]
  cases s.commands k h <;> cases xs.any (s.commands k) <;> cases s.points.find k <;> rfl

theorem endSlots_uncommanded : ∀ (xs : List Nat) {s : State}, xs.Nodup →
    (∀ x ∈ xs, ∃ r, s.slots.find x = some r ∧ ∀ p, s.points.find r.point = some p → p.state ≠ .retiring) →
    Uncommanded s (xs.foldl (endSlot result) s) xs := by
  intro xs
  induction xs with
  | nil => exact fun _ _ => ⟨fun _ => rfl, rfl⟩
  | cons x xs ih =>
    intro s hnodup hxs
    obtain ⟨hx, hnodup⟩ := List.nodup_cons.mp hnodup
    obtain ⟨r, hr, hlive⟩ := hxs x List.mem_cons_self
    have hone : Uncommanded s (endSlot result s x) [x] := endSlot_uncommanded hr hlive
    have hkept : ∀ y ∈ xs, (endSlot result s x).slots.find y = s.slots.find y := fun y hy =>
      endSlot_find_ne (ne_of_mem_of_not_mem hy hx) result
    refine .cons hkept hone (ih hnodup (fun y hy => ?_))
    obtain ⟨q, hq, hqlive⟩ := hxs y (List.mem_cons_of_mem _ hy)
    refine ⟨q, (hkept y hy).trans hq, fun p hp => ?_⟩
    rw [hone.points] at hp
    split at hp
    · obtain ⟨p', hp', rfl⟩ := Option.map_eq_some_iff.mp hp
      exact hqlive p' hp'
    · exact hqlive p hp

end

/-- Settles O35: the slots of the station end, and its tags are free. -/
theorem stationCommandsEndAtADeparture : Obligations.StationCommandsEndAtADeparture := by
  intro s sid st result hst hcap ending hlive t
  have hended : EndedTo s (ending.foldl (endSlot result) s) result sid ending := waitingSlots_ended hst hcap
  have hpoints : Uncommanded s (ending.foldl (endSlot result) s) ending := by
    refine endSlots_uncommanded ending (waitingSlots_nodup s sid) (fun x hx => ?_)
    obtain ⟨-, r, hr, -, -⟩ := mem_waitingSlots.mp hx
    exact ⟨r, hr, fun p hp => hlive x r p hx hr hp⟩
  have ht : t = { ending.foldl (endSlot result) s with
      tagSets := (ending.foldl (endSlot result) s).tagSets.drop sid } :=
    freeAllTags_full (s := ending.foldl (endSlot result) s) (by rw [hpoints.stations]; exact hst) hcap
  generalize ending.foldl (endSlot result) s = u at hended hpoints ht
  have hsame := hended.same
  rw [hpoints.stations] at hsame
  rw [ht]
  refine ⟨fun h r hr hh => ?_, fun h hh => ?_, Table.find_drop_same _ _, fun k hk => ?_, hended.queues,
    hended.doneLists,
    fun c hc => ?_, fun c hc => ?_, fun h r p hh hr hp => ?_, fun k hk => ?_, ?_⟩
  · refine (hended.slots h).trans ?_
    rw [if_pos hh, hr]
    rfl
  · exact (hended.slots h).trans (if_neg hh)
  · exact (Table.find_drop_ne _ hk).trans (hended.tagSets k hk)
  · exact (hended.clients c).trans (if_pos (ownedBy_iff.mpr hc))
  · refine (hended.clients c).trans (if_neg (fun hany => ?_))
    obtain ⟨h, r, hh, hr, hrc⟩ := ownedBy_iff.mp hany
    exact hc h r hh hr hrc
  · refine (hpoints.points r.point).trans ?_
    rw [if_pos (commands_iff.mpr ⟨h, r, hh, hr, rfl⟩), hp]
    rfl
  · refine (hpoints.points k).trans (if_neg (fun hany => ?_))
    obtain ⟨h, r, hh, hr, hrk⟩ := commands_iff.mp hany
    exact hk h r hh hr hrk
  · rw [hsame]
    exact ⟨rfl, rfl, rfl, rfl, rfl, rfl, rfl, rfl, rfl, rfl, rfl⟩

end Sys2Proof.Machine
end


section
/-! What the ends of commands leave of points and chains, whatever the states of the points (R25, R112). -/

namespace Sys2Proof.Machine

section

variable {S : Nat → Prop} {s t u : State} {h sid : Nat}

/-- R22: point `h` is RETIRING. -/
def State.Retires (s : State) (h : Nat) : Prop := ∃ p, s.points.find h = some p ∧ p.state = .retiring

/-- The state `t` after ends of commands in `s`: a point may have lost its command, a RETIRING one may be
FREE and
out of the chain of its station, which is one of `S`. -/
structure Released (S : Nat → Prop) (s t : State) : Prop where
  stations : ∀ sid st, s.stations.find sid = some st → ∃ keep : Nat → Bool,
    t.stations.find sid = some { st with chain := st.chain.filter keep } ∧ ∀ h, keep h = false → s.Retires h
  others : ∀ sid, ¬S sid → t.stations.find sid = s.stations.find sid
  points : ∀ h p, s.points.find h = some p → (∃ k, t.points.find h = some { p with pendingCmd := k }) ∨
    (p.state = .retiring ∧ t.points.find h = none)
  free : ∀ h, s.points.find h = none → t.points.find h = none

theorem Released.of_eq (hstations : t.stations = s.stations) (hpoints : t.points = s.points) :
    Released S s t where
  stations := fun sid st hst => by
    refine ⟨fun _ => true, ?_, nofun⟩
    rw [hstations, List.filter_eq_self.mpr (fun _ _ => rfl)]
    exact hst
  others := fun sid _ => by rw [hstations]
  points := fun h p hp => .inl ⟨p.pendingCmd, by rw [hpoints]; exact hp⟩
  free := fun h hp => by rw [hpoints]; exact hp

theorem Released.retires (hr : Released S s t) (ht : t.Retires h) : s.Retires h := by
  obtain ⟨q, hq, hret⟩ := ht
  cases hp : s.points.find h with
  | none =>
    rw [hr.free h hp] at hq
    cases hq
  | some p =>
    refine ⟨p, hp, ?_⟩
    rcases hr.points h p hp with ⟨k, hk⟩ | ⟨hstate, -⟩
    · obtain rfl := Option.some.inj (hk.symm.trans hq)
      exact hret
    · exact hstate

theorem Released.trans (hsu : Released S s u) (hut : Released S u t) : Released S s t where
  stations := fun sid st hst => by
    obtain ⟨keep, hu, hkeep⟩ := hsu.stations sid st hst
    obtain ⟨keep', ht, hkeep'⟩ := hut.stations sid _ hu
    refine ⟨fun h => keep' h && keep h, ?_, fun h hh => ?_⟩
    · rw [ht, List.filter_filter]
    · rcases Bool.and_eq_false_iff.mp hh with hh | hh
      · exact hsu.retires (hkeep' h hh)
      · exact hkeep h hh
  others := fun sid hsid => (hut.others sid hsid).trans (hsu.others sid hsid)
  points := fun h p hp => by
    rcases hsu.points h p hp with ⟨k, hk⟩ | ⟨hret, hnone⟩
    · have hkept := hut.points h _ hk
      exact hkept
    · exact .inr ⟨hret, hut.free h hnone⟩
  free := fun h hp => hut.free h (hsu.free h hp)

/-- R112, R25: one slot enters DONE. -/
theorem finishSlot_released (result : CommandResult) (code : Byte) (fate : TagFate)
    (hS : ∀ r p, s.slots.find h = some r → s.points.find r.point = some p → S p.station) :
    Released S s (finishSlot h result code fate s) := by
  cases hr : s.slots.find h with
  | none =>
    rw [finishSlot_free hr]
    exact .of_eq rfl rfl
  | some r =>
    cases hp : s.points.find r.point with
    | none =>
      rw [finishSlot_eq hr, Table.modify_none _ _ hp, testFree_none (by exact hp)]
      exact .of_eq rfl rfl
    | some p =>
      rw [finishSlot_at hr hp]
      by_cases hgone : p.state = .retiring ∧ p.bindings = []
      · obtain ⟨hret, -⟩ := id hgone
        unfold State.doneSlot
        rw [if_pos hgone, if_pos hgone]
        refine ⟨fun sid st hst => ?_, fun sid hsid => ?_, fun k q hq => ?_, fun k hk => ?_⟩
        · by_cases hsid : sid = p.station
          · subst hsid
            refine ⟨fun x => x != r.point, ?_, fun x hx => ?_⟩
            · refine (Table.find_modify_same _ _ _).trans ?_
              rw [hst]
              rfl
            · rw [bne_eq_false_iff_eq] at hx
              exact ⟨p, hx ▸ hp, hret⟩
          · refine ⟨fun _ => true, ?_, nofun⟩
            rw [List.filter_eq_self.mpr (fun _ _ => rfl)]
            exact (Table.find_modify_ne _ _ hsid).trans hst
        · exact Table.find_modify_ne _ _ (fun he => hsid (he ▸ hS r p hr hp))
        · by_cases hk : k = r.point
          · subst hk
            obtain rfl := Option.some.inj (hp.symm.trans hq)
            exact .inr ⟨hret, Table.find_drop_same _ _⟩
          · exact .inl ⟨q.pendingCmd, (Table.find_drop_ne _ hk).trans hq⟩
        · by_cases hkp : k = r.point
          · subst hkp
            exact Table.find_drop_same _ _
          · exact (Table.find_drop_ne _ hkp).trans hk
      · have hsame : Released S s { s with points := s.points.put r.point { p with pendingCmd := none } } := by
          refine ⟨(Released.of_eq (S := S) (s := s) (t := s) rfl rfl).stations, fun _ _ => rfl,
            fun k q hq => ?_,
            fun k hk => ?_⟩
          · by_cases hkp : k = r.point
            · subst hkp
              obtain rfl := Option.some.inj (hp.symm.trans hq)
              exact .inl ⟨none, Table.find_put_same _ _ _⟩
            · exact .inl ⟨q.pendingCmd, (Table.find_put_ne _ _ hkp).trans hq⟩
          · refine (Table.find_put_ne _ _ (fun hkp => ?_)).trans hk
            rw [hkp, hp] at hk
            cases hk
        unfold State.doneSlot
        rw [if_neg hgone, if_neg hgone]
        exact ⟨hsame.stations, hsame.others, hsame.points, hsame.free⟩

/-- The point of a slot keeps its station. -/
theorem Released.station (hr : Released S s t) {q : Point} (hq : t.points.find h = some q) :
    ∃ p, s.points.find h = some p ∧ p.station = q.station := by
  cases hp : s.points.find h with
  | none =>
    rw [hr.free h hp] at hq
    cases hq
  | some p =>
    rcases hr.points h p hp with ⟨k, hk⟩ | ⟨-, hnone⟩
    · obtain rfl := Option.some.inj (hk.symm.trans hq)
      exact ⟨p, rfl, rfl⟩
    · rw [hnone] at hq
      cases hq

theorem endSlots_released (result : CommandResult) : ∀ (xs : List Nat) {s : State}, xs.Nodup →
    (∀ x ∈ xs, ∀ r p, s.slots.find x = some r → s.points.find r.point = some p → S p.station) →
    Released S s (xs.foldl (endSlot result) s) := by
  intro xs
  induction xs with
  | nil => exact fun _ _ => .of_eq rfl rfl
  | cons x xs ih =>
    intro s hnodup hS
    obtain ⟨hx, hnodup⟩ := List.nodup_cons.mp hnodup
    have hdequeued := finishSlot_released (s := dequeue x s) result 0 .freed (hS x List.mem_cons_self)
    have hone : Released S s (endSlot result s x) :=
      ⟨hdequeued.stations, hdequeued.others, hdequeued.points, hdequeued.free⟩
    refine hone.trans (ih hnodup (fun y hy r q hr hq => ?_))
    obtain ⟨p, hp, hstation⟩ := hone.station hq
    rw [endSlot_find_ne (ne_of_mem_of_not_mem hy hx)] at hr
    exact hstation ▸ hS y (List.mem_cons_of_mem _ hy) r p hr hp

/-- R40: the bindings that a silence asks for are those of LIVE points, which stay. -/
theorem agedBindings_left (hbindings : t.bindings = s.bindings) {keep : Nat → Bool}
    (hkeep : ∀ h, keep h = false → s.Retires h) (chain : List Nat)
    (hpoints : ∀ h ∈ chain, ∀ p, s.points.find h = some p →
      (∃ k, t.points.find h = some { p with pendingCmd := k }) ∨ (p.state = .retiring ∧ t.points.find h = none))
    (hfree : ∀ h ∈ chain, s.points.find h = none → t.points.find h = none) :
    t.agedBindings (chain.filter keep) = s.agedBindings chain := by
  have hactive : ∀ p, t.activeBindings p = s.activeBindings p := fun p => by
    unfold State.activeBindings State.isActive
    rw [hbindings]
  induction chain with
  | nil => rfl
  | cons h more ih =>
    have hone : t.agedBindings ([h].filter keep) = s.agedBindings [h] := by
      cases hk : keep h with
      | false =>
        obtain ⟨p, hp, hret⟩ := hkeep h hk
        rw [List.filter_cons_of_neg (by rw [hk]; exact Bool.false_ne_true), agedBindings_of_find hp, if_neg]
        · rfl
        · rw [hret]
          exact nofun
      | true =>
        rw [List.filter_cons_of_pos hk, List.filter_nil]
        cases hp : s.points.find h with
        | none => rw [agedBindings_none hp, agedBindings_none (hfree h List.mem_cons_self hp)]
        | some p =>
          rw [agedBindings_of_find hp]
          rcases hpoints h List.mem_cons_self p hp with ⟨k, hk⟩ | ⟨hret, hnone⟩
          · rw [agedBindings_of_find hk, hactive]
            rfl
          · rw [agedBindings_none hnone, hret]
            rfl
    rw [State.agedBindings_cons s h more, ← ih (fun k hk => hpoints k (List.mem_cons_of_mem _ hk))
      (fun k hk => hfree k (List.mem_cons_of_mem _ hk)), ← hone]
    show t.agedBindings (([h] ++ more).filter keep) = _
    rw [List.filter_append]
    unfold State.agedBindings
    rw [List.flatMap_append]

end

end Sys2Proof.Machine
end


section
/-! LINK_DISABLE takes the link and its stations off (O37). -/

namespace Sys2Proof.Machine

/-! ## One station (R102 step 3, R122) -/

section

variable {S : Nat → Prop} {s t u : State} {sid h : Nat} {a st : Station} {l : LinkId} {gone : List Nat}

/-- R102: the stations that a link disable makes SILENT. -/
def Station.heard (st : Station) : Prop := st.state = .joining ∨ st.state = .present

/-- The state `t` after the heard station `sid` of `u`, with record `a`, went off. -/
structure WentOff (S : Nat → Prop) (u t : State) (sid : Nat) (a : Station) : Prop where
  stations : ∀ k b, u.stations.find k = some b → ∃ keep : Nat → Bool,
    t.stations.find k = some { (if k = sid then b.fallSilent .linkOff else b) with chain := b.chain.filter keep } ∧
      ∀ h, keep h = false → u.Retires h
  others : ∀ k, k ≠ sid → ¬S k → t.stations.find k = u.stations.find k
  points : ∀ h p, u.points.find h = some p →
    (∃ k, t.points.find h = some { (if p.station = sid then p.aged .linkOff else p) with pendingCmd := k }) ∨
      (p.state = .retiring ∧ t.points.find h = none)
  free : ∀ h, u.points.find h = none → t.points.find h = none
  slots : ∀ k, t.slots.find k = if k ∈ u.waitingSlots sid then
    (u.slots.find k).map (fun r => r.finish .linkDown 0) else u.slots.find k
  tagSet : t.tagSets.find sid = none
  tagSets : ∀ k, k ≠ sid → t.tagSets.find k = u.tagSets.find k
  queue : t.mirrorQueue = askedFor u.mirrorQueue (u.agedBindings a.chain)
  bindings : t.bindings = u.bindings
  links : t.links = u.links

/-- R45: the ageing of a point does not look at its command. -/
theorem Point.aged_with_pendingCmd (p : Point) (k : Option Nat) (cause : StaleCause) :
    ({ p with pendingCmd := k } : Point).aged cause = { p.aged cause with pendingCmd := k } := by
  have heligible : ({ p with pendingCmd := k } : Point).liveEligible = p.liveEligible := rfl
  unfold Point.aged
  rw [heligible]
  by_cases he : p.liveEligible = true
  · rw [if_pos he, if_pos he]
    rcases Option.eq_none_or_eq_some p.forced with hf | ⟨f, hf⟩
    · rw [Point.age_unforced cause hf, Point.age_unforced (p := { p with pendingCmd := k }) cause hf]
    · rw [Point.age_forced cause hf, Point.age_forced (p := { p with pendingCmd := k }) cause hf]
  · rw [if_neg he, if_neg he]

theorem Point.aged_station (p : Point) (cause : StaleCause) : (p.aged cause).station = p.station := by
  unfold Point.aged
  split
  · cases hf : p.forced with
    | none => rw [Point.age_unforced cause hf]
    | some f => rw [Point.age_forced cause hf]
  · rfl

/-- R45: a RETIRING point does not age, and no point comes to be RETIRING by its age. -/
theorem Point.aged_retiring {p : Point} {cause : StaleCause} (hp : (p.aged cause).state = .retiring) :
    p.state = .retiring := by
  unfold Point.aged at hp
  split at hp
  · rcases Option.eq_none_or_eq_some p.forced with hf | ⟨f, hf⟩
    · rw [Point.age_unforced cause hf] at hp
      cases hp
    · rw [Point.age_forced cause hf] at hp
      exact hp
  · exact hp

theorem chain_nodup (hs : DirectoryLaw s) (hst : s.stations.find sid = some st) : st.chain.Nodup := by
  refine (hs.ascending sid st hst).imp_of_mem (fun {x y} hx _ hlt he => ?_)
  subst he
  obtain ⟨p, hp, -⟩ := hs.ofChain sid st hst x hx
  exact absurd (hlt p p hp hp) (Nat.lt_irrefl _)

/-- R12: a point is in the chain of its own station and in no other. -/
theorem mem_chain_iff (hs : DirectoryLaw s) (hst : s.stations.find sid = some st) {p : Point}
    (hp : s.points.find h = some p) : h ∈ st.chain ↔ p.station = sid := by
  constructor
  · intro hh
    obtain ⟨q, hq, hstation⟩ := hs.ofChain sid st hst h hh
    obtain rfl := Option.some.inj (hp.symm.trans hq)
    exact hstation
  · intro hstation
    obtain ⟨b, hb, hh⟩ := hs.inChain h p hp
    rw [hstation, hst] at hb
    obtain rfl := Option.some.inj hb
    exact hh

theorem stationLinkOff_heard (ha : u.stations.find sid = some a) (hheard : a.heard) : stationLinkOff u sid =
    agePoints sid .linkOff (endStationCommands sid .linkDown
      (u.modifyStation sid (fun st => st.fallSilent .linkOff))) := by
  unfold stationLinkOff
  rw [ha]
  exact if_pos hheard

theorem stationLinkOff_unheard (ha : u.stations.find sid = some a) (hheard : ¬a.heard) :
    stationLinkOff u sid = u := by
  unfold stationLinkOff
  rw [ha]
  exact if_neg hheard

/-- R121: the slots of a station end. -/
theorem waitingSlots_released (result : CommandResult) (hS : ∀ x ∈ s.waitingSlots sid, ∀ r p,
    s.slots.find x = some r → s.points.find r.point = some p → S p.station) :
    Released S s ((s.waitingSlots sid).foldl (endSlot result) s) :=
  endSlots_released result _ (waitingSlots_nodup s sid) hS

theorem stationLinkOff_wentOff (hu : DirectoryLaw u) (ha : u.stations.find sid = some a) (hheard : a.heard)
    (hS : ∀ x ∈ u.waitingSlots sid, ∀ r p, u.slots.find x = some r → u.points.find r.point = some p →
      S p.station) :
    WentOff S u (stationLinkOff u sid) sid a := by
  rw [stationLinkOff_heard ha hheard]
  -- The station falls silent, its commands end, its tags are free, and its points age.
  have hv : (u.modifyStation sid (fun st => st.fallSilent .linkOff)).stations.find sid =
      some (a.fallSilent .linkOff) := by
    rw [State.modifyStation_stations, Table.find_modify_same, ha]
    rfl
  have hended := waitingSlots_ended (result := .linkDown) hv rfl
  have hreleased := waitingSlots_released
    (s := u.modifyStation sid (fun st => st.fallSilent .linkOff)) .linkDown hS
  unfold endStationCommands
  generalize List.foldl (endSlot .linkDown) _ _ = w at hended hreleased ⊢
  obtain ⟨keep, hw, hkeep⟩ := hreleased.stations sid _ hv
  rw [freeAllTags_full hw rfl]
  have hbindings : w.bindings = u.bindings := by rw [hended.same]; rfl
  have hlinks : w.links = u.links := by rw [hended.same]; rfl
  have hqueue : w.mirrorQueue = u.mirrorQueue := by rw [hended.same]; rfl
  have haged := agePoints_aged (s := { w with tagSets := w.tagSets.drop sid }) hw
    ((chain_nodup hu ha).filter keep) .linkOff
  generalize agePoints sid .linkOff { w with tagSets := w.tagSets.drop sid } = t at haged ⊢
  have hpoints : ∀ h, t.points.find h = if h ∈ a.chain.filter keep then
      (w.points.find h).map (Point.aged .linkOff) else w.points.find h := haged.points
  have hsame := haged.same
  have htags : t.tagSets = w.tagSets.drop sid := by rw [hsame]
  have hslots : t.slots = w.slots := by rw [hsame]
  have hstations : t.stations = w.stations := by rw [hsame]
  refine ⟨fun k b hb => ?_, fun k hk hSk => ?_, fun h p hp => ?_, fun h hp => ?_, fun k => ?_, ?_,
    fun k hk => ?_, ?_,
    ?_, ?_⟩
  · rw [hstations]
    by_cases hk : k = sid
    · subst hk
      obtain rfl := Option.some.inj (ha.symm.trans hb)
      rw [if_pos rfl]
      exact ⟨keep, hw, hkeep⟩
    · rw [if_neg hk]
      refine hreleased.stations k b ?_
      rw [State.modifyStation_stations, Table.find_modify_ne _ _ hk]
      exact hb
  · rw [hstations, hreleased.others k hSk, State.modifyStation_stations, Table.find_modify_ne _ _ hk]
  · rcases hreleased.points h p hp with ⟨k, hk⟩ | ⟨hret, hnone⟩
    · refine .inl ⟨k, (hpoints h).trans ?_⟩
      rw [show w.points.find h = _ from hk, Option.map_some, Point.aged_with_pendingCmd]
      have hin := mem_chain_iff hu ha hp
      by_cases hstation : p.station = sid
      · rw [if_pos hstation]
        cases hkh : keep h with
        | true => rw [if_pos (List.mem_filter.mpr ⟨hin.mpr hstation, hkh⟩)]
        | false =>
          obtain ⟨q, hq, hret⟩ := hkeep h hkh
          obtain rfl := Option.some.inj (hp.symm.trans hq)
          rw [Point.aged_other (.inr (.inr hret)), ite_self]
      · rw [if_neg hstation, if_neg (fun hm => hstation (hin.mp (List.mem_filter.mp hm).1))]
    · exact .inr ⟨hret, by rw [hpoints h, hnone, Option.map_none, ite_self]⟩
  · rw [hpoints h, hreleased.free h hp, Option.map_none, ite_self]
  · rw [hslots]
    exact hended.slots k
  · rw [htags]
    exact Table.find_drop_same _ _
  · rw [htags, Table.find_drop_ne _ hk]
    exact hended.tagSets k hk
  · have hasked := agedBindings_left (hbindings.trans rfl) hkeep a.chain
      (fun h _ => hreleased.points h) (fun h _ => hreleased.free h)
    have hq := haged.queue
    rw [show ({ w with tagSets := w.tagSets.drop sid } : State).mirrorQueue = _ from hqueue] at hq
    exact hq.trans (congrArg (askedFor u.mirrorQueue) hasked)
  · rw [hsame]
    exact hbindings
  · rw [hsame]
    exact hlinks

end

end Sys2Proof.Machine
end


section
/-! LINK_DISABLE: the exchange that is cut, the stations in the order of the poll list, the LEAVING ones
(O37). -/

namespace Sys2Proof.Machine

section

variable {S : Nat → Prop} {s u : State} {sid h : Nat} {st : Station} {l : LinkId} {gone xs : List Nat}

/-! ## The stations that are off -/

/-- R122: the slots that a disable of link `l` ends, once the stations `gone` are off. -/
def EndsOff (s : State) (l : LinkId) (gone : List Nat) (h : Nat) (r : Slot) : Prop :=
  (s.link l).sentSlot = some h ∨ (h < 32 ∧ r.station ∈ gone ∧ r.waits)

/-- R40: the bindings asked for as the station `sid` goes off. -/
def State.offBindings (s : State) (sid : Nat) : List Nat :=
  match s.stations.find sid with
  | none => []
  | some st => s.agedBindings st.chain

/-- The state `u` after the exchange of link `l` in `s` was cut and the stations `gone` went off. -/
structure LinkOff (S : Nat → Prop) (l : LinkId) (s u : State) (gone : List Nat) : Prop where
  directory : DirectoryLaw u
  stations : ∀ k st, s.stations.find k = some st → ∃ keep : Nat → Bool,
    u.stations.find k = some { (if k ∈ gone then st.fallSilent .linkOff else st) with chain := st.chain.filter keep } ∧
      ∀ h, keep h = false → s.Retires h
  others : ∀ k, k ∉ gone → ¬S k → u.stations.find k = s.stations.find k
  points : ∀ h p, s.points.find h = some p →
    (∃ k, u.points.find h = some { (if p.station ∈ gone then p.aged .linkOff else p) with pendingCmd := k }) ∨
      (p.state = .retiring ∧ u.points.find h = none)
  free : ∀ h, s.points.find h = none → u.points.find h = none
  slots : ∀ h, u.slots.find h = s.slots.find h ∨
    u.slots.find h = (s.slots.find h).map (fun r => r.finish .linkDown 0)
  ended : ∀ h r, s.slots.find h = some r → EndsOff s l gone h r → u.slots.find h = some (r.finish .linkDown 0)
  tagSets : ∀ k ∈ gone, u.tagSets.find k = none
  queue : u.mirrorQueue = askedFor s.mirrorQueue (gone.flatMap s.offBindings)
  bindings : u.bindings = s.bindings
  links : u.links = s.links.modify l Link.disable

theorem Slot.not_waits_finish (r : Slot) (result : CommandResult) (code : Byte) :
    ¬(r.finish result code).waits := by
  rintro (hw | hw) <;> cases hw

/-- A slot that still waits has not been touched. -/
theorem LinkOff.waiting (hoff : LinkOff S l s u gone) {r : Slot} (hr : u.slots.find h = some r) (hw : r.waits) :
    s.slots.find h = some r := by
  rcases hoff.slots h with heq | heq
  · rw [← heq, hr]
  · rw [hr] at heq
    obtain ⟨q, -, rfl⟩ := Option.map_eq_some_iff.mp heq.symm
    exact absurd hw (Slot.not_waits_finish q _ _)

theorem aged_if_station (p : Point) (gone : List Nat) :
    (if p.station ∈ gone then p.aged .linkOff else p).station = p.station := by
  split
  · exact Point.aged_station p .linkOff
  · rfl

theorem aged_if_retiring {p : Point} (hp : (if p.station ∈ gone then p.aged .linkOff else p).state = .retiring) :
    p.state = .retiring := by
  split at hp
  · exact Point.aged_retiring hp
  · exact hp

theorem LinkOff.ownStation (hoff : LinkOff S l s u gone) {q : Point} (hq : u.points.find h = some q) :
    ∃ p, s.points.find h = some p ∧ p.station = q.station := by
  cases hp : s.points.find h with
  | none =>
    rw [hoff.free h hp] at hq
    cases hq
  | some p =>
    refine ⟨p, rfl, ?_⟩
    rcases hoff.points h p hp with ⟨k, hk⟩ | ⟨-, hnone⟩
    · obtain rfl := Option.some.inj (hk.symm.trans hq)
      exact (aged_if_station p gone).symm
    · rw [hnone] at hq
      cases hq

/-- A point that is RETIRING now was RETIRING before. -/
theorem LinkOff.retires (hoff : LinkOff S l s u gone) (hu : u.Retires h) : s.Retires h := by
  obtain ⟨q, hq, hret⟩ := hu
  cases hp : s.points.find h with
  | none =>
    rw [hoff.free h hp] at hq
    cases hq
  | some p =>
    refine ⟨p, hp, ?_⟩
    rcases hoff.points h p hp with ⟨k, hk⟩ | ⟨hstate, -⟩
    · obtain rfl := Option.some.inj (hk.symm.trans hq)
      exact aged_if_retiring (gone := gone) hret
    · exact hstate

/-- R40: what the station still has to ask for is what it had to ask for at first. -/
theorem LinkOff.offBindings (hoff : LinkOff S l s u gone) (hs : DirectoryLaw s)
    (hst : s.stations.find sid = some st) (hgone : sid ∉ gone) {keep : Nat → Bool}
    (hkeep : ∀ h, keep h = false → s.Retires h) :
    u.agedBindings (st.chain.filter keep) = s.offBindings sid := by
  unfold State.offBindings
  rw [hst]
  refine agedBindings_left hoff.bindings hkeep st.chain (fun h hh p hp => ?_) (fun h _ => hoff.free h)
  have hstation := (mem_chain_iff hs hst hp).mp hh
  have hkept := hoff.points h p hp
  rw [hstation, if_neg hgone] at hkept
  exact hkept

/-- What the commands that end do not reach: the points of their slots are at stations of `S`. -/
def EndsWithin (S : Nat → Prop) (s : State) (l : LinkId) : Prop :=
  ∀ h r p, s.slots.find h = some r → (r.waits ∨ (s.link l).sentSlot = some h) →
    s.points.find r.point = some p → S p.station

theorem mem_gone_next {k : Nat} (hk : k ≠ sid) : k ∈ gone ↔ k ∈ gone ++ [sid] := by
  rw [List.mem_append, List.mem_singleton, or_iff_left hk]

/-- R102 step 3: one more station goes off. -/
theorem LinkOff.next (hoff : LinkOff S l s u gone) (hs : DirectoryLaw s) (hS : EndsWithin S s l)
    (hst : s.stations.find sid = some st) (hgone : sid ∉ gone) (hheard : st.heard) :
    LinkOff S l s (stationLinkOff u sid) (gone ++ [sid]) := by
  obtain ⟨keep, ha, hkeep⟩ := hoff.stations sid st hst
  rw [if_neg hgone] at ha
  have hwent := stationLinkOff_wentOff (S := S) hoff.directory ha hheard (fun x hx r q hr hq => by
    obtain ⟨-, r', hr', -, hw⟩ := mem_waitingSlots.mp hx
    obtain rfl := Option.some.inj (hr.symm.trans hr')
    obtain ⟨p, hp, hstation⟩ := hoff.ownStation hq
    exact hstation ▸ hS x r p (hoff.waiting hr hw) (.inl hw) hp)
  have hdirectory := DirectoryLaw.kept.parts.linkOff sid hoff.directory
  generalize stationLinkOff u sid = t at hwent hdirectory ⊢
  refine ⟨hdirectory, fun k b hb => ?_, fun k hk hSk => ?_, fun h p hp => ?_, fun h hp => ?_, fun h => ?_,
    fun h r hr hends => ?_, fun k hk => ?_, ?_, ?_, ?_⟩
  · obtain ⟨keep₁, hub, hkeep₁⟩ := hoff.stations k b hb
    obtain ⟨keep₂, htb, hkeep₂⟩ := hwent.stations k _ hub
    refine ⟨fun h => keep₂ h && keep₁ h, ?_, fun h hh => ?_⟩
    · rw [htb, List.filter_filter]
      by_cases hk : k = sid
      · subst hk
        rw [if_pos rfl, if_neg hgone, if_pos (List.mem_append_right _ (List.mem_singleton_self k))]
        rfl
      · rw [if_neg hk, if_congr (mem_gone_next hk) rfl rfl]
    · rcases Bool.and_eq_false_iff.mp hh with hh | hh
      · exact hoff.retires (hkeep₂ h hh)
      · exact hkeep₁ h hh
  · rw [List.mem_append, not_or, List.mem_singleton] at hk
    obtain ⟨hk, hne⟩ := hk
    rw [hwent.others k hne hSk, hoff.others k hk hSk]
  · rcases hoff.points h p hp with ⟨k, hk⟩ | ⟨hret, hnone⟩
    · rcases hwent.points h _ hk with ⟨k', hk'⟩ | ⟨hret, hnone⟩
      · refine .inl ⟨k', hk'.trans ?_⟩
        by_cases hstation : p.station = sid
        · have hnot : p.station ∉ gone := hstation ▸ hgone
          rw [if_neg hnot, if_pos (by exact hstation), Point.aged_with_pendingCmd,
            if_pos (hstation ▸ List.mem_append_right _ (List.mem_singleton_self _))]
        · have hother : ({ (if p.station ∈ gone then p.aged .linkOff else p) with pendingCmd := k } : Point).station ≠ sid := by
            show (if p.station ∈ gone then p.aged .linkOff else p).station ≠ sid
            rw [aged_if_station]
            exact hstation
          rw [if_neg hother, if_congr (mem_gone_next hstation) rfl rfl]
      · refine .inr ⟨?_, hnone⟩
        have hstate : (if p.station ∈ gone then p.aged .linkOff else p).state = .retiring := hret
        exact aged_if_retiring hstate
    · exact .inr ⟨hret, hwent.free h hnone⟩
  · exact hwent.free h (hoff.free h hp)
  · rw [hwent.slots h]
    by_cases hin : h ∈ u.waitingSlots sid
    · obtain ⟨-, r, hr, -, hw⟩ := mem_waitingSlots.mp hin
      rw [if_pos hin, hr, hoff.waiting hr hw]
      exact .inr rfl
    · rw [if_neg hin]
      exact hoff.slots h
  · have hdone (hfinished : u.slots.find h = some (r.finish .linkDown 0)) :
        t.slots.find h = some (r.finish .linkDown 0) := by
      rw [hwent.slots h, if_neg, hfinished]
      intro hin
      obtain ⟨-, r', hr', -, hw⟩ := mem_waitingSlots.mp hin
      obtain rfl := Option.some.inj (hfinished.symm.trans hr')
      exact Slot.not_waits_finish r _ _ hw
    rcases hends with hsent | ⟨hh, hstation, hw⟩
    · exact hdone (hoff.ended h r hr (.inl hsent))
    · rcases List.mem_append.mp hstation with hstation | hstation
      · exact hdone (hoff.ended h r hr (.inr ⟨hh, hstation, hw⟩))
      · rcases hoff.slots h with heq | heq
        · rw [hr] at heq
          rw [hwent.slots h, if_pos (mem_waitingSlots.mpr ⟨hh, r, heq, List.mem_singleton.mp hstation, hw⟩),
            heq]
          rfl
        · rw [hr] at heq
          exact hdone heq
  · rcases List.mem_append.mp hk with hk | hk
    · rw [hwent.tagSets k (fun he => hgone (he ▸ hk)), hoff.tagSets k hk]
    · rw [List.mem_singleton.mp hk]
      exact hwent.tagSet
  · rw [hwent.queue, hoff.queue, hoff.offBindings hs hst hgone hkeep, ← askedFor_append, List.flatMap_append,
      List.flatMap_singleton]
  · rw [hwent.bindings, hoff.bindings]
  · rw [hwent.links, hoff.links]

/-! ## The exchange that is cut (R102 step 1, R122) -/

theorem cutCommand_none (hsent : (s.link l).sentSlot = none) : cutCommand (s.link l) s = s := by
  unfold Link.sentSlot at hsent
  unfold cutCommand
  cases hx : (s.link l).activity.exchange with
  | none => rfl
  | some x =>
    rw [hx] at hsent
    dsimp only at hsent ⊢
    cases hk : x.kind with
    | command h g =>
      rw [hk] at hsent
      cases hsent
    | poll => rfl
    | identReq => rfl

theorem cutCommand_sent (hsent : (s.link l).sentSlot = some h) :
    cutCommand (s.link l) s = finishSlot h .linkDown 0 .abandoned s := by
  unfold Link.sentSlot at hsent
  unfold cutCommand
  cases hx : (s.link l).activity.exchange with
  | none =>
    rw [hx] at hsent
    cases hsent
  | some x =>
    rw [hx] at hsent
    dsimp only at hsent ⊢
    cases hk : x.kind with
    | command k g =>
      rw [hk] at hsent
      obtain rfl : k = h := Option.some.inj hsent
      rfl
    | poll =>
      rw [hk] at hsent
      cases hsent
    | identReq =>
      rw [hk] at hsent
      cases hsent

/-- R112: a slot whose tag is abandoned leaves the links. -/
theorem finishSlot_abandoned_links (h : Nat) (result : CommandResult) (code : Byte) (s : State) :
    (finishSlot h result code .abandoned s).links = s.links := by
  cases hr : s.slots.find h with
  | none => rw [finishSlot_free hr]
  | some r =>
    rw [finishSlot_eq hr]
    simp only [testFree_frame]
    cases hg : r.tag with
    | none => rw [releaseTag_none hg]
    | some g => rw [releaseTag_abandoned hg]

/-- The state `c` in which the command of the link was cut, the link itself to come. -/
theorem LinkOff.cut {c : State} (hdirectory : DirectoryLaw c) (hreleased : Released S s c)
    (hslots : ∀ h, c.slots.find h = s.slots.find h ∨
      c.slots.find h = (s.slots.find h).map (fun r => r.finish .linkDown 0))
    (hended : ∀ h r, s.slots.find h = some r → (s.link l).sentSlot = some h →
      c.slots.find h = some (r.finish .linkDown 0))
    (hqueue : c.mirrorQueue = s.mirrorQueue) (hbindings : c.bindings = s.bindings)
      (hlinks : c.links = s.links) :
    LinkOff S l s (c.modifyLink l Link.disable) [] where
  directory := hdirectory.modifyLink (.inr fun k hk => by cases hk)
  stations := fun k st hst => hreleased.stations k st hst
  others := fun k _ hSk => hreleased.others k hSk
  points := fun h p hp => hreleased.points h p hp
  free := hreleased.free
  slots := hslots
  ended := fun h r hr hends => hended h r hr (hends.resolve_right (fun ⟨_, hin, _⟩ => List.not_mem_nil hin))
  tagSets := fun k hk => absurd hk List.not_mem_nil
  queue := hqueue
  bindings := hbindings
  links := congrArg (Quad.modify · l Link.disable) hlinks

theorem cutCommand_off (hs : DirectoryLaw s) (hS : EndsWithin S s l) :
    LinkOff S l s ((cutCommand (s.link l) s).modifyLink l Link.disable) [] := by
  cases hsent : (s.link l).sentSlot with
  | none =>
    rw [cutCommand_none hsent]
    refine .cut hs (.of_eq rfl rfl) (fun _ => .inl rfl) (fun h r _ hh => ?_) rfl rfl rfl
    rw [hsent] at hh
    cases hh
  | some h =>
    rw [cutCommand_sent hsent]
    refine .cut (hs.finishSlot _ _ _ _) (finishSlot_released _ _ _ (fun r p hr hp => hS h r p hr (.inr hsent) hp))
      (fun k => ?_) (fun k r hr hk => ?_) (by simp) (by simp) (finishSlot_abandoned_links _ _ _ _)
    · cases hr : s.slots.find h with
      | none =>
        rw [finishSlot_free hr]
        exact .inl rfl
      | some r =>
        rw [finishSlot_slots hr]
        by_cases hk : k = h
        · rw [hk, hr, Table.find_put_same]
          exact .inr rfl
        · exact .inl (Table.find_put_ne _ _ hk)
    · obtain rfl := Option.some.inj (hsent.symm.trans hk)
      rw [finishSlot_slots hr, Table.find_put_same]

/-! ## The whole poll list -/

/-- R102: station `sid` is heard. -/
def State.hears (s : State) (sid : Nat) : Bool :=
  match s.stations.find sid with
  | none => false
  | some st => st.state == .joining || st.state == .present

theorem hears_iff (hst : s.stations.find sid = some st) : s.hears sid = true ↔ st.heard := by
  unfold State.hears Station.heard
  rw [hst]
  simp

/-- R102 step 3: the stations of a list go off, those that are heard. -/
theorem LinkOff.foldl (hs : DirectoryLaw s) (hS : EndsWithin S s l) :
    ∀ (xs : List Nat) {u : State} {gone : List Nat},
    LinkOff S l s u gone → xs.Nodup → (∀ x ∈ xs, x ∉ gone ∧ ∃ st, s.stations.find x = some st) →
    LinkOff S l s (xs.foldl stationLinkOff u) (gone ++ xs.filter s.hears) := by
  intro xs
  induction xs with
  | nil =>
    intro u gone hoff _ _
    rw [List.filter_nil, List.append_nil]
    exact hoff
  | cons x xs ih =>
    intro u gone hoff hnodup hxs
    obtain ⟨hx, hnodup⟩ := List.nodup_cons.mp hnodup
    obtain ⟨hgone, st, hst⟩ := hxs x List.mem_cons_self
    rw [List.foldl_cons]
    by_cases hheard : st.heard
    · rw [List.filter_cons_of_pos ((hears_iff hst).mpr hheard), ← List.singleton_append, ← List.append_assoc]
      refine ih (hoff.next hs hS hst hgone hheard) hnodup (fun y hy => ?_)
      obtain ⟨hyg, hyst⟩ := hxs y (List.mem_cons_of_mem _ hy)
      refine ⟨fun hin => ?_, hyst⟩
      rcases List.mem_append.mp hin with hin | hin
      · exact hyg hin
      · exact hx (List.mem_singleton.mp hin ▸ hy)
    · rw [List.filter_cons_of_neg (fun h => hheard ((hears_iff hst).mp h))]
      obtain ⟨keep, hu, -⟩ := hoff.stations x st hst
      rw [if_neg hgone] at hu
      rw [stationLinkOff_unheard hu hheard]
      exact ih hoff hnodup (fun y hy => hxs y (List.mem_cons_of_mem _ hy))

/-- R40: a list built over the stations heard, station by station. -/
theorem flatMap_filter_hears (f : Nat → List Nat) (xs : List Nat) :
    (xs.filter s.hears).flatMap f = xs.flatMap (fun k => if s.hears k then f k else []) := by
  induction xs with
  | nil => rfl
  | cons x xs ih =>
    rw [List.flatMap_cons, ← ih]
    by_cases hx : s.hears x = true
    · rw [List.filter_cons_of_pos hx, List.flatMap_cons, if_pos hx]
    · rw [List.filter_cons_of_neg hx, if_neg hx, List.nil_append]

/-- R102: the state before the LEAVING stations are freed. -/
def State.linkedOff (s : State) (l : LinkId) : State :=
  (s.pollList l).foldl stationLinkOff ((cutCommand (s.link l) s).modifyLink l Link.disable)

theorem linkedOff_off (hs : DirectoryLaw s) (hS : EndsWithin S s l) :
    LinkOff S l s (s.linkedOff l) ((s.pollList l).filter s.hears) := by
  refine LinkOff.foldl hs hS _ (cutCommand_off hs hS) (hs.pollNodup l) (fun x hx => ⟨List.not_mem_nil, ?_⟩)
  obtain ⟨st, hst, -, -⟩ := (hs.pollList l x).mp hx
  exact ⟨st, hst⟩

/-! ## The LEAVING stations (R102 step 4) -/

theorem freeStations_find (xs : List Nat) (s : State) (k : Nat) :
    (xs.foldl (fun s sid => freeStation sid s) s).stations.find k = (if k ∈ xs then none else s.stations.find k) ∧
    (xs.foldl (fun s sid => freeStation sid s) s).tagSets.find k = (if k ∈ xs then none else s.tagSets.find k) := by
  induction xs generalizing s with
  | nil => exact ⟨rfl, rfl⟩
  | cons x xs ih =>
    obtain ⟨hstations, htags⟩ := ih (freeStation x s)
    rw [List.foldl_cons, hstations, htags]
    unfold freeStation
    dsimp only
    rw [Table.find_drop, Table.find_drop]
    by_cases hx : k = x
    · subst hx
      simp
    · by_cases hk : k ∈ xs <;> simp [hx, hk]

theorem disableLink_eq (ha : (s.link l).activity ≠ .disabled) : disableLink l s = settle
    ((leavingStations l (s.linkedOff l)).foldl (fun s sid => freeStation sid s) (s.linkedOff l)) := by
  have hlist : ((cutCommand (s.link l) s).modifyLink l Link.disable).pollList l = s.pollList l :=
    congrArg (Quad.get · l) (show (cutCommand (s.link l) s).pollLists = s.pollLists by simp)
  unfold disableLink State.linkedOff
  dsimp only
  rw [if_neg ha, hlist]

/-- R102 step 4: what the freeing of the LEAVING stations and the settling of the windows leave. -/
theorem disableLink_leaves (ha : (s.link l).activity ≠ .disabled) :
    (disableLink l s).points = (s.linkedOff l).points ∧ (disableLink l s).slots = (s.linkedOff l).slots ∧
    (disableLink l s).mirrorQueue = (s.linkedOff l).mirrorQueue ∧
      (disableLink l s).links = (s.linkedOff l).links := by
  rw [disableLink_eq ha]
  simp only [settle_frame]
  refine ⟨freeStations_keeps (fun s => s.points) ?_ _ _, freeStations_keeps (fun s => s.slots) ?_ _ _,
    freeStations_keeps (fun s => s.mirrorQueue) ?_ _ _, freeStations_keeps (fun s => s.links) ?_ _ _⟩
  all_goals exact fun _ _ => rfl

theorem disableLink_find (ha : (s.link l).activity ≠ .disabled) (k : Nat) :
    (disableLink l s).stations.find k =
      (if k ∈ leavingStations l (s.linkedOff l) then none else (s.linkedOff l).stations.find k) ∧
    (disableLink l s).tagSets.find k =
      (if k ∈ leavingStations l (s.linkedOff l) then none else (s.linkedOff l).tagSets.find k) := by
  rw [disableLink_eq ha]
  exact freeStations_find _ _ _

/-- R102 step 4: the LEAVING stations of the link, and they alone, are FREE. -/
theorem LinkOff.mem_leavingStations (hoff : LinkOff S l s u gone) {k : Nat} (hst : s.stations.find k = some st)
    (hlink : st.link = l) : k ∈ leavingStations l u ↔ k ∉ gone ∧ st.state = .leaving := by
  obtain ⟨keep, hu, -⟩ := hoff.stations k st hst
  rw [hoff.directory.mem_leavingStations]
  constructor
  · rintro ⟨b, hb, -, hstate⟩
    obtain rfl := Option.some.inj (hu.symm.trans hb)
    have hstate : (if k ∈ gone then st.fallSilent .linkOff else st).state = .leaving := hstate
    split at hstate
    next => cases hstate
    next hk => exact ⟨hk, hstate⟩
  · rintro ⟨hk, hstate⟩
    rw [if_neg hk] at hu
    exact ⟨_, hu, hlink, hstate⟩

/-- R2, R110, R121: under the laws the commands that end are of stations that are PRESENT. -/
theorem endsWithin_present (hcommands : CommandLaw s) (htags : TagLaw s) (l : LinkId) :
    EndsWithin (fun k => ∀ st, s.stations.find k = some st → st.state = .present) s l := by
  intro h r p hr hends hp st hst
  have hopen : r.state ≠ .done := by
    rcases hends with (hw | hw) | hsent
    · rw [hw]
      exact nofun
    · rw [hw]
      exact nofun
    · obtain ⟨r', hr', hstate⟩ := hcommands.sent l h hsent
      obtain rfl := Option.some.inj (hr.symm.trans hr')
      rw [hstate]
      exact nofun
  obtain ⟨⟨b, hb, hpresent⟩, q, hq, hstation⟩ := htags.station h r hr hopen
  obtain rfl := Option.some.inj (hp.symm.trans hq)
  rw [hstation, hb] at hst
  obtain rfl := Option.some.inj hst
  exact hpresent

end

/-- Settles O37: what `LinkOff` says of the state before the LEAVING stations are freed. -/
theorem linkDisableTakesTheLinkOff : Obligations.LinkDisableTakesTheLinkOff := by
  intro s l hs
  have hexec : exec (.linkDisable l) s = .next (disableLink l s) := inService_of_resetN hs _
  refine ⟨fun ha => ?_, fun ha hlaw => ⟨_, hexec, ?_⟩⟩
  · rw [hexec]
    exact congrArg Host.Outcome.next (if_pos ha)
  have hoff := linkedOff_off (S := fun _ => True) (l := l) hlaw (fun _ _ _ _ _ _ => trivial)
  obtain ⟨-, -, hnow, -, -, hpolls, hbindings, hmwm⟩ := disableLink_frame l s
  obtain ⟨hpoints, hslots, hqueue, hlinks⟩ := disableLink_leaves ha
  have hgone {k : Nat} {st : Station} (hst : s.stations.find k = some st) (hlink : st.link = l) :
      k ∈ (s.pollList l).filter s.hears ↔ st.heard := by
    rw [List.mem_filter, hears_iff hst, and_iff_right_iff_imp]
    refine fun hheard => (hlaw.pollList l k).mpr ⟨st, hst, hlink, ?_⟩
    rcases hheard with hstate | hstate <;> rw [hstate] <;> exact nofun
  refine ⟨?_, hpolls, hmwm, hnow, hbindings, ?_, fun h r hsent hr => ?_,
    fun k st hst hlink => ⟨fun hheard => ?heard,
    fun hsilent => ?silent, fun hleaving => ?leaving⟩⟩
  · unfold State.link
    rw [hlinks, hoff.links, Quad.get_modify_same]
    rfl
  · rw [hqueue, hoff.queue, flatMap_filter_hears]
    refine congrArg (askedFor s.mirrorQueue) (List.flatMap_congr (fun k _ => ?_))
    unfold State.hears State.offBindings
    cases s.stations.find k with
    | none => rfl
    | some st =>
      have hheard : (st.state == .joining || st.state == .present) = true ↔
        st.state = .joining ∨ st.state = .present := by
        simp
      exact if_congr hheard rfl rfl
  · rw [hslots]
    exact hoff.ended h r hr (.inl hsent)
  case heard =>
    have hin := (hgone hst hlink).mpr hheard
    have hstays : k ∉ leavingStations l (s.linkedOff l) := fun hm =>
      ((hoff.mem_leavingStations hst hlink).mp hm).1 hin
    obtain ⟨hfind, htags⟩ := disableLink_find ha k
    rw [if_neg hstays] at hfind htags
    obtain ⟨keep, hu, -⟩ := hoff.stations k st hst
    rw [if_pos hin] at hu
    refine ⟨⟨_, hfind.trans hu, rfl, rfl, rfl, rfl, rfl⟩, htags.trans (hoff.tagSets k hin),
      fun h r hh hr hstation hw => ?_,
      fun h p hp hstation hlive hforced => ?_⟩
    · rw [hslots]
      exact hoff.ended h r hr (.inr ⟨hh, hstation.symm ▸ hin, hw⟩)
    · rcases hoff.points h p hp with ⟨c, hc⟩ | ⟨hret, -⟩
      · rw [if_pos (hstation.symm ▸ hin), Point.aged_live hlive, Point.age_unforced _ hforced] at hc
        rw [hpoints]
        exact ⟨_, hc, rfl, rfl, rfl, rfl, rfl, rfl⟩
      · rw [hlive] at hret
        cases hret
  case silent =>
    have hnot : k ∉ (s.pollList l).filter s.hears := by
      rw [hgone hst hlink]
      rintro (hstate | hstate) <;> rw [hsilent] at hstate <;> cases hstate
    have hstays {S : Nat → Prop} (hoff : LinkOff S l s (s.linkedOff l) ((s.pollList l).filter s.hears)) :
        k ∉ leavingStations l (s.linkedOff l) := fun hm => by
      have hstate := ((hoff.mem_leavingStations hst hlink).mp hm).2
      rw [hsilent] at hstate
      cases hstate
    obtain ⟨hfind, -⟩ := disableLink_find ha k
    rw [if_neg (hstays hoff)] at hfind
    refine ⟨?_, fun hcommands htaglaw => ?_⟩
    · obtain ⟨keep, hu, -⟩ := hoff.stations k st hst
      rw [if_neg hnot] at hu
      exact ⟨_, hfind.trans hu, rfl⟩
    · have hwithin := linkedOff_off (l := l) hlaw (endsWithin_present hcommands htaglaw l)
      rw [hfind, hwithin.others k hnot (fun hpresent => ?_), hst]
      have hstate := hpresent st hst
      rw [hsilent] at hstate
      cases hstate
  case leaving =>
    have hnot : k ∉ (s.pollList l).filter s.hears := by
      rw [hgone hst hlink]
      rintro (hstate | hstate) <;> rw [hleaving] at hstate <;> cases hstate
    obtain ⟨hfind, -⟩ := disableLink_find ha k
    rw [hfind, if_pos ((hoff.mem_leavingStations hst hlink).mpr ⟨hnot, hleaving⟩)]

end Sys2Proof.Machine
end
